-- ==== Sys2Proof/Word.lean ====
section
/-! DEFINITION. The word types and their plainest arithmetic (00_scope.md R2-R5, 04_scalar_control.md R93). -/

namespace Sys2Proof

/-- A 64-bit scalar word (01_thread.md R10). -/
abbrev Word := BitVec 64

/-- A byte of memory (00_scope.md R4). -/
abbrev Byte := BitVec 8

/-- Bits [lo+n-1 : lo] of a word, as the manual's slices write them (00_scope.md R3). -/
abbrev bits {m : Nat} (w : BitVec m) (lo n : Nat) : BitVec n := w.extractLsb' lo n

/-- Bit n of a word (R3). -/
abbrev bit {m : Nat} (w : BitVec m) (n : Nat) : Bool := w.getLsbD n

/-- A truth value as a register holds it. -/
abbrev flag (b : Bool) : Word := if b then 1 else 0

end Sys2Proof
end

