-- ==== Sys2Proof/Syntax.lean ====
section
/-! DEFINITION. The instruction syntax: one constructor per row of spec/opcode_table.json (02_encoding.md R46-R60 for the
encoded instructions, 95_what_each_step_holds.md for the device events, which have no encoding). Field names are the
table's; an event's operands name the agent it happens to and what the outside world supplies (log 2). -/

namespace Sys2Proof

/-- A flit (18_fabric.md R406): its header and payload, with the wavelength and the port that it travels on (R403). -/
structure Flit where
  /-- Physical identity of the destination package. -/
  dphys : BitVec 32
  /-- Physical identity of the source package. -/
  sphys : BitVec 32 := 0
  /-- DDIE. -/
  ddie  : BitVec 3 := 0
  /-- Source die: package * 8 + SDIE, the package that SPHYS identifies. -/
  src   : Nat
  /-- CLASS: true for control. -/
  ctl   : Bool
  /-- COPY: true for the second copy of a control flit. -/
  copy  : Bool
  /-- VER: the route version at its injection. -/
  ver   : BitVec 16 := 0
  /-- KIND. -/
  kind  : BitVec 8
  /-- Sequence number per (source die, destination die, class). -/
  seq   : BitVec 32
  /-- The bytes of its payload that its kind uses; the others of the 240 are 0. -/
  payload : List (BitVec 8) := []
  /-- The plane that it travels on. -/
  plane : BitVec 2 := 0
  /-- The scale-up port that it travels on; none on a path inside a package. -/
  port  : Option Nat
  /-- The wavelength that it leaves on (R403). -/
  wave  : Nat := 0
  deriving DecidableEq, Repr

/-- Every instruction and device event of the opcode table. -/
inductive Instr where
  /-- ADD: Adds two scalar registers modulo 2^64. (R96) -/
  | add (d : BitVec 5) (a : BitVec 5) (b : BitVec 5)
  /-- SUB: Subtracts two scalar registers modulo 2^64. (R96) -/
  | sub (d : BitVec 5) (a : BitVec 5) (b : BitVec 5)
  /-- AND: Bitwise AND of two scalar registers. (R96) -/
  | and (d : BitVec 5) (a : BitVec 5) (b : BitVec 5)
  /-- OR: Bitwise OR of two scalar registers. (R96) -/
  | or (d : BitVec 5) (a : BitVec 5) (b : BitVec 5)
  /-- XOR: Bitwise XOR of two scalar registers. (R96) -/
  | xor (d : BitVec 5) (a : BitVec 5) (b : BitVec 5)
  /-- ANDN: ANDs xa with the complement of xb. (R96) -/
  | andn (d : BitVec 5) (a : BitVec 5) (b : BitVec 5)
  /-- SHADD: Adds xa shifted left by aux to xb. (R96) -/
  | shadd (d : BitVec 5) (a : BitVec 5) (b : BitVec 5) (c : BitVec 5)
  /-- SLL: Shifts xa left by xb[5:0]. (R96) -/
  | sll (d : BitVec 5) (a : BitVec 5) (b : BitVec 5)
  /-- SRL: Shifts xa right logically by xb[5:0]. (R96) -/
  | srl (d : BitVec 5) (a : BitVec 5) (b : BitVec 5)
  /-- SRA: Shifts xa right arithmetically by xb[5:0]. (R96) -/
  | sra (d : BitVec 5) (a : BitVec 5) (b : BitVec 5)
  /-- ROR: Rotates xa right by xb[5:0]. (R96) -/
  | ror (d : BitVec 5) (a : BitVec 5) (b : BitVec 5)
  /-- CLZ: Counts leading zero bits of xa. (R96) -/
  | clz (d : BitVec 5) (a : BitVec 5)
  /-- CTZ: Counts trailing zero bits of xa. (R96) -/
  | ctz (d : BitVec 5) (a : BitVec 5)
  /-- POPC: Counts one bits of xa. (R96) -/
  | popc (d : BitVec 5) (a : BitVec 5)
  /-- BEXT: Extracts a bit field of aux+1 bits from xa at xb[5:0]. (R96) -/
  | bext (d : BitVec 5) (a : BitVec 5) (b : BitVec 5) (w : BitVec 5)
  /-- SEQ: Sets xd to 1 when xa equals xb. (R96) -/
  | seq (d : BitVec 5) (a : BitVec 5) (b : BitVec 5)
  /-- SNE: Sets xd to 1 when xa differs from xb. (R96) -/
  | sne (d : BitVec 5) (a : BitVec 5) (b : BitVec 5)
  /-- SLT: Signed less-than comparison into xd. (R96) -/
  | slt (d : BitVec 5) (a : BitVec 5) (b : BitVec 5)
  /-- SLTN: Natural less-than comparison into xd. (R96) -/
  | sltn (d : BitVec 5) (a : BitVec 5) (b : BitVec 5)
  /-- MIN: Signed minimum of xa and xb. (R96) -/
  | min (d : BitVec 5) (a : BitVec 5) (b : BitVec 5)
  /-- MAX: Signed maximum of xa and xb. (R96) -/
  | max (d : BitVec 5) (a : BitVec 5) (b : BitVec 5)
  /-- MUL: Low 64 bits of the product of xa and xb. (R96) -/
  | mul (d : BitVec 5) (a : BitVec 5) (b : BitVec 5)
  /-- MULH: High 64 bits of the signed product. (R96) -/
  | mulh (d : BitVec 5) (a : BitVec 5) (b : BitVec 5)
  /-- MULHN: High 64 bits of the natural product. (R96) -/
  | mulhn (d : BitVec 5) (a : BitVec 5) (b : BitVec 5)
  /-- DIV: Signed division truncated towards zero. (R96) -/
  | div (d : BitVec 5) (a : BitVec 5) (b : BitVec 5)
  /-- DIVN: Natural division. (R96) -/
  | divn (d : BitVec 5) (a : BitVec 5) (b : BitVec 5)
  /-- REM: Signed remainder with the sign of xa. (R96) -/
  | rem (d : BitVec 5) (a : BitVec 5) (b : BitVec 5)
  /-- REMN: Natural remainder. (R96) -/
  | remn (d : BitVec 5) (a : BitVec 5) (b : BitVec 5)
  /-- MADD: Multiplies xa by xb and adds the register named by aux. (R96) -/
  | madd (d : BitVec 5) (a : BitVec 5) (b : BitVec 5) (c : BitVec 5)
  /-- ADDI: Adds a sign-extended 16-bit immediate. (R97) -/
  | addi (d : BitVec 5) (a : BitVec 5) (i : BitVec 16)
  /-- ANDI: ANDs a zero-extended 16-bit immediate. (R97) -/
  | andi (d : BitVec 5) (a : BitVec 5) (i : BitVec 16)
  /-- ORI: ORs a zero-extended 16-bit immediate. (R97) -/
  | ori (d : BitVec 5) (a : BitVec 5) (i : BitVec 16)
  /-- XORI: XORs a zero-extended 16-bit immediate. (R97) -/
  | xori (d : BitVec 5) (a : BitVec 5) (i : BitVec 16)
  /-- SHORI: Shifts xa left by 16 and ORs the immediate. (R97) -/
  | shori (d : BitVec 5) (a : BitVec 5) (i : BitVec 16)
  /-- ADDPC: Forms a PC-relative code-space address. (R97) -/
  | addpc (d : BitVec 5) (i : BitVec 16)
  /-- SLLI: Shifts left by an immediate amount. (R98) -/
  | slli (d : BitVec 5) (a : BitVec 5) (m : BitVec 6)
  /-- SRLI: Shifts right logically by an immediate amount. (R98) -/
  | srli (d : BitVec 5) (a : BitVec 5) (m : BitVec 6)
  /-- SRAI: Shifts right arithmetically by an immediate amount. (R98) -/
  | srai (d : BitVec 5) (a : BitVec 5) (m : BitVec 6)
  /-- SLTI: Signed comparison against a 12-bit immediate. (R98) -/
  | slti (d : BitVec 5) (a : BitVec 5) (i : BitVec 12)
  /-- BEQZ: Branches when xa is zero. (R102) -/
  | beqz (a : BitVec 5) (o : BitVec 16)
  /-- BNEZ: Branches when xa is non-zero. (R102) -/
  | bnez (a : BitVec 5) (o : BitVec 16)
  /-- BLTZ: Branches when xa is negative. (R102) -/
  | bltz (a : BitVec 5) (o : BitVec 16)
  /-- BGEZ: Branches when xa is not negative. (R102) -/
  | bgez (a : BitVec 5) (o : BitVec 16)
  /-- BGTZ: Branches when xa is positive. (R102) -/
  | bgtz (a : BitVec 5) (o : BitVec 16)
  /-- BLEZ: Branches when xa is not positive. (R102) -/
  | blez (a : BitVec 5) (o : BitVec 16)
  /-- BEMPTY: Branches when no element below VL is set in the mask-stack top. (R103) -/
  | bempty (o : BitVec 16)
  /-- JMP: Jumps PC-relative by a 26-bit word offset. (R104) -/
  | jmp (o : BitVec 26)
  /-- CALL: Jumps PC-relative and writes the return address to x30. (R104) -/
  | call (o : BitVec 26)
  /-- JR: Jumps to the address in xa. (R106) -/
  | jr (a : BitVec 5)
  /-- CALLR: Jumps to xa and writes the return address to xd. (R106) -/
  | callr (d : BitVec 5) (a : BitVec 5)
  /-- JTAB: Dispatches through a table of code addresses, falling through when the index is out of range. (R107) -/
  | jtab (d : BitVec 5) (a : BitVec 5) (l : BitVec 12)
  /-- LOOP: Enters a hardware-loop level over the following body. (R109) -/
  | loop (a : BitVec 5) (l : BitVec 8)
  /-- MFLS: Reads a loop-state register. (R113) -/
  | mfls (d : BitVec 5) (s : BitVec 4)
  /-- MTLS: Writes a loop-state register. (R113) -/
  | mtls (a : BitVec 5) (s : BitVec 4)
  /-- VADD: Element-wise integer add, optionally saturating. (R123) -/
  | vadd (d : BitVec 5) (a : BitVec 5) (b : BitVec 5) (x : Bool) (w : BitVec 2) (k : Bool) (s : Bool)
  /-- VSUB: Element-wise integer subtract. (R123) -/
  | vsub (d : BitVec 5) (a : BitVec 5) (b : BitVec 5) (x : Bool) (w : BitVec 2) (k : Bool) (s : Bool)
  /-- VRSUB: Element-wise reversed integer subtract. (R123) -/
  | vrsub (d : BitVec 5) (a : BitVec 5) (b : BitVec 5) (x : Bool) (w : BitVec 2) (k : Bool) (s : Bool)
  /-- VMIN: Element-wise integer minimum. (R123) -/
  | vmin (d : BitVec 5) (a : BitVec 5) (b : BitVec 5) (x : Bool) (w : BitVec 2) (k : Bool) (s : Bool)
  /-- VMAX: Element-wise integer maximum. (R123) -/
  | vmax (d : BitVec 5) (a : BitVec 5) (b : BitVec 5) (x : Bool) (w : BitVec 2) (k : Bool) (s : Bool)
  /-- VABS: Element-wise integer absolute value. (R123) -/
  | vabs (d : BitVec 5) (a : BitVec 5) (w : BitVec 2) (k : Bool) (s : Bool)
  /-- VABSD: Element-wise absolute difference. (R123) -/
  | vabsd (d : BitVec 5) (a : BitVec 5) (b : BitVec 5) (x : Bool) (w : BitVec 2) (k : Bool) (s : Bool)
  /-- VMOV: Copies the second source into each element. (R123) -/
  | vmov (d : BitVec 5) (b : BitVec 5) (x : Bool) (w : BitVec 2) (k : Bool) (s : Bool)
  /-- VMUL: Element-wise integer multiply. (R123) -/
  | vmul (d : BitVec 5) (a : BitVec 5) (b : BitVec 5) (x : Bool) (w : BitVec 2) (k : Bool) (s : Bool)
  /-- VMULH: High half of the element-wise product. (R123) -/
  | vmulh (d : BitVec 5) (a : BitVec 5) (b : BitVec 5) (x : Bool) (w : BitVec 2) (k : Bool) (s : Bool)
  /-- VMACC: Element-wise multiply-accumulate into vd. (R123) -/
  | vmacc (d : BitVec 5) (a : BitVec 5) (b : BitVec 5) (x : Bool) (w : BitVec 2) (k : Bool) (s : Bool)
  /-- VDOT4: Adds four quarter-width products into each element. (R124) -/
  | vdot4 (d : BitVec 5) (a : BitVec 5) (b : BitVec 5) (x : Bool) (w : BitVec 2) (k : Bool) (s : Bool)
  /-- VDIV: Element-wise integer division. (R123) -/
  | vdiv (d : BitVec 5) (a : BitVec 5) (b : BitVec 5) (x : Bool) (w : BitVec 2) (k : Bool) (s : Bool)
  /-- VAND: Element-wise AND. (R125) -/
  | vand (d : BitVec 5) (a : BitVec 5) (b : BitVec 5) (x : Bool) (k : Bool) (s : Bool)
  /-- VOR: Element-wise OR. (R125) -/
  | vor (d : BitVec 5) (a : BitVec 5) (b : BitVec 5) (x : Bool) (k : Bool) (s : Bool)
  /-- VXOR: Element-wise XOR. (R125) -/
  | vxor (d : BitVec 5) (a : BitVec 5) (b : BitVec 5) (x : Bool) (k : Bool) (s : Bool)
  /-- VANDN: Element-wise AND with complement. (R125) -/
  | vandn (d : BitVec 5) (a : BitVec 5) (b : BitVec 5) (x : Bool) (k : Bool) (s : Bool)
  /-- VSLL: Element-wise shift left. (R125) -/
  | vsll (d : BitVec 5) (a : BitVec 5) (b : BitVec 5) (x : Bool) (k : Bool) (s : Bool)
  /-- VSRL: Element-wise logical shift right. (R125) -/
  | vsrl (d : BitVec 5) (a : BitVec 5) (b : BitVec 5) (x : Bool) (k : Bool) (s : Bool)
  /-- VSRA: Element-wise arithmetic shift right. (R125) -/
  | vsra (d : BitVec 5) (a : BitVec 5) (b : BitVec 5) (x : Bool) (k : Bool) (s : Bool)
  /-- VPOPC: Element-wise population count. (R125) -/
  | vpopc (d : BitVec 5) (a : BitVec 5) (k : Bool) (s : Bool)
  /-- VCEQ: Writes a mask of element-wise equality. (R126) -/
  | vceq (d : BitVec 4) (a : BitVec 5) (b : BitVec 5) (x : Bool) (k : Bool) (s : Bool)
  /-- VCNE: Writes a mask of element-wise inequality. (R126) -/
  | vcne (d : BitVec 4) (a : BitVec 5) (b : BitVec 5) (x : Bool) (k : Bool) (s : Bool)
  /-- VCLT: Writes a mask of element-wise less-than. (R126) -/
  | vclt (d : BitVec 4) (a : BitVec 5) (b : BitVec 5) (x : Bool) (k : Bool) (s : Bool)
  /-- VCLE: Writes a mask of element-wise less-or-equal. (R126) -/
  | vcle (d : BitVec 4) (a : BitVec 5) (b : BitVec 5) (x : Bool) (k : Bool) (s : Bool)
  /-- VCGT: Writes a mask of element-wise greater-than. (R126) -/
  | vcgt (d : BitVec 4) (a : BitVec 5) (b : BitVec 5) (x : Bool) (k : Bool) (s : Bool)
  /-- VCGE: Writes a mask of element-wise greater-or-equal. (R126) -/
  | vcge (d : BitVec 4) (a : BitVec 5) (b : BitVec 5) (x : Bool) (k : Bool) (s : Bool)
  /-- VFADD: Element-wise float add. (R127) -/
  | vfadd (d : BitVec 5) (a : BitVec 5) (b : BitVec 5) (x : Bool) (w : BitVec 2) (k : Bool)
  /-- VFSUB: Element-wise float subtract. (R127) -/
  | vfsub (d : BitVec 5) (a : BitVec 5) (b : BitVec 5) (x : Bool) (w : BitVec 2) (k : Bool)
  /-- VFMUL: Element-wise float multiply. (R127) -/
  | vfmul (d : BitVec 5) (a : BitVec 5) (b : BitVec 5) (x : Bool) (w : BitVec 2) (k : Bool)
  /-- VFDIV: Element-wise float divide. (R127) -/
  | vfdiv (d : BitVec 5) (a : BitVec 5) (b : BitVec 5) (x : Bool) (w : BitVec 2) (k : Bool)
  /-- VFSQRT: Element-wise float square root. (R127) -/
  | vfsqrt (d : BitVec 5) (a : BitVec 5) (w : BitVec 2) (k : Bool)
  /-- VFMIN: Element-wise minimumNumber. (R127) -/
  | vfmin (d : BitVec 5) (a : BitVec 5) (b : BitVec 5) (x : Bool) (w : BitVec 2) (k : Bool)
  /-- VFMAX: Element-wise maximumNumber. (R127) -/
  | vfmax (d : BitVec 5) (a : BitVec 5) (b : BitVec 5) (x : Bool) (w : BitVec 2) (k : Bool)
  /-- VFABS: Clears the sign bit of each element. (R127) -/
  | vfabs (d : BitVec 5) (a : BitVec 5) (w : BitVec 2) (k : Bool)
  /-- VFNEG: Inverts the sign bit of each element. (R127) -/
  | vfneg (d : BitVec 5) (a : BitVec 5) (w : BitVec 2) (k : Bool)
  /-- VFMACC: Fused vd + a × b. (R127) -/
  | vfmacc (d : BitVec 5) (a : BitVec 5) (b : BitVec 5) (x : Bool) (w : BitVec 2) (k : Bool)
  /-- VFNMACC: Fused vd − a × b. (R127) -/
  | vfnmacc (d : BitVec 5) (a : BitVec 5) (b : BitVec 5) (x : Bool) (w : BitVec 2) (k : Bool)
  /-- VFMADD: Fused vd × a + b. (R127) -/
  | vfmadd (d : BitVec 5) (a : BitVec 5) (b : BitVec 5) (x : Bool) (w : BitVec 2) (k : Bool)
  /-- VCVT: Converts each element from the encoded source format to VTYPE. (R128) -/
  | vcvt (d : BitVec 5) (a : BitVec 5) (e : BitVec 3) (f : BitVec 4) (k : Bool) (s : Bool)
  /-- MPUSH: Pushes ma AND the top onto the mask stack. (R130) -/
  | mpush (a : BitVec 4)
  /-- MINV: Replaces the top by the entry below AND NOT the top. (R130) -/
  | minv
  /-- MPOP: Pops the mask stack. (R130) -/
  | mpop
  /-- MAND: Bitwise AND of two masks. (R131) -/
  | mand (d : BitVec 4) (a : BitVec 4) (b : BitVec 4) (k : Bool)
  /-- MOR: Bitwise OR of two masks. (R131) -/
  | mor (d : BitVec 4) (a : BitVec 4) (b : BitVec 4) (k : Bool)
  /-- MXOR: Bitwise XOR of two masks. (R131) -/
  | mxor (d : BitVec 4) (a : BitVec 4) (b : BitVec 4) (k : Bool)
  /-- MMOV: Copies a mask. (R131) -/
  | mmov (d : BitVec 4) (a : BitVec 4) (k : Bool)
  /-- MCNT: Counts active set mask bits into a scalar. (R115) -/
  | mcnt (d : BitVec 5) (a : BitVec 4) (k : Bool)
  /-- MANY: Returns 1 when any active mask bit is set. (R115) -/
  | many (d : BitVec 5) (a : BitVec 4) (k : Bool)
  /-- MFIRST: Returns the lowest active set mask index. (R115) -/
  | mfirst (d : BitVec 5) (a : BitVec 4) (k : Bool)
  /-- VSLIDEUP: Slides a row up by xb positions. (R132) -/
  | vslideup (d : BitVec 5) (a : BitVec 5) (b : BitVec 5) (k : Bool)
  /-- VSLIDEDN: Slides a row down by xb positions. (R132) -/
  | vslidedn (d : BitVec 5) (a : BitVec 5) (b : BitVec 5) (k : Bool)
  /-- VSLIDE1UP: Slides up by one, inserting xb at position 0. (R132) -/
  | vslide1up (d : BitVec 5) (a : BitVec 5) (b : BitVec 5) (k : Bool)
  /-- VSLIDE1DN: Slides down by one, inserting xb at the end. (R132) -/
  | vslide1dn (d : BitVec 5) (a : BitVec 5) (b : BitVec 5) (k : Bool)
  /-- VPERM: Permutes a row by index vector. (R132) -/
  | vperm (d : BitVec 5) (a : BitVec 5) (b : BitVec 5) (k : Bool)
  /-- VCOMPRESS: Packs mask-selected elements to the row start. (R132) -/
  | vcompress (d : BitVec 5) (a : BitVec 5) (b : BitVec 4) (k : Bool)
  /-- VBCAST: Broadcasts element xb across each row. (R132) -/
  | vbcast (d : BitVec 5) (a : BitVec 5) (b : BitVec 5) (k : Bool)
  /-- VMVXS: Moves element 0 into a scalar register. (R132) -/
  | vmvxs (d : BitVec 5) (a : BitVec 5) (s : Bool)
  /-- VMVSX: Moves a scalar into element 0. (R132) -/
  | vmvsx (d : BitVec 5) (a : BitVec 5) (k : Bool)
  /-- VRSUM: Row sum reduction. (R134) -/
  | vrsum (d : BitVec 5) (a : BitVec 5) (k : Bool) (s : Bool)
  /-- VRMIN: Row minimum reduction. (R134) -/
  | vrmin (d : BitVec 5) (a : BitVec 5) (k : Bool) (s : Bool)
  /-- VRMAX: Row maximum reduction. (R134) -/
  | vrmax (d : BitVec 5) (a : BitVec 5) (k : Bool) (s : Bool)
  /-- VRMINI: Row minimum with index. (R134) -/
  | vrmini (d : BitVec 5) (a : BitVec 5) (k : Bool) (s : Bool)
  /-- VRMAXI: Row maximum with index. (R134) -/
  | vrmaxi (d : BitVec 5) (a : BitVec 5) (k : Bool) (s : Bool)
  /-- VSCAN: Inclusive row prefix sum. (R135) -/
  | vscan (d : BitVec 5) (a : BitVec 5) (k : Bool) (s : Bool)
  /-- VSCANX: Exclusive row prefix sum. (R135) -/
  | vscanx (d : BitVec 5) (a : BitVec 5) (k : Bool) (s : Bool)
  /-- VSEGSUM: Segmented sum into each segment's first element. (R136) -/
  | vsegsum (d : BitVec 5) (a : BitVec 5) (b : BitVec 4) (k : Bool) (s : Bool)
  /-- VSEGMIN: Segmented minimum. (R136) -/
  | vsegmin (d : BitVec 5) (a : BitVec 5) (b : BitVec 4) (k : Bool) (s : Bool)
  /-- VSEGMAX: Segmented maximum. (R136) -/
  | vsegmax (d : BitVec 5) (a : BitVec 5) (b : BitVec 4) (k : Bool) (s : Bool)
  /-- VSEGSCAN: Segmented inclusive scan. (R136) -/
  | vsegscan (d : BitVec 5) (a : BitVec 5) (b : BitVec 4) (k : Bool) (s : Bool)
  /-- VMERGE: Stably merges two sorted rows. (R138) -/
  | vmerge (d : BitVec 5) (a : BitVec 5) (b : BitVec 5) (s : Bool)
  /-- VTOPK: Selects the K highest-keyed experts per row with grouping and dead mask. (R141) -/
  | vtopk (d : BitVec 5) (a : BitVec 5) (b : BitVec 5) (s : Bool)
  /-- VMRGK: Merges two top-k pair lists. (R142) -/
  | vmrgk (d : BitVec 5) (a : BitVec 5) (b : BitVec 5) (s : Bool)
  /-- VSORTSTEP: One bitonic compare-exchange stage per row. (R139) -/
  | vsortstep (d : BitVec 5) (a : BitVec 5) (b : BitVec 5) (s : Bool)
  /-- VBMAX: Computes block scales from va into v31. (R144) -/
  | vbmax (a : BitVec 5) (w : BitVec 2) (k : Bool)
  /-- VSCALE: Multiplies each element by its block scale. (R145) -/
  | vscale (d : BitVec 5) (a : BitVec 5) (w : BitVec 2) (k : Bool)
  /-- VQUANT: Quantises FP32 elements to the scaled format. (R145) -/
  | vquant (d : BitVec 5) (a : BitVec 5) (w : BitVec 2) (k : Bool)
  /-- VDEQ: Dequantises scaled elements to FP32. (R145) -/
  | vdeq (d : BitVec 5) (a : BitVec 5) (w : BitVec 2) (k : Bool)
  /-- VSFMA: Fused add of va times a decoded scaled operand. (R145) -/
  | vsfma (d : BitVec 5) (a : BitVec 5) (b : BitVec 5) (w : BitVec 2) (k : Bool)
  /-- VSETI: Sets VTYPE from an immediate and VL from xa. (R146) -/
  | vseti (d : BitVec 5) (a : BitVec 5) (t : BitVec 10)
  /-- VSETVL: Sets VL from xa. (R146) -/
  | vsetvl (d : BitVec 5) (a : BitVec 5)
  /-- VSETT: Sets VTYPE from xa and clamps VL. (R146) -/
  | vsett (d : BitVec 5) (a : BitVec 5)
  /-- VSHAPE: Sets VSHAPE.COLS from xa. (R146) -/
  | vshape (a : BitVec 5)
  /-- VSHAPEI: Sets VSHAPE.COLS from an immediate. (R146) -/
  | vshapei (c : BitVec 12)
  /-- LDS8: Scalar sign-extending byte load. (R157) -/
  | lds8 (t : BitVec 5) (b : BitVec 5) (i : BitVec 5) (s : BitVec 3) (e : BitVec 3)
  /-- LDN8: Scalar zero-extending byte load. (R157) -/
  | ldn8 (t : BitVec 5) (b : BitVec 5) (i : BitVec 5) (s : BitVec 3) (e : BitVec 3)
  /-- LDS16: Scalar sign-extending 16-bit load. (R157) -/
  | lds16 (t : BitVec 5) (b : BitVec 5) (i : BitVec 5) (s : BitVec 3) (e : BitVec 3)
  /-- LDN16: Scalar zero-extending 16-bit load. (R157) -/
  | ldn16 (t : BitVec 5) (b : BitVec 5) (i : BitVec 5) (s : BitVec 3) (e : BitVec 3)
  /-- LDS32: Scalar sign-extending 32-bit load. (R157) -/
  | lds32 (t : BitVec 5) (b : BitVec 5) (i : BitVec 5) (s : BitVec 3) (e : BitVec 3)
  /-- LDN32: Scalar zero-extending 32-bit load. (R157) -/
  | ldn32 (t : BitVec 5) (b : BitVec 5) (i : BitVec 5) (s : BitVec 3) (e : BitVec 3)
  /-- LD64: Scalar 64-bit load. (R157) -/
  | ld64 (t : BitVec 5) (b : BitVec 5) (i : BitVec 5) (s : BitVec 3) (e : BitVec 3)
  /-- ST8: Scalar byte store. (R157) -/
  | st8 (t : BitVec 5) (b : BitVec 5) (i : BitVec 5) (s : BitVec 3) (e : BitVec 3) (n : Bool)
  /-- ST16: Scalar 16-bit store. (R157) -/
  | st16 (t : BitVec 5) (b : BitVec 5) (i : BitVec 5) (s : BitVec 3) (e : BitVec 3) (n : Bool)
  /-- ST32: Scalar 32-bit store. (R157) -/
  | st32 (t : BitVec 5) (b : BitVec 5) (i : BitVec 5) (s : BitVec 3) (e : BitVec 3) (n : Bool)
  /-- ST64: Scalar 64-bit store. (R157) -/
  | st64 (t : BitVec 5) (b : BitVec 5) (i : BitVec 5) (s : BitVec 3) (e : BitVec 3) (n : Bool)
  /-- SAADD: Scalar atomic add returning the old value. (R157) -/
  | saadd (t : BitVec 5) (b : BitVec 5) (i : BitVec 5) (s : BitVec 3) (e : BitVec 3)
  /-- SAMAX: Scalar atomic signed maximum. (R157) -/
  | samax (t : BitVec 5) (b : BitVec 5) (i : BitVec 5) (s : BitVec 3) (e : BitVec 3)
  /-- SASWAP: Scalar atomic swap. (R157) -/
  | saswap (t : BitVec 5) (b : BitVec 5) (i : BitVec 5) (s : BitVec 3) (e : BitVec 3)
  /-- SACAS: Scalar atomic compare-and-swap. (R157) -/
  | sacas (t : BitVec 5) (b : BitVec 5) (i : BitVec 5) (s : BitVec 3) (e : BitVec 3)
  /-- VLD: Unit-stride vector load. (R158) -/
  | vld (t : BitVec 5) (b : BitVec 5) (s : BitVec 3) (e : BitVec 3) (k : Bool) (n : Bool)
  /-- VLDS: Strided vector load. (R158) -/
  | vlds (t : BitVec 5) (b : BitVec 5) (i : BitVec 5) (s : BitVec 3) (e : BitVec 3) (k : Bool) (n : Bool)
  /-- VLD2D: Two-dimensional vector load by row stride. (R158) -/
  | vld2d (t : BitVec 5) (b : BitVec 5) (i : BitVec 5) (s : BitVec 3) (e : BitVec 3) (k : Bool) (n : Bool)
  /-- VST: Unit-stride vector store. (R158) -/
  | vst (t : BitVec 5) (b : BitVec 5) (s : BitVec 3) (e : BitVec 3) (k : Bool) (n : Bool)
  /-- VSTS: Strided vector store. (R158) -/
  | vsts (t : BitVec 5) (b : BitVec 5) (i : BitVec 5) (s : BitVec 3) (e : BitVec 3) (k : Bool) (n : Bool)
  /-- VST2D: Two-dimensional vector store. (R158) -/
  | vst2d (t : BitVec 5) (b : BitVec 5) (i : BitVec 5) (s : BitVec 3) (e : BitVec 3) (k : Bool) (n : Bool)
  /-- VGATH: Indexed gather within the base's channel window. (R161) -/
  | vgath (t : BitVec 5) (b : BitVec 5) (i : BitVec 5) (s : BitVec 3) (e : BitVec 3) (k : Bool) (n : Bool)
  /-- VGATHA: Gather from a vector of pod addresses. (R161) -/
  | vgatha (t : BitVec 5) (i : BitVec 5) (s : BitVec 3) (e : BitVec 3) (k : Bool) (n : Bool)
  /-- VGATHF: Gather with indices popped from a feed. (R172) -/
  | vgathf (t : BitVec 5) (b : BitVec 5) (i : BitVec 2) (s : BitVec 3) (e : BitVec 3) (k : Bool) (n : Bool)
  /-- VSCAT: Indexed scatter. (R161) -/
  | vscat (t : BitVec 5) (b : BitVec 5) (i : BitVec 5) (s : BitVec 3) (e : BitVec 3) (k : Bool) (n : Bool)
  /-- VSCATA: Scatter to a vector of pod addresses. (R161) -/
  | vscata (t : BitVec 5) (i : BitVec 5) (s : BitVec 3) (e : BitVec 3) (k : Bool) (n : Bool)
  /-- VSCATF: Scatter with indices popped from a feed. (R172) -/
  | vscatf (t : BitVec 5) (b : BitVec 5) (i : BitVec 2) (s : BitVec 3) (e : BitVec 3) (k : Bool) (n : Bool)
  /-- VAADD: Returning atomic add per element. (R163) -/
  | vaadd (t : BitVec 5) (b : BitVec 5) (i : BitVec 5) (s : BitVec 3) (e : BitVec 3) (k : Bool) (n : Bool)
  /-- VAMIN: Returning atomic minimum per element. (R163) -/
  | vamin (t : BitVec 5) (b : BitVec 5) (i : BitVec 5) (s : BitVec 3) (e : BitVec 3) (k : Bool) (n : Bool)
  /-- VAMAX: Returning atomic maximum per element. (R163) -/
  | vamax (t : BitVec 5) (b : BitVec 5) (i : BitVec 5) (s : BitVec 3) (e : BitVec 3) (k : Bool) (n : Bool)
  /-- VAOR: Returning atomic OR per element. (R163) -/
  | vaor (t : BitVec 5) (b : BitVec 5) (i : BitVec 5) (s : BitVec 3) (e : BitVec 3) (k : Bool) (n : Bool)
  /-- VASWAP: Returning atomic swap per element. (R163) -/
  | vaswap (t : BitVec 5) (b : BitVec 5) (i : BitVec 5) (s : BitVec 3) (e : BitVec 3) (k : Bool) (n : Bool)
  /-- VACAS: Returning atomic compare-and-swap per element. (R163) -/
  | vacas (t : BitVec 5) (b : BitVec 5) (i : BitVec 5) (s : BitVec 3) (e : BitVec 3) (k : Bool) (n : Bool)
  /-- VCADD: Commutative add into a combining buffer. (R163) -/
  | vcadd (t : BitVec 5) (b : BitVec 5) (i : BitVec 5) (s : BitVec 3) (e : BitVec 3) (k : Bool) (n : Bool)
  /-- VCMIN: Commutative minimum. (R163) -/
  | vcmin (t : BitVec 5) (b : BitVec 5) (i : BitVec 5) (s : BitVec 3) (e : BitVec 3) (k : Bool) (n : Bool)
  /-- VCMAX: Commutative maximum. (R163) -/
  | vcmax (t : BitVec 5) (b : BitVec 5) (i : BitVec 5) (s : BitVec 3) (e : BitVec 3) (k : Bool) (n : Bool)
  /-- VCFADD: Commutative float add. (R163) -/
  | vcfadd (t : BitVec 5) (b : BitVec 5) (i : BitVec 5) (s : BitVec 3) (e : BitVec 3) (k : Bool) (n : Bool)
  /-- VCFMAX: Commutative float maximumNumber. (R163) -/
  | vcfmax (t : BitVec 5) (b : BitVec 5) (i : BitVec 5) (s : BitVec 3) (e : BitVec 3) (k : Bool) (n : Bool)
  /-- HLD: Loads a 256-bit handle image. (R167) -/
  | hld (t : BitVec 4) (b : BitVec 5) (s : BitVec 3) (e : BitVec 3)
  /-- HST: Stores a 256-bit handle image. (R167) -/
  | hst (t : BitVec 4) (b : BitVec 5) (s : BitVec 3) (e : BitVec 3)
  /-- CLD: Loads elements by logical coordinates through a handle. (R168) -/
  | cld (t : BitVec 5) (b : BitVec 4) (i : BitVec 5) (s : BitVec 3) (e : BitVec 3) (k : Bool) (n : Bool)
  /-- CST: Stores elements by logical coordinates through a handle. (R168) -/
  | cst (t : BitVec 5) (b : BitVec 4) (i : BitVec 5) (s : BitVec 3) (e : BitVec 3) (k : Bool) (n : Bool)
  /-- HGET: Reads one word of a handle. (R167) -/
  | hget (t : BitVec 5) (b : BitVec 4) (i : BitVec 5)
  /-- HSET: Writes the RW fields of one handle word. (R167) -/
  | hset (t : BitVec 4) (b : BitVec 5) (i : BitVec 5)
  /-- FBIND: Binds a feed to a memory range. (R171) -/
  | fbind (t : BitVec 2) (b : BitVec 5) (i : BitVec 5)
  /-- FPOP: Pops VL elements from a feed into a vector group. (R172) -/
  | fpop (t : BitVec 5) (b : BitVec 2) (s : BitVec 3) (e : BitVec 3) (k : Bool) (n : Bool)
  /-- FTRIM: Shortens a feed's end. (R171) -/
  | ftrim (t : BitVec 2) (b : BitVec 5)
  /-- FFREE: Unbinds a feed. (R171) -/
  | ffree (t : BitVec 2)
  /-- PLD: Loads from each lane's Pantry at a common offset. (R175) -/
  | pld (t : BitVec 5) (b : BitVec 5) (s : BitVec 3) (e : BitVec 3) (k : Bool) (n : Bool)
  /-- PST: Stores to each lane's Pantry at a common offset. (R175) -/
  | pst (t : BitVec 5) (b : BitVec 5) (s : BitVec 3) (e : BitVec 3) (k : Bool) (n : Bool)
  /-- PLDX: Indexed load from each lane's Pantry. (R175) -/
  | pldx (t : BitVec 5) (b : BitVec 5) (i : BitVec 5) (s : BitVec 3) (e : BitVec 3) (k : Bool) (n : Bool)
  /-- PSTX: Indexed store to each lane's Pantry. (R175) -/
  | pstx (t : BitVec 5) (b : BitVec 5) (i : BitVec 5) (s : BitVec 3) (e : BitVec 3) (k : Bool) (n : Bool)
  /-- WAITC: Waits until a stream's completion counter reaches xb and its contributions have merged. (R189) -/
  | waitc (b : BitVec 5) (s : BitVec 3)
  /-- MFIC: Reads a stream's issue counter after older granules are counted. (R188) -/
  | mfic (t : BitVec 5) (s : BitVec 3)
  /-- MFCC: Reads a stream's completion counter. (R188) -/
  | mfcc (t : BitVec 5) (s : BitVec 3)
  /-- MFE: Reads an edge register. (R188) -/
  | mfe (t : BitVec 5) (e : BitVec 3)
  /-- MTE: Writes an edge register. (R188) -/
  | mte (b : BitVec 5) (e : BitVec 3)
  /-- MTSS: Sets a drained stream's counters. (R188) -/
  | mtss (b : BitVec 5) (s : BitVec 3)
  /-- VIEWREG: Registers a derived view of a master tensor. (R337) -/
  | viewreg (d : BitVec 5) (a : BitVec 4) (b : BitVec 5)
  /-- VIEWDROP: Ends a view. (R338) -/
  | viewdrop (a : BitVec 5)
  /-- VIEWQ: Returns a view's or block's state. (R340) -/
  | viewq (d : BitVec 5) (a : BitVec 5) (b : BitVec 5)
  /-- VIEWSYNC: Captures the view's stale blocks, or all with FULL, and waits. (R339) -/
  | viewsync (a : BitVec 5) (f : Bool)
  /-- RELAYOUT: Opens a lazy relayout record, or settles one with tag 0xFF. (R342) -/
  | relayout (d : BitVec 4) (a : BitVec 5)
  /-- SEAL: Seals a region at its home. (R317) -/
  | sealOp (a : BitVec 5) (b : BitVec 5)
  /-- UNSEAL: Removes a seal once no Dormer registration remains. (R318) -/
  | unsealOp (a : BitVec 5) (b : BitVec 5)
  /-- DORMER: Opens a read-only Dormer window onto a sealed region. (R320) -/
  | dormer (d : BitVec 5) (a : BitVec 5) (b : BitVec 5)
  /-- DORMREL: Releases a Dormer. (R321) -/
  | dormrel (a : BitVec 5)
  /-- TLDP: Loads a stationary B tile from pod memory into a Larder region. (R233) -/
  | tldp (d : BitVec 2) (a : BitVec 5) (b : BitVec 5) (p : BitVec 4)
  /-- TLDL: Loads a stationary B tile from the Larder. (R233) -/
  | tldl (d : BitVec 2) (a : BitVec 5) (b : BitVec 5) (p : BitVec 4)
  /-- MROW: Multiplies an A row by a tile into an accumulator. (R237) -/
  | mrow (d : BitVec 2) (a : BitVec 5) (c : BitVec 3) (p : BitVec 4)
  /-- MROWZ: Clears the accumulator then performs MROW. (R237) -/
  | mrowz (d : BitVec 2) (a : BitVec 5) (c : BitVec 3) (p : BitVec 4)
  /-- ACCRD: Snapshots an accumulator between steps into a vector. (R242) -/
  | accrd (d : BitVec 5) (b : BitVec 5) (c : BitVec 3)
  /-- ACCWR: Writes a vector into an accumulator. (R241) -/
  | accwr (a : BitVec 5) (c : BitVec 3)
  /-- ACCCLR: Clears an accumulator. (R241) -/
  | accclr (c : BitVec 3)
  /-- TFREE: Frees a tile slot and its region. (R243) -/
  | tfree (d : BitVec 2)
  /-- GANG: Fuses the thread's core with its neighbour. (R266) -/
  | gang
  /-- UNGANG: Dissolves the thread's gang. (R267) -/
  | ungang
  /-- EVCFG: Defines an event target with its terms and counters. (R285) -/
  | evcfg (a : BitVec 5) (t : BitVec 5)
  /-- EVPULSE: Pulses an event source. (R286) -/
  | evpulse (s : BitVec 5)
  /-- EVWAIT: Waits for a counter to reach its threshold and consumes it. (R286) -/
  | evwait (d : BitVec 5) (c : BitVec 4)
  /-- MACRO: Runs a sequencer descriptor descriptor on the cluster sequencer. (R288) -/
  | macroOp (a : BitVec 5)
  /-- LDW: Waits for lines FULL and loads. (R273) -/
  | ldw (t : BitVec 5) (b : BitVec 5) (s : BitVec 3) (e : BitVec 3) (k : Bool) (n : Bool)
  /-- LDC: Waits for lines FULL, loads and sets them EMPTY. (R273) -/
  | ldc (t : BitVec 5) (b : BitVec 5) (s : BitVec 3) (e : BitVec 3) (k : Bool) (n : Bool)
  /-- STFL: Waits for lines EMPTY, stores and sets them FULL. (R273) -/
  | stfl (t : BitVec 5) (b : BitVec 5) (s : BitVec 3) (e : BitVec 3) (k : Bool) (n : Bool)
  /-- LCLR: Sets a range of Larder lines EMPTY. (R273) -/
  | lclr (b : BitVec 5) (i : BitVec 5) (s : BitVec 3) (e : BitVec 3) (n : Bool)
  /-- COPY: Copies bytes by the die's copy engines. (R278) -/
  | copy (t : BitVec 5) (b : BitVec 5) (i : BitVec 5) (s : BitVec 3) (e : BitVec 3) (n : Bool)
  /-- PHASE: Advances the thread's phase under the lead allowance. (R294) -/
  | phase
  /-- LEADSET: Sets the cluster's lead allowance. (R293) -/
  | leadset (l : BitVec 4)
  /-- TSEND: Sends a token row once to an inbox for fan-out to experts. (R425) -/
  | tsend (t : BitVec 5) (b : BitVec 5) (i : BitVec 5) (s : BitVec 3) (e : BitVec 3) (k : Bool) (n : Bool)
  /-- COLL: Contributes elements to a combiner slot. (R421) -/
  | coll (t : BitVec 5) (b : BitVec 5) (i : BitVec 5) (s : BitVec 3) (e : BitVec 3) (n : Bool)
  /-- COLLQ: Queries a combiner slot's status. (R424) -/
  | collq (t : BitVec 5)
  /-- RUN: Launches a run from a descriptor. (R375) -/
  | run (d : BitVec 5) (a : BitVec 5)
  /-- GROW: Adds groups to the issuer's stage. (R376) -/
  | grow (d : BitVec 5) (a : BitVec 5)
  /-- EXIT: Ends the group after its streams drain. (R377) -/
  | exit
  /-- TRAP: Commits and traps with cause 0x0E. (R261) -/
  | trap (c : BitVec 7)
  /-- ERET: Restores the thread from the frame head and resumes. (R256) -/
  | eret
  /-- MFS: Reads a special register. (R262) -/
  | mfs (d : BitVec 5) (r : BitVec 12)
  /-- MTS: Writes a special register. (R262) -/
  | mts (a : BitVec 5) (r : BitVec 12)
  /-- YIELD: Hands the slot back when an equal-or-higher priority group waits. (R263) -/
  | yield
  /-- ERD: Reads an energy counter. (R264) -/
  | erd (d : BitVec 5) (s : BitVec 4)
  /-- VECTOR_DISPATCH: A queued vector instruction is dispatched once its interlocks allow. (R26) -/
  | vectorDispatch (slot : Nat)
  /-- GRANULE_LANDING: A granule of a vector instruction lands and advances the progress index. (R24) -/
  | granuleLanding (slot : Nat)
  /-- VECTOR_COMMIT: A vector instruction whose granules have all landed commits and frees its queue entry. (R27) -/
  | vectorCommit (slot : Nat)
  /-- SCALAR_COMMIT: A completed scalar instruction commits in program order after older vector instructions. (R28) -/
  | scalarCommit (slot : Nat)
  /-- STREAM_EXHAUSTION_END: An exhausted operation proceeds once an operation of its stream completes. (R185) -/
  | streamExhaustionEnd (slot : Nat) (sn : BitVec 3)
  /-- ELEMENT_COMPLETE: A memory element completes and counts into its completion counter. (R153) -/
  | elementComplete (slot : Nat) (idx : Nat)
  /-- RETURNED_VALUE: A non-blocking load's returned value is written into its register. (R154) -/
  | returnedValue (slot : Nat) (idx : Nat)
  /-- CHECK_REQUEST: A remote home checks an element and holds or discards its store data. (R152) -/
  | checkRequest (slot : Nat) (addr : BitVec 64) (size : Nat) (wr : Bool) (data : BitVec 64)
  /-- WRITE_BUFFER_SEND: An outbound write-buffer entry is sent as one line write, at the latest 32 ns after its first element. (R412) -/
  | writeBufferSend (core : Nat) (idx : Nat)
  /-- LINE_WRITE: The home slice applies an arriving line write indivisibly. (R413) -/
  | lineWrite (die : Nat) (idx : Nat)
  /-- MERGE_AGE_EXPIRY: A combining-buffer contribution held 2 µs is merged at its home. (R192) -/
  | mergeAgeExpiry (core : Nat) (idx : Nat)
  /-- WAITC_SATISFIED: A waiting WAITC finishes once its count is reached and its contributions merged. (R189) -/
  | waitcSatisfied (slot : Nat)
  /-- EVWAIT_SATISFIED: A waiting EVWAIT consumes THR once its counter reaches it. (R286) -/
  | evwaitSatisfied (slot : Nat)
  /-- LARDER_GRANULE_ACTION: A waiting LDW, LDC or STFL granule takes its action once its lines are in the required state. (R273) -/
  | larderGranuleAction (slot : Nat)
  /-- FULL_EMPTY_TIMEOUT: A full/empty granule waiting beyond FETO traps with cause 0x39. (R274) -/
  | fullEmptyTimeout (slot : Nat)
  /-- PHASE_RELEASE: A waiting PHASE proceeds once neighbours' CPH allows. (R294) -/
  | phaseRelease (slot : Nat)
  /-- PHASE_TIMEOUT: A PHASE waiting beyond PHTO traps with cause 0x3D. (R294) -/
  | phaseTimeout (slot : Nat)
  /-- MACRO_START: The sequencer starts the next queued sequencer descriptor and checks its descriptor. (R288) -/
  | macroStart (cluster : Nat)
  /-- MACRO_STEP: A sequencer descriptor step completes and the next step begins. (R290) -/
  | macroStep (cluster : Nat)
  /-- COPY_COMPLETE: All elements of a COPY have completed and its pulse fires. (R282) -/
  | copyComplete (slot : Nat) (opid : Nat)
  /-- MATRIX_STEP: One K step of an MROW completes and changes the whole accumulator row. (R237) -/
  | matrixStep (slot : Nat)
  /-- TRAP_TAKEN: At the landing point the device writes the frame head and enters the handler, saves the context, or ends the group. (R253) -/
  | trapTaken (slot : Nat) (cause : BitVec 7) (val : BitVec 64)
  /-- ASYNC_REPORT: An asynchronous fault is queued as a report. (R254) -/
  | asyncReport (slot : Nat) (cause : BitVec 7) (val : BitVec 64) (sn : BitVec 3) (pc : BitVec 64) (elem : BitVec 32)
  /-- ASYNC_REPORT_TRAP: Queued reports force a trap within 2 µs. (R254) -/
  | asyncReportTrap (slot : Nat)
  /-- PREEMPTION_REQUEST: The Distributor asks a thread to give up its slot. (R255) -/
  | preemptionRequest (slot : Nat)
  /-- PREEMPTION: A pre-emption lands at a permitted landing point within the bound. (R257) -/
  | preemption (slot : Nat)
  /-- CONTEXT_SAVE: After the drain, head, body and Pantry are written and the slot freed. (R258) -/
  | contextSave (slot : Nat)
  /-- CONTEXT_RESTORE: The Distributor restores a saved context into a slot. (R258) -/
  | contextRestore (slot : Nat) (idx : Nat)
  /-- PANTRY_SCRUB: The scrubber reads and corrects Pantry words once per 2^24 cycles. (R219) -/
  | pantryScrub (core : Nat)
  /-- CORE_WITHDRAWAL: A core with an internal fault withdraws itself and its groups fault with 0x6B. (R221) -/
  | coreWithdrawal (core : Nat)
  /-- TILE_STATE_QUERY: A core asks the relayout engine for a tile's state on a cache miss. (R214) -/
  | tileStateQuery (core : Nat) (die : Nat) (rec : Nat) (tile : Nat)
  /-- TILE_CONVERSION_START: The engine begins converting a tile after holders have finished. (R343) -/
  | tileConversionStart (die : Nat) (rec : Nat)
  /-- TILE_CONVERTED: A tile's conversion ends and held accesses are steered to it. (R343) -/
  | tileConverted (die : Nat) (rec : Nat) (tile : Nat)
  /-- CONVERSION_ABANDON: A conversion unfinished after 1.5 µs is abandoned and requeued. (R343) -/
  | conversionAbandon (die : Nat) (rec : Nat) (tile : Nat)
  /-- RELAYOUT_SETTLED: A waiting settle RELAYOUT clears the fields when its record completes. (R347) -/
  | relayoutSettled (slot : Nat)
  /-- VIEW_CAPTURE: The view engine starts capturing a stale view block. (R333) -/
  | viewCapture (die : Nat) (view : Nat)
  /-- VIEW_CAPTURE_END: A capture completes, tagging the block and releasing STALL readers and VIEWSYNC. (R333) -/
  | viewCaptureEnd (die : Nat) (view : Nat)
  /-- STALL_READ_RELEASE: A STALL view read waiting for freshness proceeds. (R335) -/
  | stallReadRelease (slot : Nat)
  /-- UNSEAL_COMPLETE: A waiting UNSEAL takes effect once no registration remains. (R318) -/
  | unsealComplete (slot : Nat)
  /-- DORMER_DEAD: A reader's Dormer whose home is unreachable for FABTO is marked dead. (R415) -/
  | dormerDead (die : Nat) (idx : Nat)
  /-- REGISTRATION_RELEASE: A home releases a registration whose reader is unreachable for 2 × FABTO. (R415) -/
  | registrationRelease (die : Nat) (idx : Nat)
  /-- FAULT_SERVICE_TIMEOUT: A fault-service request unanswered for 10 ms is treated as REFUSE. (R306) -/
  | faultServiceTimeout (die : Nat) (idx : Nat)
  /-- FSREQ_READ: A read of FSREQ removes the oldest pending fault-service request. (R325) -/
  | fsreqRead (die : Nat)
  /-- FSANS_RETRY: A RETRY answer makes held elements of the page walk again. (R306) -/
  | fsansRetry (die : Nat) (v : BitVec 64)
  /-- FSANS_REFUSE: A REFUSE answer fails held elements with cause 0x43. (R306) -/
  | fsansRefuse (die : Nat) (v : BitVec 64)
  /-- INVALIDATION: A write of INVCTL.GO starts or queues a translation invalidation. (R308) -/
  | invalidation (die : Nat)
  /-- INVALIDATION_COMPLETE: BUSY clears when every holder of a dropped translation has performed. (R308) -/
  | invalidationComplete (die : Nat)
  /-- MIGRATION: A write of MIGCTL.GO starts a page migration. (R309) -/
  | migration (die : Nat)
  /-- MIGRATION_COMPLETE: The page is copied, remapped and held accesses proceed. (R309) -/
  | migrationComplete (die : Nat)
  /-- PREFETCH_FILL: A prefetch fill arrives, or is dropped when an eviction takes its slot. (R323) -/
  | prefetchFill (die : Nat) (evict : Bool)
  /-- RLCTL_RESUME: Restarts a halted relayout record from its first unconverted tile. (R348) -/
  | rlctlResume (die : Nat) (rec : Nat)
  /-- EVCTL_CLEAR: Releases every crossbar entry and zeroes every count. (R295) -/
  | evctlClear (cluster : Nat)
  /-- ICINV: Invalidates instruction-cache lines of an ASID or all. (R209) -/
  | icinv (core : Nat) (asid : BitVec 12) (all : Bool)
  /-- DISTRIBUTOR_DECISION: The Distributor assigns one candidate group to one slot. (R365) -/
  | distributorDecision (node : Nat)
  /-- GROUP_START: A group begins on a thread with its start registers. (R11) -/
  | groupStart (slot : Nat)
  /-- PRELOAD_PROMOTION: A preloaded LOADING group becomes RUNNING when a running group leaves. (R369) -/
  | preloadPromotion (core : Nat)
  /-- EXIT_TAKES_EFFECT: After the drain the slot is freed and the group counts as complete. (R377) -/
  | exitTakesEffect (slot : Nat)
  /-- GROUP_FAULT: An external fault is handled by the run's fault policy. (R372) -/
  | groupFault (node : Nat) (cause : BitVec 7) (val : BitVec 64) (run : Nat) (stage : Nat) (index : Nat)
  /-- ENERGY_OVERRUN: A group exceeding OVR × PRED takes cause 0x6A and is held. (R371) -/
  | energyOverrun (slot : Nat) (used : Nat)
  /-- RUN_ENTRY_FREE: A RUN waiting for a run-table entry proceeds. (R375) -/
  | runEntryFree (slot : Nat)
  /-- RUN_COMPLETE: A complete run releases resources, writes its completion word and pulses. (R378) -/
  | runComplete (node : Nat) (run : Nat)
  /-- RUN_PACKET: The Distributor accepts a RUN packet from a queue. (R380) -/
  | runPacket (node : Nat) (queue : Nat)
  /-- COPY_PACKET: The Distributor starts a COPY packet on a copy engine. (R380) -/
  | copyPacket (node : Nat) (queue : Nat)
  /-- RESUME_PACKET: A RESUME packet restores held contexts of a held run. (R372) -/
  | resumePacket (node : Nat) (queue : Nat)
  /-- BUDGET_PERIOD_START: A 1 ms budget period starts with new remaining budgets. (R391) -/
  | budgetPeriodStart (node : Nat)
  /-- BUDGET_TICK: At each 20 µs tick the power manager sets gating or posts to the host. (R392) -/
  | budgetTick (node : Nat) (part : Nat) (used : Nat)
  /-- LIGHT_RECLAIM: Once per period optical power is reclaimed or deferred. (R395) -/
  | lightReclaim (node : Nat) (port : Nat) (berHigh : Bool)
  /-- CLPART_WRITE: Assigns a cluster to a partition unless it is busy. (R387) -/
  | clpartWrite (node : Nat) (idx : Nat) (v : BitVec 64)
  /-- ASIDMAP_WRITE: Maps an ASID to a partition unless it has a live run. (R387) -/
  | asidmapWrite (node : Nat) (idx : Nat) (v : BitVec 64)
  /-- PBUD_WRITE: Writes a partition budget unless the sum exceeds the package budget. (R391) -/
  | pbudWrite (node : Nat) (idx : Nat) (v : BitVec 64)
  /-- HANS: The host answers a posted host-assisted request. (R394) -/
  | hans (node : Nat) (v : BitVec 64)
  /-- BOOT_STEP: Boot runs one of its steps 0–31. (R396) -/
  | bootStep (node : Nat) (pass : Bool) (code : BitVec 8)
  /-- BOOTCTL_GO: The host asks a failed boot step to retry. (R396) -/
  | bootctlGo (node : Nat) (step : BitVec 5)
  /-- BOOTCTL_SKIP: The host forces an optional boot step to REPL. (R396) -/
  | bootctlSkip (node : Nat) (step : BitVec 5)
  /-- RESET: A package reset starts boot. (R396) -/
  | reset (node : Nat)
  /-- STANDBY_POWER_LOSS: Removal of standby power loses the Strongroom rings. (R398) -/
  | standbyPowerLoss (node : Nat)
  /-- SRSEL_WRITE: Selects a Strongroom ring and event. (R399) -/
  | srselWrite (node : Nat) (v : BitVec 64)
  /-- SRDATA_READ: Each read returns the next word of the selected event. (R399) -/
  | srdataRead (node : Nat)
  /-- ATTESTATION: A write of ATCTL.GO forms a signed quote. (R400) -/
  | attestation (node : Nat)
  /-- FITIA_REQUEST: A companion-processor request arrives over the Fitia link. (R385) -/
  | fitiaRequest (node : Nat) (req : BitVec 4) (addr : BitVec 64) (size : Nat) (wr : Bool) (data : BitVec 64)
  /-- ROUTE_COMMIT: A write of RTCTL.COMMIT checks and activates the shadow route tables. (R404) -/
  | routeCommit (node : Nat)
  /-- PLANE_DRAIN: A write of PLANE.DRAIN stops injection on a plane unless refused. (R405) -/
  | planeDrain (node : Nat) (bits : BitVec 4)
  /-- PLANE_ENABLE: A write of PLANE.EN enables or disables a plane unless refused. (R405) -/
  | planeEnable (node : Nat) (bits : BitVec 4)
  /-- PLANE_IDLE: A drained plane with every flit acknowledged sets IDLE. (R405) -/
  | planeIdle (node : Nat) (plane : BitVec 2)
  /-- PORT_STATE_CHANGE: A scale-up port changes between DOWN, TRAINING and UP. (R394) -/
  | portStateChange (node : Nat) (port : Nat) (st : BitVec 2)
  /-- FLIT_RECEIVE: A receiver takes a flit, checking CRC, destination and sequence. (R406) -/
  | flitReceive (die : Nat) (flit : Flit) (crcOk : Bool)
  /-- REPLAY_REQUEST: A SEQ gap lasting 2 µs causes a replay request. (R407) -/
  | replayRequest (die : Nat) (src : Nat)
  /-- REPLAY: A sender resends bulk flits from the requested SEQ. (R407) -/
  | replay (die : Nat) (dst : Nat) (seq : BitVec 32)
  /-- NOTICE: A notice takes its effect once all bulk flits up to its SEQ are delivered. (R410) -/
  | notice (die : Nat) (idx : Nat)
  /-- FABRIC_TIMEOUT: A request to an unreachable node or unanswered for FABTO ends with cause 0x60. (R414) -/
  | fabricTimeout (slot : Nat)
  /-- CONTRIBUTION: A contribution reaches its combiner slot and is accepted, refused, late or duplicate. (R421) -/
  | contribution (die : Nat) (idx : Nat)
  /-- COMBINER_TIMEOUT: A slot's TIMEOUT expires and it ends PARTIAL or posts to the host. (R422) -/
  | combinerTimeout (die : Nat) (idx : Nat)
  /-- COLLTO_ANSWER_TIMEOUT: No host answer within 10 ms ends the slot PARTIAL. (R422) -/
  | colltoAnswerTimeout (die : Nat) (idx : Nat)
  /-- CBANS_EXTEND: The host extends a timed-out slot by another TIMEOUT. (R422) -/
  | cbansExtend (die : Nat) (idx : BitVec 6) (tag : BitVec 16)
  /-- CBANS_PARTIAL: The host ends a timed-out slot PARTIAL. (R422) -/
  | cbansPartial (die : Nat) (idx : BitVec 6) (tag : BitVec 16)
  /-- COMBINER_SLOT_FREE: A PARTIAL slot is freed after a further TIMEOUT. (R422) -/
  | combinerSlotFree (die : Nat) (idx : Nat)
  /-- COLL_COMPLETE: A blocking COLL completes when its slot ends and its writes have performed. (R421) -/
  | collComplete (slot : Nat)
  /-- TOKEN_ROW_FANOUT: The home appends an arrived token row to the chosen experts' rings. (R427) -/
  | tokenRowFanout (die : Nat) (idx : Nat)
  /-- SEND_QUEUE_ENTRY: The Ethernet engine executes a queue pair's work entry. (R428) -/
  | sendQueueEntry (node : Nat) (qp : Nat)
  /-- RDMA_INBOUND: An inbound RDMA access is checked against the memory-region table and performed. (R429) -/
  | rdmaInbound (node : Nat) (qp : Nat) (rkey : BitVec 32) (addr : BitVec 64) (len : Nat) (wr : Bool) (data : List (BitVec 8))
  /-- REGISTER_WRITE: A write to a control register that has no behaviour of its own stores its fields. (R216) -/
  | registerWrite (addr : BitVec 64) (v : BitVec 64)
  /-- STANDBY_POWER_ON: Standby power is applied, starting the base-die cycle count that Strongroom events carry, with the retention rings empty. (R398) -/
  | standbyPowerOn (node : Nat)
  /-- HRCTL_WRITE: A write of HRCTL.RD or LOGN frees or enables ring space, so requests waiting on a full or disabled ring are posted. (R394) -/
  | hrctlWrite (node : Nat) (v : BitVec 64)
  /-- QUOTE_READY: The security block finishes the signed quote, fills ATQUOTE and raises ATCTL.DONE. (R400) -/
  | quoteReady (node : Nat)
  /-- RESERVED_PACKET: The Distributor consumes a queue packet of a reserved kind without effect and writes STATUS 2, CAUSE 0x68 to the DONE word. (R380) -/
  | reservedPacket (node : Nat) (queue : Nat)
  /-- WORK_ENTRY_COMPLETION: An outbound RDMA work entry completes on the peer's response or acknowledgement, and its completion word is written. (R428) -/
  | workEntryCompletion (node : Nat) (qp : Nat) (ok : Bool) (code : BitVec 8) (bytes : Nat)
  /-- ERROR_MONITOR_REQUEST: A port's error monitor asks for more optical power when its pre-FEC bit error ratio rises. (R395) -/
  | errorMonitorRequest (node : Nat) (port : Nat)
  deriving DecidableEq, Repr

end Sys2Proof
end

