-- ==== Sys2Proof/WellFormed.lean ====
section
/-! DEFINITION. Which terms of Instr are instructions of the part: the operand values that 02_encoding.md reserves inside a
field are refused (R47-R53, R56, R128, R264, R293), and a device event names a unit that exists (00_scope.md, levels of the
hierarchy; 18_fabric.md R401 for the node range). -/

namespace Sys2Proof

/-- The loop-state selectors that 02_encoding.md R56 assigns. -/
abbrev loopSelector (sel : BitVec 4) : Prop := sel = 0 ∨ sel = 1 ∨ sel = 2 ∨ sel = 4 ∨ sel = 5 ∨ sel = 6 ∨ sel = 8 ∨ sel = 9 ∨ sel = 10 ∨ sel = 12

/-- Logical nodes are 0-127 (R149, R401). -/
abbrev nodeKey (n : Nat) : Prop := n < 128
/-- A die is node * 8 + die. -/
abbrev dieKey (n : Nat) : Prop := n < 1024
/-- A cluster is die * 16 + cluster. -/
abbrev clusterKey (n : Nat) : Prop := n < 16384
/-- A core is cluster * 4 + core. -/
abbrev coreKey (n : Nat) : Prop := n < 65536
/-- A slot is core * 4 + slot (R204). -/
abbrev slotKey (n : Nat) : Prop := n < 262144
/-- The sizes of a scalar access (R157). -/
abbrev accessSize (n : Nat) : Prop := n = 1 ∨ n = 2 ∨ n = 4 ∨ n = 8

/-- Whether a term is an instruction of the part, decided. -/
def wellFormed (i : Instr) : Bool :=
  match i with
  | .add _ _ _ => true
  | .sub _ _ _ => true
  | .and _ _ _ => true
  | .or _ _ _ => true
  | .xor _ _ _ => true
  | .andn _ _ _ => true
  | .shadd _ _ _ _ => true
  | .sll _ _ _ => true
  | .srl _ _ _ => true
  | .sra _ _ _ => true
  | .ror _ _ _ => true
  | .clz _ _ => true
  | .ctz _ _ => true
  | .popc _ _ => true
  | .bext _ _ _ _ => true
  | .seq _ _ _ => true
  | .sne _ _ _ => true
  | .slt _ _ _ => true
  | .sltn _ _ _ => true
  | .min _ _ _ => true
  | .max _ _ _ => true
  | .mul _ _ _ => true
  | .mulh _ _ _ => true
  | .mulhn _ _ _ => true
  | .div _ _ _ => true
  | .divn _ _ _ => true
  | .rem _ _ _ => true
  | .remn _ _ _ => true
  | .madd _ _ _ _ => true
  | .addi _ _ _ => true
  | .andi _ _ _ => true
  | .ori _ _ _ => true
  | .xori _ _ _ => true
  | .shori _ _ _ => true
  | .addpc _ _ => true
  | .slli _ _ _ => true
  | .srli _ _ _ => true
  | .srai _ _ _ => true
  | .slti _ _ _ => true
  | .beqz _ _ => true
  | .bnez _ _ => true
  | .bltz _ _ => true
  | .bgez _ _ => true
  | .bgtz _ _ => true
  | .blez _ _ => true
  | .bempty _ => true
  | .jmp _ => true
  | .call _ => true
  | .jr _ => true
  | .callr _ _ => true
  | .jtab _ _ _ => true
  | .loop _ _ => true
  | .mfls _ s => decide (loopSelector s)
  | .mtls _ s => decide (loopSelector s)
  | .vadd _ _ _ _ _ _ _ => true
  | .vsub _ _ _ _ _ _ _ => true
  | .vrsub _ _ _ _ _ _ _ => true
  | .vmin _ _ _ _ _ _ _ => true
  | .vmax _ _ _ _ _ _ _ => true
  | .vabs _ _ _ _ _ => true
  | .vabsd _ _ _ _ _ _ _ => true
  | .vmov _ _ _ _ _ _ => true
  | .vmul _ _ _ _ _ _ _ => true
  | .vmulh _ _ _ _ _ _ _ => true
  | .vmacc _ _ _ _ _ _ _ => true
  | .vdot4 _ _ _ _ _ _ _ => true
  | .vdiv _ _ _ _ _ _ _ => true
  | .vand _ _ _ _ _ _ => true
  | .vor _ _ _ _ _ _ => true
  | .vxor _ _ _ _ _ _ => true
  | .vandn _ _ _ _ _ _ => true
  | .vsll _ _ _ _ _ _ => true
  | .vsrl _ _ _ _ _ _ => true
  | .vsra _ _ _ _ _ _ => true
  | .vpopc _ _ _ _ => true
  | .vceq _ _ _ _ _ _ => true
  | .vcne _ _ _ _ _ _ => true
  | .vclt _ _ _ _ _ _ => true
  | .vcle _ _ _ _ _ _ => true
  | .vcgt _ _ _ _ _ _ => true
  | .vcge _ _ _ _ _ _ => true
  | .vfadd _ _ _ _ _ _ => true
  | .vfsub _ _ _ _ _ _ => true
  | .vfmul _ _ _ _ _ _ => true
  | .vfdiv _ _ _ _ _ _ => true
  | .vfsqrt _ _ _ _ => true
  | .vfmin _ _ _ _ _ _ => true
  | .vfmax _ _ _ _ _ _ => true
  | .vfabs _ _ _ _ => true
  | .vfneg _ _ _ _ => true
  | .vfmacc _ _ _ _ _ _ => true
  | .vfnmacc _ _ _ _ _ _ => true
  | .vfmadd _ _ _ _ _ _ => true
  | .vcvt _ _ e _ _ _ => decide (e.toNat ≤ 4)
  | .mpush _ => true
  | .minv => true
  | .mpop => true
  | .mand _ _ _ _ => true
  | .mor _ _ _ _ => true
  | .mxor _ _ _ _ => true
  | .mmov _ _ _ => true
  | .mcnt _ _ _ => true
  | .many _ _ _ => true
  | .mfirst _ _ _ => true
  | .vslideup _ _ _ _ => true
  | .vslidedn _ _ _ _ => true
  | .vslide1up _ _ _ _ => true
  | .vslide1dn _ _ _ _ => true
  | .vperm _ _ _ _ => true
  | .vcompress _ _ _ _ => true
  | .vbcast _ _ _ _ => true
  | .vmvxs _ _ _ => true
  | .vmvsx _ _ _ => true
  | .vrsum _ _ _ _ => true
  | .vrmin _ _ _ _ => true
  | .vrmax _ _ _ _ => true
  | .vrmini _ _ _ _ => true
  | .vrmaxi _ _ _ _ => true
  | .vscan _ _ _ _ => true
  | .vscanx _ _ _ _ => true
  | .vsegsum _ _ _ _ _ => true
  | .vsegmin _ _ _ _ _ => true
  | .vsegmax _ _ _ _ _ => true
  | .vsegscan _ _ _ _ _ => true
  | .vmerge _ _ _ _ => true
  | .vtopk _ _ _ _ => true
  | .vmrgk _ _ _ _ => true
  | .vsortstep _ _ _ _ => true
  | .vbmax _ _ _ => true
  | .vscale _ _ _ _ => true
  | .vquant _ _ _ _ => true
  | .vdeq _ _ _ _ => true
  | .vsfma _ _ _ _ _ => true
  | .vseti _ _ _ => true
  | .vsetvl _ _ => true
  | .vsett _ _ => true
  | .vshape _ => true
  | .vshapei _ => true
  | .lds8 _ _ _ _ _ => true
  | .ldn8 _ _ _ _ _ => true
  | .lds16 _ _ _ _ _ => true
  | .ldn16 _ _ _ _ _ => true
  | .lds32 _ _ _ _ _ => true
  | .ldn32 _ _ _ _ _ => true
  | .ld64 _ _ _ _ _ => true
  | .st8 _ _ _ _ _ _ => true
  | .st16 _ _ _ _ _ _ => true
  | .st32 _ _ _ _ _ _ => true
  | .st64 _ _ _ _ _ _ => true
  | .saadd _ _ _ _ _ => true
  | .samax _ _ _ _ _ => true
  | .saswap _ _ _ _ _ => true
  | .sacas _ _ _ _ _ => true
  | .vld _ _ _ _ _ _ => true
  | .vlds _ _ _ _ _ _ _ => true
  | .vld2d _ _ _ _ _ _ _ => true
  | .vst _ _ _ _ _ _ => true
  | .vsts _ _ _ _ _ _ _ => true
  | .vst2d _ _ _ _ _ _ _ => true
  | .vgath _ _ _ _ _ _ _ => true
  | .vgatha _ _ _ _ _ _ => true
  | .vgathf _ _ _ _ _ _ _ => true
  | .vscat _ _ _ _ _ _ _ => true
  | .vscata _ _ _ _ _ _ => true
  | .vscatf _ _ _ _ _ _ _ => true
  | .vaadd _ _ _ _ _ _ _ => true
  | .vamin _ _ _ _ _ _ _ => true
  | .vamax _ _ _ _ _ _ _ => true
  | .vaor _ _ _ _ _ _ _ => true
  | .vaswap _ _ _ _ _ _ _ => true
  | .vacas _ _ _ _ _ _ _ => true
  | .vcadd _ _ _ _ _ _ _ => true
  | .vcmin _ _ _ _ _ _ _ => true
  | .vcmax _ _ _ _ _ _ _ => true
  | .vcfadd _ _ _ _ _ _ _ => true
  | .vcfmax _ _ _ _ _ _ _ => true
  | .hld _ _ _ _ => true
  | .hst _ _ _ _ => true
  | .cld _ _ _ _ _ _ _ => true
  | .cst _ _ _ _ _ _ _ => true
  | .hget _ _ _ => true
  | .hset _ _ _ => true
  | .fbind _ _ _ => true
  | .fpop _ _ _ _ _ _ => true
  | .ftrim _ _ => true
  | .ffree _ => true
  | .pld _ _ _ _ _ _ => true
  | .pst _ _ _ _ _ _ => true
  | .pldx _ _ _ _ _ _ _ => true
  | .pstx _ _ _ _ _ _ _ => true
  | .waitc _ _ => true
  | .mfic _ _ => true
  | .mfcc _ _ => true
  | .mfe _ _ => true
  | .mte _ _ => true
  | .mtss _ _ => true
  | .viewreg _ _ _ => true
  | .viewdrop _ => true
  | .viewq _ _ _ => true
  | .viewsync _ _ => true
  | .relayout _ _ => true
  | .sealOp _ _ => true
  | .unsealOp _ _ => true
  | .dormer _ _ _ => true
  | .dormrel _ => true
  | .tldp _ _ _ p => decide (p ≠ 0#4)
  | .tldl _ _ _ p => decide (p ≠ 0#4)
  | .mrow _ _ _ _ => true
  | .mrowz _ _ _ _ => true
  | .accrd _ _ _ => true
  | .accwr _ _ => true
  | .accclr _ => true
  | .tfree _ => true
  | .gang => true
  | .ungang => true
  | .evcfg _ _ => true
  | .evpulse _ => true
  | .evwait _ _ => true
  | .macroOp _ => true
  | .ldw _ _ _ _ _ _ => true
  | .ldc _ _ _ _ _ _ => true
  | .stfl _ _ _ _ _ _ => true
  | .lclr _ _ _ _ _ => true
  | .copy _ _ _ _ _ _ => true
  | .phase => true
  | .leadset l => decide (l ≠ 0#4)
  | .tsend _ _ _ _ _ _ _ => true
  | .coll _ _ _ _ _ _ => true
  | .collq _ => true
  | .run _ _ => true
  | .grow _ _ => true
  | .exit => true
  | .trap _ => true
  | .eret => true
  | .mfs _ _ => true
  | .mts _ _ => true
  | .yield => true
  | .erd _ s => decide (s.toNat ≤ 4)
  | .vectorDispatch slot => decide (slotKey slot)
  | .granuleLanding slot => decide (slotKey slot)
  | .vectorCommit slot => decide (slotKey slot)
  | .scalarCommit slot => decide (slotKey slot)
  | .streamExhaustionEnd slot _ => decide (slotKey slot)
  | .elementComplete slot _ => decide (slotKey slot)
  | .returnedValue slot _ => decide (slotKey slot)
  | .checkRequest slot _ size _ _ => decide (slotKey slot ∧ accessSize size)
  | .writeBufferSend core _ => decide (coreKey core)
  | .lineWrite die _ => decide (dieKey die)
  | .mergeAgeExpiry core _ => decide (coreKey core)
  | .waitcSatisfied slot => decide (slotKey slot)
  | .evwaitSatisfied slot => decide (slotKey slot)
  | .larderGranuleAction slot => decide (slotKey slot)
  | .fullEmptyTimeout slot => decide (slotKey slot)
  | .phaseRelease slot => decide (slotKey slot)
  | .phaseTimeout slot => decide (slotKey slot)
  | .macroStart cluster => decide (clusterKey cluster)
  | .macroStep cluster => decide (clusterKey cluster)
  | .copyComplete slot _ => decide (slotKey slot)
  | .matrixStep slot => decide (slotKey slot)
  | .trapTaken slot _ _ => decide (slotKey slot)
  | .asyncReport slot _ _ _ _ _ => decide (slotKey slot)
  | .asyncReportTrap slot => decide (slotKey slot)
  | .preemptionRequest slot => decide (slotKey slot)
  | .preemption slot => decide (slotKey slot)
  | .contextSave slot => decide (slotKey slot)
  | .contextRestore slot _ => decide (slotKey slot)
  | .pantryScrub core => decide (coreKey core)
  | .coreWithdrawal core => decide (coreKey core)
  | .tileStateQuery core die rec _ => decide (coreKey core ∧ dieKey die ∧ rec < 256)
  | .tileConversionStart die rec => decide (dieKey die ∧ rec < 256)
  | .tileConverted die rec _ => decide (dieKey die ∧ rec < 256)
  | .conversionAbandon die rec _ => decide (dieKey die ∧ rec < 256)
  | .relayoutSettled slot => decide (slotKey slot)
  | .viewCapture die view => decide (dieKey die ∧ view < 1024)
  | .viewCaptureEnd die view => decide (dieKey die ∧ view < 1024)
  | .stallReadRelease slot => decide (slotKey slot)
  | .unsealComplete slot => decide (slotKey slot)
  | .dormerDead die _ => decide (dieKey die)
  | .registrationRelease die _ => decide (dieKey die)
  | .faultServiceTimeout die _ => decide (dieKey die)
  | .fsreqRead die => decide (dieKey die)
  | .fsansRetry die _ => decide (dieKey die)
  | .fsansRefuse die _ => decide (dieKey die)
  | .invalidation die => decide (dieKey die)
  | .invalidationComplete die => decide (dieKey die)
  | .migration die => decide (dieKey die)
  | .migrationComplete die => decide (dieKey die)
  | .prefetchFill die _ => decide (dieKey die)
  | .rlctlResume die rec => decide (dieKey die ∧ rec < 256)
  | .evctlClear cluster => decide (clusterKey cluster)
  | .icinv core _ _ => decide (coreKey core)
  | .distributorDecision node => decide (nodeKey node)
  | .groupStart slot => decide (slotKey slot)
  | .preloadPromotion core => decide (coreKey core)
  | .exitTakesEffect slot => decide (slotKey slot)
  | .groupFault node _ _ run stage _ => decide (nodeKey node ∧ run < 256 ∧ stage < 8)
  | .energyOverrun slot _ => decide (slotKey slot)
  | .runEntryFree slot => decide (slotKey slot)
  | .runComplete node run => decide (nodeKey node ∧ run < 256)
  | .runPacket node queue => decide (nodeKey node ∧ queue < 256)
  | .copyPacket node queue => decide (nodeKey node ∧ queue < 256)
  | .resumePacket node queue => decide (nodeKey node ∧ queue < 256)
  | .budgetPeriodStart node => decide (nodeKey node)
  | .budgetTick node part _ => decide (nodeKey node ∧ part < 32)
  | .lightReclaim node port _ => decide (nodeKey node ∧ port < 72)
  | .clpartWrite node idx _ => decide (nodeKey node ∧ idx < 128)
  | .asidmapWrite node idx _ => decide (nodeKey node ∧ idx < 4096)
  | .pbudWrite node idx _ => decide (nodeKey node ∧ idx < 32)
  | .hans node _ => decide (nodeKey node)
  | .bootStep node _ _ => decide (nodeKey node)
  | .bootctlGo node _ => decide (nodeKey node)
  | .bootctlSkip node _ => decide (nodeKey node)
  | .reset node => decide (nodeKey node)
  | .standbyPowerLoss node => decide (nodeKey node)
  | .srselWrite node _ => decide (nodeKey node)
  | .srdataRead node => decide (nodeKey node)
  | .attestation node => decide (nodeKey node)
  | .fitiaRequest node _ _ size _ _ => decide (nodeKey node ∧ accessSize size)
  | .routeCommit node => decide (nodeKey node)
  | .planeDrain node _ => decide (nodeKey node)
  | .planeEnable node _ => decide (nodeKey node)
  | .planeIdle node _ => decide (nodeKey node)
  | .portStateChange node port st => decide (nodeKey node ∧ port < 72 ∧ st ≠ 3)
  | .flitReceive die flit _ => decide (dieKey die ∧ dieKey flit.src ∧ (flit.port.getD 0) < 72)
  | .replayRequest die src => decide (dieKey die ∧ dieKey src)
  | .replay die dst _ => decide (dieKey die ∧ dieKey dst)
  | .notice die _ => decide (dieKey die)
  | .fabricTimeout slot => decide (slotKey slot)
  | .contribution die _ => decide (dieKey die)
  | .combinerTimeout die _ => decide (dieKey die)
  | .colltoAnswerTimeout die _ => decide (dieKey die)
  | .cbansExtend die _ _ => decide (dieKey die)
  | .cbansPartial die _ _ => decide (dieKey die)
  | .combinerSlotFree die _ => decide (dieKey die)
  | .collComplete slot => decide (slotKey slot)
  | .tokenRowFanout die _ => decide (dieKey die)
  | .sendQueueEntry node qp => decide (nodeKey node ∧ qp < 4096)
  | .rdmaInbound node qp _ _ _ _ _ => decide (nodeKey node ∧ qp < 4096)
  | .registerWrite _ _ => true
  | .standbyPowerOn node => decide (nodeKey node)
  | .hrctlWrite node _ => decide (nodeKey node)
  | .quoteReady node => decide (nodeKey node)
  | .reservedPacket node queue => decide (nodeKey node ∧ queue < 256)
  | .workEntryCompletion node qp _ _ _ => decide (nodeKey node ∧ qp < 4096)
  | .errorMonitorRequest node port => decide (nodeKey node ∧ port < 72)

/-- A well-formed instruction. -/
abbrev WellFormed (i : Instr) : Prop := wellFormed i = true

end Sys2Proof
end

