-- ==== Sys2Proof/Decode.lean ====
section
/-! DEFINITION. The decoder, total on every 32-bit word, and the encoder, both from the tables of 02_encoding.md (R45-R59).
A word that is no instruction is rejected by name, in the order of R53 steps 1 and 2: first an illegal major or an
unassigned function code (cause 0x01), then a reserved bit or selector (cause 0x02). -/

namespace Sys2Proof

/-- Why a word is not an instruction (02_encoding.md R53). -/
inductive DecodeError where
  /-- A major that R52 lists: cause 0x01. -/
  | illegalMajor
  /-- A function code, or branch condition, that no table lists: cause 0x01. -/
  | unassigned
  /-- A reserved bit or selector that is not 0 (R47-R51): cause 0x02. -/
  | reserved
  deriving DecidableEq, Repr

/-- The cause that R53 gives for a rejected word. -/
def DecodeError.cause : DecodeError → Nat
  | .illegalMajor => 0x01
  | .unassigned => 0x01
  | .reserved => 0x02

/-- Format A (R46). -/
def mkA (p : BitVec 6) (d a b aux : BitVec 5) (f : BitVec 6) : BitVec 32 :=
  (p ++ (d ++ (a ++ (b ++ (aux ++ f)))) : BitVec (6 + (5 + (5 + (5 + (5 + 6))))))
/-- Formats I and C, which divide the word alike (R46). -/
def mkI (p : BitVec 6) (d a : BitVec 5) (i : BitVec 16) : BitVec 32 :=
  (p ++ (d ++ (a ++ i)) : BitVec (6 + (5 + (5 + 16))))
/-- Format J (R46). -/
def mkJ (p : BitVec 6) (o : BitVec 26) : BitVec 32 := (p ++ o : BitVec (6 + 26))
/-- Format V (R46). -/
def mkV (p : BitVec 6) (d a b : BitVec 5) (f : BitVec 7) (w2' : BitVec 2) (k s : BitVec 1) : BitVec 32 :=
  (p ++ (d ++ (a ++ (b ++ (f ++ (w2' ++ (k ++ s)))))) : BitVec (6 + (5 + (5 + (5 + (7 + (2 + (1 + 1))))))))
/-- Format M (R46). -/
def mkM (p : BitVec 6) (t b i : BitVec 5) (n e f : BitVec 3) (k nb : BitVec 1) : BitVec 32 :=
  (p ++ (t ++ (b ++ (i ++ (n ++ (e ++ (f ++ (k ++ nb))))))) : BitVec (6 + (5 + (5 + (5 + (3 + (3 + (3 + (1 + 1)))))))))
/-- Format T (R46). -/
def mkT (p : BitVec 6) (d a b : BitVec 5) (c : BitVec 3) (f p4 : BitVec 4) : BitVec 32 :=
  (p ++ (d ++ (a ++ (b ++ (c ++ (f ++ p4))))) : BitVec (6 + (5 + (5 + (5 + (3 + (4 + 4)))))))
/-- Format Z (R46). -/
def mkZ (p : BitVec 6) (d a : BitVec 5) (f : BitVec 4) (z : BitVec 12) : BitVec 32 :=
  (p ++ (d ++ (a ++ (f ++ z))) : BitVec (6 + (5 + (5 + (4 + 12)))))

/-- Field [25:21] of a word (R46). -/
def fd (w : BitVec 32) : BitVec 5 := w.extractLsb' 21 5
/-- Field [20:16] of a word (R46). -/
def fa (w : BitVec 32) : BitVec 5 := w.extractLsb' 16 5
/-- Field [15:11] of a word (R46). -/
def fb (w : BitVec 32) : BitVec 5 := w.extractLsb' 11 5
/-- Field [10:6] of a word (R46). -/
def aux (w : BitVec 32) : BitVec 5 := w.extractLsb' 6 5
/-- Field [5:0] of a word (R46). -/
def fn (w : BitVec 32) : BitVec 6 := w.extractLsb' 0 6
/-- Field [15:0] of a word (R46). -/
def imm16 (w : BitVec 32) : BitVec 16 := w.extractLsb' 0 16
/-- Field [25:0] of a word (R46). -/
def off26 (w : BitVec 32) : BitVec 26 := w.extractLsb' 0 26
/-- Field [10:4] of a word (R46). -/
def f7 (w : BitVec 32) : BitVec 7 := w.extractLsb' 4 7
/-- Field [3:2] of a word (R46). -/
def w2 (w : BitVec 32) : BitVec 2 := w.extractLsb' 2 2
/-- Field [1:1] of a word (R46). -/
def kb (w : BitVec 32) : BitVec 1 := w.extractLsb' 1 1
/-- Field [0:0] of a word (R46). -/
def sb (w : BitVec 32) : BitVec 1 := w.extractLsb' 0 1
/-- Field [10:8] of a word (R46). -/
def sn (w : BitVec 32) : BitVec 3 := w.extractLsb' 8 3
/-- Field [7:5] of a word (R46). -/
def es (w : BitVec 32) : BitVec 3 := w.extractLsb' 5 3
/-- Field [4:2] of a word (R46). -/
def f3 (w : BitVec 32) : BitVec 3 := w.extractLsb' 2 3
/-- Field [7:4] of a word (R46). -/
def f4 (w : BitVec 32) : BitVec 4 := w.extractLsb' 4 4
/-- Field [3:0] of a word (R46). -/
def pl (w : BitVec 32) : BitVec 4 := w.extractLsb' 0 4
/-- Field [15:12] of a word (R46). -/
def zfn (w : BitVec 32) : BitVec 4 := w.extractLsb' 12 4
/-- Field [11:0] of a word (R46). -/
def zd (w : BitVec 32) : BitVec 12 := w.extractLsb' 0 12
/-- The major opcode, [31:26] (R46). -/
def major (w : BitVec 32) : BitVec 6 := w.extractLsb' 26 6
/-- Bits [lo+n-1:lo] of a field. -/
def sub {m : Nat} (lo n : Nat) (f : BitVec m) : BitVec n := f.extractLsb' lo n
/-- A one-bit field as a truth value. -/
def fb1 (b : BitVec 1) : Bool := b == 1#1
/-- A truth value as a one-bit field. -/
def bb (b : Bool) : BitVec 1 := BitVec.ofBool b
/-- R53 step 2: the instruction, unless a reserved bit is set. -/
def reserve (ok : Bool) (i : Instr) : Except DecodeError Instr := if ok then .ok i else .error .reserved

/-- Major 0x01 (02_encoding.md R56-R59). -/
def decode01 (w : BitVec 32) : Except DecodeError Instr :=
  match (fn w).toNat with
  | 0 => reserve (decide (aux w = 0#5)) (.add (fd w) (fa w) (fb w))
  | 1 => reserve (decide (aux w = 0#5)) (.sub (fd w) (fa w) (fb w))
  | 2 => reserve (decide (aux w = 0#5)) (.and (fd w) (fa w) (fb w))
  | 3 => reserve (decide (aux w = 0#5)) (.or (fd w) (fa w) (fb w))
  | 4 => reserve (decide (aux w = 0#5)) (.xor (fd w) (fa w) (fb w))
  | 5 => reserve (decide (aux w = 0#5)) (.andn (fd w) (fa w) (fb w))
  | 6 => .ok (.shadd (fd w) (fa w) (fb w) (aux w))
  | _ => .error .unassigned

/-- Major 0x02 (02_encoding.md R56-R59). -/
def decode02 (w : BitVec 32) : Except DecodeError Instr :=
  match (fn w).toNat with
  | 0 => reserve (decide (aux w = 0#5)) (.sll (fd w) (fa w) (fb w))
  | 1 => reserve (decide (aux w = 0#5)) (.srl (fd w) (fa w) (fb w))
  | 2 => reserve (decide (aux w = 0#5)) (.sra (fd w) (fa w) (fb w))
  | 3 => reserve (decide (aux w = 0#5)) (.ror (fd w) (fa w) (fb w))
  | 4 => reserve (decide (fb w = 0#5 ∧ aux w = 0#5)) (.clz (fd w) (fa w))
  | 5 => reserve (decide (fb w = 0#5 ∧ aux w = 0#5)) (.ctz (fd w) (fa w))
  | 6 => reserve (decide (fb w = 0#5 ∧ aux w = 0#5)) (.popc (fd w) (fa w))
  | 7 => .ok (.bext (fd w) (fa w) (fb w) (aux w))
  | _ => .error .unassigned

/-- Major 0x03 (02_encoding.md R56-R59). -/
def decode03 (w : BitVec 32) : Except DecodeError Instr :=
  match (fn w).toNat with
  | 0 => reserve (decide (aux w = 0#5)) (.seq (fd w) (fa w) (fb w))
  | 1 => reserve (decide (aux w = 0#5)) (.sne (fd w) (fa w) (fb w))
  | 2 => reserve (decide (aux w = 0#5)) (.slt (fd w) (fa w) (fb w))
  | 3 => reserve (decide (aux w = 0#5)) (.sltn (fd w) (fa w) (fb w))
  | 4 => reserve (decide (aux w = 0#5)) (.min (fd w) (fa w) (fb w))
  | 5 => reserve (decide (aux w = 0#5)) (.max (fd w) (fa w) (fb w))
  | _ => .error .unassigned

/-- Major 0x04 (02_encoding.md R56-R59). -/
def decode04 (w : BitVec 32) : Except DecodeError Instr :=
  match (fn w).toNat with
  | 0 => reserve (decide (aux w = 0#5)) (.mul (fd w) (fa w) (fb w))
  | 1 => reserve (decide (aux w = 0#5)) (.mulh (fd w) (fa w) (fb w))
  | 2 => reserve (decide (aux w = 0#5)) (.mulhn (fd w) (fa w) (fb w))
  | 3 => reserve (decide (aux w = 0#5)) (.div (fd w) (fa w) (fb w))
  | 4 => reserve (decide (aux w = 0#5)) (.divn (fd w) (fa w) (fb w))
  | 5 => reserve (decide (aux w = 0#5)) (.rem (fd w) (fa w) (fb w))
  | 6 => reserve (decide (aux w = 0#5)) (.remn (fd w) (fa w) (fb w))
  | 7 => .ok (.madd (fd w) (fa w) (fb w) (aux w))
  | _ => .error .unassigned

/-- Major 0x05 (02_encoding.md R56-R59). -/
def decode05 (w : BitVec 32) : Except DecodeError Instr :=
  .ok (.addi (fd w) (fa w) (imm16 w))

/-- Major 0x06 (02_encoding.md R56-R59). -/
def decode06 (w : BitVec 32) : Except DecodeError Instr :=
  .ok (.andi (fd w) (fa w) (imm16 w))

/-- Major 0x07 (02_encoding.md R56-R59). -/
def decode07 (w : BitVec 32) : Except DecodeError Instr :=
  .ok (.ori (fd w) (fa w) (imm16 w))

/-- Major 0x08 (02_encoding.md R56-R59). -/
def decode08 (w : BitVec 32) : Except DecodeError Instr :=
  .ok (.xori (fd w) (fa w) (imm16 w))

/-- Major 0x09 (02_encoding.md R56-R59). -/
def decode09 (w : BitVec 32) : Except DecodeError Instr :=
  .ok (.shori (fd w) (fa w) (imm16 w))

/-- Major 0x0A (02_encoding.md R56-R59). -/
def decode0A (w : BitVec 32) : Except DecodeError Instr :=
  match (zfn w).toNat with
  | 0 => reserve (decide (sub 6 6 (zd w) = 0#6)) (.slli (fd w) (fa w) (sub 0 6 (zd w)))
  | 1 => reserve (decide (sub 6 6 (zd w) = 0#6)) (.srli (fd w) (fa w) (sub 0 6 (zd w)))
  | 2 => reserve (decide (sub 6 6 (zd w) = 0#6)) (.srai (fd w) (fa w) (sub 0 6 (zd w)))
  | 3 => .ok (.slti (fd w) (fa w) (zd w))
  | _ => .error .unassigned

/-- Major 0x0B (02_encoding.md R56-R59). -/
def decode0B (w : BitVec 32) : Except DecodeError Instr :=
  reserve (decide (fa w = 0#5)) (.addpc (fd w) (imm16 w))

/-- Major 0x0C (02_encoding.md R56-R59). -/
def decode0C (w : BitVec 32) : Except DecodeError Instr :=
  match (fa w).toNat with
  | 0 => .ok (.beqz (fd w) (imm16 w))
  | 1 => .ok (.bnez (fd w) (imm16 w))
  | 2 => .ok (.bltz (fd w) (imm16 w))
  | 3 => .ok (.bgez (fd w) (imm16 w))
  | 4 => .ok (.bgtz (fd w) (imm16 w))
  | 5 => .ok (.blez (fd w) (imm16 w))
  | 6 => reserve (decide (fd w = 0#5)) (.bempty (imm16 w))
  | _ => .error .unassigned

/-- Major 0x0D (02_encoding.md R56-R59). -/
def decode0D (w : BitVec 32) : Except DecodeError Instr :=
  .ok (.jmp (off26 w))

/-- Major 0x0E (02_encoding.md R56-R59). -/
def decode0E (w : BitVec 32) : Except DecodeError Instr :=
  .ok (.call (off26 w))

/-- Major 0x0F (02_encoding.md R56-R59). -/
def decode0F (w : BitVec 32) : Except DecodeError Instr :=
  match (zfn w).toNat with
  | 0 => reserve (decide (fd w = 0#5 ∧ zd w = 0#12)) (.jr (fa w))
  | 1 => reserve (decide (zd w = 0#12)) (.callr (fd w) (fa w))
  | 2 => .ok (.jtab (fd w) (fa w) (zd w))
  | 3 => reserve (decide (fd w = 0#5 ∧ sub 8 4 (zd w) = 0#4)) (.loop (fa w) (sub 0 8 (zd w)))
  | 4 => reserve (decide (fa w = 0#5 ∧ sub 4 8 (zd w) = 0#8 ∧ (loopSelector (sub 0 4 (zd w))))) (.mfls (fd w) (sub 0 4 (zd w)))
  | 5 => reserve (decide (fd w = 0#5 ∧ sub 4 8 (zd w) = 0#8 ∧ (loopSelector (sub 0 4 (zd w))))) (.mtls (fa w) (sub 0 4 (zd w)))
  | _ => .error .unassigned

/-- Major 0x10 (02_encoding.md R56-R59). -/
def decode10 (w : BitVec 32) : Except DecodeError Instr :=
  match (sub 0 6 (f7 w)).toNat with
  | 0 => .ok (.vadd (fd w) (fa w) (fb w) (fb1 (sub 6 1 (f7 w))) (w2 w) (fb1 (kb w)) (fb1 (sb w)))
  | 1 => .ok (.vsub (fd w) (fa w) (fb w) (fb1 (sub 6 1 (f7 w))) (w2 w) (fb1 (kb w)) (fb1 (sb w)))
  | 2 => .ok (.vrsub (fd w) (fa w) (fb w) (fb1 (sub 6 1 (f7 w))) (w2 w) (fb1 (kb w)) (fb1 (sb w)))
  | 3 => .ok (.vmin (fd w) (fa w) (fb w) (fb1 (sub 6 1 (f7 w))) (w2 w) (fb1 (kb w)) (fb1 (sb w)))
  | 4 => .ok (.vmax (fd w) (fa w) (fb w) (fb1 (sub 6 1 (f7 w))) (w2 w) (fb1 (kb w)) (fb1 (sb w)))
  | 5 => reserve (decide (fb w = 0#5 ∧ sub 6 1 (f7 w) = 0#1)) (.vabs (fd w) (fa w) (w2 w) (fb1 (kb w)) (fb1 (sb w)))
  | 6 => .ok (.vabsd (fd w) (fa w) (fb w) (fb1 (sub 6 1 (f7 w))) (w2 w) (fb1 (kb w)) (fb1 (sb w)))
  | 7 => reserve (decide (fa w = 0#5)) (.vmov (fd w) (fb w) (fb1 (sub 6 1 (f7 w))) (w2 w) (fb1 (kb w)) (fb1 (sb w)))
  | _ => .error .unassigned

/-- Major 0x11 (02_encoding.md R56-R59). -/
def decode11 (w : BitVec 32) : Except DecodeError Instr :=
  match (sub 0 6 (f7 w)).toNat with
  | 0 => .ok (.vmul (fd w) (fa w) (fb w) (fb1 (sub 6 1 (f7 w))) (w2 w) (fb1 (kb w)) (fb1 (sb w)))
  | 1 => .ok (.vmulh (fd w) (fa w) (fb w) (fb1 (sub 6 1 (f7 w))) (w2 w) (fb1 (kb w)) (fb1 (sb w)))
  | 2 => .ok (.vmacc (fd w) (fa w) (fb w) (fb1 (sub 6 1 (f7 w))) (w2 w) (fb1 (kb w)) (fb1 (sb w)))
  | 3 => .ok (.vdot4 (fd w) (fa w) (fb w) (fb1 (sub 6 1 (f7 w))) (w2 w) (fb1 (kb w)) (fb1 (sb w)))
  | 4 => .ok (.vdiv (fd w) (fa w) (fb w) (fb1 (sub 6 1 (f7 w))) (w2 w) (fb1 (kb w)) (fb1 (sb w)))
  | _ => .error .unassigned

/-- Major 0x12 (02_encoding.md R56-R59). -/
def decode12 (w : BitVec 32) : Except DecodeError Instr :=
  match (sub 0 6 (f7 w)).toNat with
  | 0 => reserve (decide (w2 w = 0#2)) (.vand (fd w) (fa w) (fb w) (fb1 (sub 6 1 (f7 w))) (fb1 (kb w)) (fb1 (sb w)))
  | 1 => reserve (decide (w2 w = 0#2)) (.vor (fd w) (fa w) (fb w) (fb1 (sub 6 1 (f7 w))) (fb1 (kb w)) (fb1 (sb w)))
  | 2 => reserve (decide (w2 w = 0#2)) (.vxor (fd w) (fa w) (fb w) (fb1 (sub 6 1 (f7 w))) (fb1 (kb w)) (fb1 (sb w)))
  | 3 => reserve (decide (w2 w = 0#2)) (.vandn (fd w) (fa w) (fb w) (fb1 (sub 6 1 (f7 w))) (fb1 (kb w)) (fb1 (sb w)))
  | 4 => reserve (decide (w2 w = 0#2)) (.vsll (fd w) (fa w) (fb w) (fb1 (sub 6 1 (f7 w))) (fb1 (kb w)) (fb1 (sb w)))
  | 5 => reserve (decide (w2 w = 0#2)) (.vsrl (fd w) (fa w) (fb w) (fb1 (sub 6 1 (f7 w))) (fb1 (kb w)) (fb1 (sb w)))
  | 6 => reserve (decide (w2 w = 0#2)) (.vsra (fd w) (fa w) (fb w) (fb1 (sub 6 1 (f7 w))) (fb1 (kb w)) (fb1 (sb w)))
  | 7 => reserve (decide (fb w = 0#5 ∧ sub 6 1 (f7 w) = 0#1 ∧ w2 w = 0#2)) (.vpopc (fd w) (fa w) (fb1 (kb w)) (fb1 (sb w)))
  | _ => .error .unassigned

/-- Major 0x13 (02_encoding.md R56-R59). -/
def decode13 (w : BitVec 32) : Except DecodeError Instr :=
  match (sub 0 6 (f7 w)).toNat with
  | 0 => reserve (decide (sub 4 1 (fd w) = 0#1 ∧ w2 w = 0#2)) (.vceq (sub 0 4 (fd w)) (fa w) (fb w) (fb1 (sub 6 1 (f7 w))) (fb1 (kb w)) (fb1 (sb w)))
  | 1 => reserve (decide (sub 4 1 (fd w) = 0#1 ∧ w2 w = 0#2)) (.vcne (sub 0 4 (fd w)) (fa w) (fb w) (fb1 (sub 6 1 (f7 w))) (fb1 (kb w)) (fb1 (sb w)))
  | 2 => reserve (decide (sub 4 1 (fd w) = 0#1 ∧ w2 w = 0#2)) (.vclt (sub 0 4 (fd w)) (fa w) (fb w) (fb1 (sub 6 1 (f7 w))) (fb1 (kb w)) (fb1 (sb w)))
  | 3 => reserve (decide (sub 4 1 (fd w) = 0#1 ∧ w2 w = 0#2)) (.vcle (sub 0 4 (fd w)) (fa w) (fb w) (fb1 (sub 6 1 (f7 w))) (fb1 (kb w)) (fb1 (sb w)))
  | 4 => reserve (decide (sub 4 1 (fd w) = 0#1 ∧ w2 w = 0#2)) (.vcgt (sub 0 4 (fd w)) (fa w) (fb w) (fb1 (sub 6 1 (f7 w))) (fb1 (kb w)) (fb1 (sb w)))
  | 5 => reserve (decide (sub 4 1 (fd w) = 0#1 ∧ w2 w = 0#2)) (.vcge (sub 0 4 (fd w)) (fa w) (fb w) (fb1 (sub 6 1 (f7 w))) (fb1 (kb w)) (fb1 (sb w)))
  | _ => .error .unassigned

/-- Major 0x14 (02_encoding.md R56-R59). -/
def decode14 (w : BitVec 32) : Except DecodeError Instr :=
  match (sub 0 6 (f7 w)).toNat with
  | 0 => reserve (decide (sb w = 0#1)) (.vfadd (fd w) (fa w) (fb w) (fb1 (sub 6 1 (f7 w))) (w2 w) (fb1 (kb w)))
  | 1 => reserve (decide (sb w = 0#1)) (.vfsub (fd w) (fa w) (fb w) (fb1 (sub 6 1 (f7 w))) (w2 w) (fb1 (kb w)))
  | 2 => reserve (decide (sb w = 0#1)) (.vfmul (fd w) (fa w) (fb w) (fb1 (sub 6 1 (f7 w))) (w2 w) (fb1 (kb w)))
  | 3 => reserve (decide (sb w = 0#1)) (.vfdiv (fd w) (fa w) (fb w) (fb1 (sub 6 1 (f7 w))) (w2 w) (fb1 (kb w)))
  | 4 => reserve (decide (fb w = 0#5 ∧ sub 6 1 (f7 w) = 0#1 ∧ sb w = 0#1)) (.vfsqrt (fd w) (fa w) (w2 w) (fb1 (kb w)))
  | 5 => reserve (decide (sb w = 0#1)) (.vfmin (fd w) (fa w) (fb w) (fb1 (sub 6 1 (f7 w))) (w2 w) (fb1 (kb w)))
  | 6 => reserve (decide (sb w = 0#1)) (.vfmax (fd w) (fa w) (fb w) (fb1 (sub 6 1 (f7 w))) (w2 w) (fb1 (kb w)))
  | 7 => reserve (decide (fb w = 0#5 ∧ sub 6 1 (f7 w) = 0#1 ∧ sb w = 0#1)) (.vfabs (fd w) (fa w) (w2 w) (fb1 (kb w)))
  | 8 => reserve (decide (fb w = 0#5 ∧ sub 6 1 (f7 w) = 0#1 ∧ sb w = 0#1)) (.vfneg (fd w) (fa w) (w2 w) (fb1 (kb w)))
  | _ => .error .unassigned

/-- Major 0x15 (02_encoding.md R56-R59). -/
def decode15 (w : BitVec 32) : Except DecodeError Instr :=
  match (sub 0 6 (f7 w)).toNat with
  | 0 => reserve (decide (sb w = 0#1)) (.vfmacc (fd w) (fa w) (fb w) (fb1 (sub 6 1 (f7 w))) (w2 w) (fb1 (kb w)))
  | 1 => reserve (decide (sb w = 0#1)) (.vfnmacc (fd w) (fa w) (fb w) (fb1 (sub 6 1 (f7 w))) (w2 w) (fb1 (kb w)))
  | 2 => reserve (decide (sb w = 0#1)) (.vfmadd (fd w) (fa w) (fb w) (fb1 (sub 6 1 (f7 w))) (w2 w) (fb1 (kb w)))
  | _ => .error .unassigned

/-- Major 0x16 (02_encoding.md R56-R59). -/
def decode16 (w : BitVec 32) : Except DecodeError Instr :=
  reserve (decide (fb w = 0#5 ∧ w2 w = 0#2 ∧ ((sub 4 3 (f7 w)).toNat ≤ 4))) (.vcvt (fd w) (fa w) (sub 4 3 (f7 w)) (sub 0 4 (f7 w)) (fb1 (kb w)) (fb1 (sb w)))

/-- Major 0x17 (02_encoding.md R56-R59). -/
def decode17 (w : BitVec 32) : Except DecodeError Instr :=
  match (f7 w).toNat with
  | 0 => reserve (decide (fd w = 0#5 ∧ sub 4 1 (fa w) = 0#1 ∧ fb w = 0#5 ∧ w2 w = 0#2 ∧ kb w = 0#1 ∧ sb w = 0#1)) (.mpush (sub 0 4 (fa w)))
  | 1 => reserve (decide (fd w = 0#5 ∧ fa w = 0#5 ∧ fb w = 0#5 ∧ w2 w = 0#2 ∧ kb w = 0#1 ∧ sb w = 0#1)) .minv
  | 2 => reserve (decide (fd w = 0#5 ∧ fa w = 0#5 ∧ fb w = 0#5 ∧ w2 w = 0#2 ∧ kb w = 0#1 ∧ sb w = 0#1)) .mpop
  | 3 => reserve (decide (sub 4 1 (fd w) = 0#1 ∧ sub 4 1 (fa w) = 0#1 ∧ sub 4 1 (fb w) = 0#1 ∧ w2 w = 0#2 ∧ sb w = 0#1)) (.mand (sub 0 4 (fd w)) (sub 0 4 (fa w)) (sub 0 4 (fb w)) (fb1 (kb w)))
  | 4 => reserve (decide (sub 4 1 (fd w) = 0#1 ∧ sub 4 1 (fa w) = 0#1 ∧ sub 4 1 (fb w) = 0#1 ∧ w2 w = 0#2 ∧ sb w = 0#1)) (.mor (sub 0 4 (fd w)) (sub 0 4 (fa w)) (sub 0 4 (fb w)) (fb1 (kb w)))
  | 5 => reserve (decide (sub 4 1 (fd w) = 0#1 ∧ sub 4 1 (fa w) = 0#1 ∧ sub 4 1 (fb w) = 0#1 ∧ w2 w = 0#2 ∧ sb w = 0#1)) (.mxor (sub 0 4 (fd w)) (sub 0 4 (fa w)) (sub 0 4 (fb w)) (fb1 (kb w)))
  | 6 => reserve (decide (sub 4 1 (fd w) = 0#1 ∧ sub 4 1 (fa w) = 0#1 ∧ fb w = 0#5 ∧ w2 w = 0#2 ∧ sb w = 0#1)) (.mmov (sub 0 4 (fd w)) (sub 0 4 (fa w)) (fb1 (kb w)))
  | 7 => reserve (decide (sub 4 1 (fa w) = 0#1 ∧ fb w = 0#5 ∧ w2 w = 0#2 ∧ sb w = 0#1)) (.mcnt (fd w) (sub 0 4 (fa w)) (fb1 (kb w)))
  | 8 => reserve (decide (sub 4 1 (fa w) = 0#1 ∧ fb w = 0#5 ∧ w2 w = 0#2 ∧ sb w = 0#1)) (.many (fd w) (sub 0 4 (fa w)) (fb1 (kb w)))
  | 9 => reserve (decide (sub 4 1 (fa w) = 0#1 ∧ fb w = 0#5 ∧ w2 w = 0#2 ∧ sb w = 0#1)) (.mfirst (fd w) (sub 0 4 (fa w)) (fb1 (kb w)))
  | _ => .error .unassigned

/-- Major 0x18 (02_encoding.md R56-R59). -/
def decode18 (w : BitVec 32) : Except DecodeError Instr :=
  match (f7 w).toNat with
  | 0 => reserve (decide (w2 w = 0#2 ∧ sb w = 0#1)) (.vslideup (fd w) (fa w) (fb w) (fb1 (kb w)))
  | 1 => reserve (decide (w2 w = 0#2 ∧ sb w = 0#1)) (.vslidedn (fd w) (fa w) (fb w) (fb1 (kb w)))
  | 2 => reserve (decide (w2 w = 0#2 ∧ sb w = 0#1)) (.vslide1up (fd w) (fa w) (fb w) (fb1 (kb w)))
  | 3 => reserve (decide (w2 w = 0#2 ∧ sb w = 0#1)) (.vslide1dn (fd w) (fa w) (fb w) (fb1 (kb w)))
  | 4 => reserve (decide (w2 w = 0#2 ∧ sb w = 0#1)) (.vperm (fd w) (fa w) (fb w) (fb1 (kb w)))
  | 5 => reserve (decide (sub 4 1 (fb w) = 0#1 ∧ w2 w = 0#2 ∧ sb w = 0#1)) (.vcompress (fd w) (fa w) (sub 0 4 (fb w)) (fb1 (kb w)))
  | 6 => reserve (decide (w2 w = 0#2 ∧ sb w = 0#1)) (.vbcast (fd w) (fa w) (fb w) (fb1 (kb w)))
  | 7 => reserve (decide (fb w = 0#5 ∧ w2 w = 0#2 ∧ kb w = 0#1)) (.vmvxs (fd w) (fa w) (fb1 (sb w)))
  | 8 => reserve (decide (fb w = 0#5 ∧ w2 w = 0#2 ∧ sb w = 0#1)) (.vmvsx (fd w) (fa w) (fb1 (kb w)))
  | _ => .error .unassigned

/-- Major 0x19 (02_encoding.md R56-R59). -/
def decode19 (w : BitVec 32) : Except DecodeError Instr :=
  match (f7 w).toNat with
  | 0 => reserve (decide (fb w = 0#5 ∧ w2 w = 0#2)) (.vrsum (fd w) (fa w) (fb1 (kb w)) (fb1 (sb w)))
  | 1 => reserve (decide (fb w = 0#5 ∧ w2 w = 0#2)) (.vrmin (fd w) (fa w) (fb1 (kb w)) (fb1 (sb w)))
  | 2 => reserve (decide (fb w = 0#5 ∧ w2 w = 0#2)) (.vrmax (fd w) (fa w) (fb1 (kb w)) (fb1 (sb w)))
  | 3 => reserve (decide (fb w = 0#5 ∧ w2 w = 0#2)) (.vrmini (fd w) (fa w) (fb1 (kb w)) (fb1 (sb w)))
  | 4 => reserve (decide (fb w = 0#5 ∧ w2 w = 0#2)) (.vrmaxi (fd w) (fa w) (fb1 (kb w)) (fb1 (sb w)))
  | 5 => reserve (decide (fb w = 0#5 ∧ w2 w = 0#2)) (.vscan (fd w) (fa w) (fb1 (kb w)) (fb1 (sb w)))
  | 6 => reserve (decide (fb w = 0#5 ∧ w2 w = 0#2)) (.vscanx (fd w) (fa w) (fb1 (kb w)) (fb1 (sb w)))
  | _ => .error .unassigned

/-- Major 0x1A (02_encoding.md R56-R59). -/
def decode1A (w : BitVec 32) : Except DecodeError Instr :=
  match (f7 w).toNat with
  | 0 => reserve (decide (sub 4 1 (fb w) = 0#1 ∧ w2 w = 0#2)) (.vsegsum (fd w) (fa w) (sub 0 4 (fb w)) (fb1 (kb w)) (fb1 (sb w)))
  | 1 => reserve (decide (sub 4 1 (fb w) = 0#1 ∧ w2 w = 0#2)) (.vsegmin (fd w) (fa w) (sub 0 4 (fb w)) (fb1 (kb w)) (fb1 (sb w)))
  | 2 => reserve (decide (sub 4 1 (fb w) = 0#1 ∧ w2 w = 0#2)) (.vsegmax (fd w) (fa w) (sub 0 4 (fb w)) (fb1 (kb w)) (fb1 (sb w)))
  | 3 => reserve (decide (sub 4 1 (fb w) = 0#1 ∧ w2 w = 0#2)) (.vsegscan (fd w) (fa w) (sub 0 4 (fb w)) (fb1 (kb w)) (fb1 (sb w)))
  | _ => .error .unassigned

/-- Major 0x1B (02_encoding.md R56-R59). -/
def decode1B (w : BitVec 32) : Except DecodeError Instr :=
  match (f7 w).toNat with
  | 0 => reserve (decide (w2 w = 0#2 ∧ kb w = 0#1)) (.vmerge (fd w) (fa w) (fb w) (fb1 (sb w)))
  | 1 => reserve (decide (w2 w = 0#2 ∧ kb w = 0#1)) (.vtopk (fd w) (fa w) (fb w) (fb1 (sb w)))
  | 2 => reserve (decide (w2 w = 0#2 ∧ kb w = 0#1)) (.vmrgk (fd w) (fa w) (fb w) (fb1 (sb w)))
  | 3 => reserve (decide (w2 w = 0#2 ∧ kb w = 0#1)) (.vsortstep (fd w) (fa w) (fb w) (fb1 (sb w)))
  | _ => .error .unassigned

/-- Major 0x1C (02_encoding.md R56-R59). -/
def decode1C (w : BitVec 32) : Except DecodeError Instr :=
  match (f7 w).toNat with
  | 0 => reserve (decide (fd w = 0#5 ∧ fb w = 0#5 ∧ sb w = 0#1)) (.vbmax (fa w) (w2 w) (fb1 (kb w)))
  | 1 => reserve (decide (fb w = 0#5 ∧ sb w = 0#1)) (.vscale (fd w) (fa w) (w2 w) (fb1 (kb w)))
  | 2 => reserve (decide (fb w = 0#5 ∧ sb w = 0#1)) (.vquant (fd w) (fa w) (w2 w) (fb1 (kb w)))
  | 3 => reserve (decide (fb w = 0#5 ∧ sb w = 0#1)) (.vdeq (fd w) (fa w) (w2 w) (fb1 (kb w)))
  | 4 => reserve (decide (sb w = 0#1)) (.vsfma (fd w) (fa w) (fb w) (w2 w) (fb1 (kb w)))
  | _ => .error .unassigned

/-- Major 0x1D (02_encoding.md R56-R59). -/
def decode1D (w : BitVec 32) : Except DecodeError Instr :=
  match (zfn w).toNat with
  | 0 => reserve (decide (sub 10 2 (zd w) = 0#2)) (.vseti (fd w) (fa w) (sub 0 10 (zd w)))
  | 1 => reserve (decide (zd w = 0#12)) (.vsetvl (fd w) (fa w))
  | 2 => reserve (decide (zd w = 0#12)) (.vsett (fd w) (fa w))
  | 3 => reserve (decide (fd w = 0#5 ∧ zd w = 0#12)) (.vshape (fa w))
  | 4 => reserve (decide (fd w = 0#5 ∧ fa w = 0#5)) (.vshapei (zd w))
  | _ => .error .unassigned

/-- Major 0x20 (02_encoding.md R56-R59). -/
def decode20 (w : BitVec 32) : Except DecodeError Instr :=
  match (f3 w).toNat with
  | 0 => reserve (decide (kb w = 0#1 ∧ sb w = 0#1)) (.lds8 (fd w) (fa w) (fb w) (sn w) (es w))
  | 1 => reserve (decide (kb w = 0#1 ∧ sb w = 0#1)) (.ldn8 (fd w) (fa w) (fb w) (sn w) (es w))
  | 2 => reserve (decide (kb w = 0#1 ∧ sb w = 0#1)) (.lds16 (fd w) (fa w) (fb w) (sn w) (es w))
  | 3 => reserve (decide (kb w = 0#1 ∧ sb w = 0#1)) (.ldn16 (fd w) (fa w) (fb w) (sn w) (es w))
  | 4 => reserve (decide (kb w = 0#1 ∧ sb w = 0#1)) (.lds32 (fd w) (fa w) (fb w) (sn w) (es w))
  | 5 => reserve (decide (kb w = 0#1 ∧ sb w = 0#1)) (.ldn32 (fd w) (fa w) (fb w) (sn w) (es w))
  | 6 => reserve (decide (kb w = 0#1 ∧ sb w = 0#1)) (.ld64 (fd w) (fa w) (fb w) (sn w) (es w))
  | _ => .error .unassigned

/-- Major 0x21 (02_encoding.md R56-R59). -/
def decode21 (w : BitVec 32) : Except DecodeError Instr :=
  match (f3 w).toNat with
  | 0 => reserve (decide (kb w = 0#1)) (.st8 (fd w) (fa w) (fb w) (sn w) (es w) (fb1 (sb w)))
  | 1 => reserve (decide (kb w = 0#1)) (.st16 (fd w) (fa w) (fb w) (sn w) (es w) (fb1 (sb w)))
  | 2 => reserve (decide (kb w = 0#1)) (.st32 (fd w) (fa w) (fb w) (sn w) (es w) (fb1 (sb w)))
  | 3 => reserve (decide (kb w = 0#1)) (.st64 (fd w) (fa w) (fb w) (sn w) (es w) (fb1 (sb w)))
  | 4 => reserve (decide (kb w = 0#1 ∧ sb w = 0#1)) (.saadd (fd w) (fa w) (fb w) (sn w) (es w))
  | 5 => reserve (decide (kb w = 0#1 ∧ sb w = 0#1)) (.samax (fd w) (fa w) (fb w) (sn w) (es w))
  | 6 => reserve (decide (kb w = 0#1 ∧ sb w = 0#1)) (.saswap (fd w) (fa w) (fb w) (sn w) (es w))
  | 7 => reserve (decide (kb w = 0#1 ∧ sb w = 0#1)) (.sacas (fd w) (fa w) (fb w) (sn w) (es w))
  | _ => .error .unassigned

/-- Major 0x22 (02_encoding.md R56-R59). -/
def decode22 (w : BitVec 32) : Except DecodeError Instr :=
  match (f3 w).toNat with
  | 0 => reserve (decide (fb w = 0#5)) (.vld (fd w) (fa w) (sn w) (es w) (fb1 (kb w)) (fb1 (sb w)))
  | 1 => .ok (.vlds (fd w) (fa w) (fb w) (sn w) (es w) (fb1 (kb w)) (fb1 (sb w)))
  | 2 => .ok (.vld2d (fd w) (fa w) (fb w) (sn w) (es w) (fb1 (kb w)) (fb1 (sb w)))
  | _ => .error .unassigned

/-- Major 0x23 (02_encoding.md R56-R59). -/
def decode23 (w : BitVec 32) : Except DecodeError Instr :=
  match (f3 w).toNat with
  | 0 => reserve (decide (fb w = 0#5)) (.vst (fd w) (fa w) (sn w) (es w) (fb1 (kb w)) (fb1 (sb w)))
  | 1 => .ok (.vsts (fd w) (fa w) (fb w) (sn w) (es w) (fb1 (kb w)) (fb1 (sb w)))
  | 2 => .ok (.vst2d (fd w) (fa w) (fb w) (sn w) (es w) (fb1 (kb w)) (fb1 (sb w)))
  | _ => .error .unassigned

/-- Major 0x24 (02_encoding.md R56-R59). -/
def decode24 (w : BitVec 32) : Except DecodeError Instr :=
  match (f3 w).toNat with
  | 0 => .ok (.vgath (fd w) (fa w) (fb w) (sn w) (es w) (fb1 (kb w)) (fb1 (sb w)))
  | 1 => reserve (decide (fa w = 0#5)) (.vgatha (fd w) (fb w) (sn w) (es w) (fb1 (kb w)) (fb1 (sb w)))
  | 2 => reserve (decide (sub 2 3 (fb w) = 0#3)) (.vgathf (fd w) (fa w) (sub 0 2 (fb w)) (sn w) (es w) (fb1 (kb w)) (fb1 (sb w)))
  | _ => .error .unassigned

/-- Major 0x25 (02_encoding.md R56-R59). -/
def decode25 (w : BitVec 32) : Except DecodeError Instr :=
  match (f3 w).toNat with
  | 0 => .ok (.vscat (fd w) (fa w) (fb w) (sn w) (es w) (fb1 (kb w)) (fb1 (sb w)))
  | 1 => reserve (decide (fa w = 0#5)) (.vscata (fd w) (fb w) (sn w) (es w) (fb1 (kb w)) (fb1 (sb w)))
  | 2 => reserve (decide (sub 2 3 (fb w) = 0#3)) (.vscatf (fd w) (fa w) (sub 0 2 (fb w)) (sn w) (es w) (fb1 (kb w)) (fb1 (sb w)))
  | _ => .error .unassigned

/-- Major 0x26 (02_encoding.md R56-R59). -/
def decode26 (w : BitVec 32) : Except DecodeError Instr :=
  match (f3 w).toNat with
  | 0 => .ok (.vaadd (fd w) (fa w) (fb w) (sn w) (es w) (fb1 (kb w)) (fb1 (sb w)))
  | 1 => .ok (.vamin (fd w) (fa w) (fb w) (sn w) (es w) (fb1 (kb w)) (fb1 (sb w)))
  | 2 => .ok (.vamax (fd w) (fa w) (fb w) (sn w) (es w) (fb1 (kb w)) (fb1 (sb w)))
  | 3 => .ok (.vaor (fd w) (fa w) (fb w) (sn w) (es w) (fb1 (kb w)) (fb1 (sb w)))
  | 4 => .ok (.vaswap (fd w) (fa w) (fb w) (sn w) (es w) (fb1 (kb w)) (fb1 (sb w)))
  | 5 => .ok (.vacas (fd w) (fa w) (fb w) (sn w) (es w) (fb1 (kb w)) (fb1 (sb w)))
  | _ => .error .unassigned

/-- Major 0x27 (02_encoding.md R56-R59). -/
def decode27 (w : BitVec 32) : Except DecodeError Instr :=
  match (f3 w).toNat with
  | 0 => .ok (.vcadd (fd w) (fa w) (fb w) (sn w) (es w) (fb1 (kb w)) (fb1 (sb w)))
  | 1 => .ok (.vcmin (fd w) (fa w) (fb w) (sn w) (es w) (fb1 (kb w)) (fb1 (sb w)))
  | 2 => .ok (.vcmax (fd w) (fa w) (fb w) (sn w) (es w) (fb1 (kb w)) (fb1 (sb w)))
  | 3 => .ok (.vcfadd (fd w) (fa w) (fb w) (sn w) (es w) (fb1 (kb w)) (fb1 (sb w)))
  | 4 => .ok (.vcfmax (fd w) (fa w) (fb w) (sn w) (es w) (fb1 (kb w)) (fb1 (sb w)))
  | _ => .error .unassigned

/-- Major 0x28 (02_encoding.md R56-R59). -/
def decode28 (w : BitVec 32) : Except DecodeError Instr :=
  match (f3 w).toNat with
  | 0 => reserve (decide (sub 4 1 (fd w) = 0#1 ∧ fb w = 0#5 ∧ kb w = 0#1 ∧ sb w = 0#1)) (.hld (sub 0 4 (fd w)) (fa w) (sn w) (es w))
  | 1 => reserve (decide (sub 4 1 (fd w) = 0#1 ∧ fb w = 0#5 ∧ kb w = 0#1 ∧ sb w = 0#1)) (.hst (sub 0 4 (fd w)) (fa w) (sn w) (es w))
  | 2 => reserve (decide (sub 4 1 (fa w) = 0#1)) (.cld (fd w) (sub 0 4 (fa w)) (fb w) (sn w) (es w) (fb1 (kb w)) (fb1 (sb w)))
  | 3 => reserve (decide (sub 4 1 (fa w) = 0#1)) (.cst (fd w) (sub 0 4 (fa w)) (fb w) (sn w) (es w) (fb1 (kb w)) (fb1 (sb w)))
  | 4 => reserve (decide (sub 4 1 (fa w) = 0#1 ∧ sn w = 0#3 ∧ es w = 0#3 ∧ kb w = 0#1 ∧ sb w = 0#1)) (.hget (fd w) (sub 0 4 (fa w)) (fb w))
  | 5 => reserve (decide (sub 4 1 (fd w) = 0#1 ∧ sn w = 0#3 ∧ es w = 0#3 ∧ kb w = 0#1 ∧ sb w = 0#1)) (.hset (sub 0 4 (fd w)) (fa w) (fb w))
  | _ => .error .unassigned

/-- Major 0x29 (02_encoding.md R56-R59). -/
def decode29 (w : BitVec 32) : Except DecodeError Instr :=
  match (f3 w).toNat with
  | 0 => reserve (decide (sub 2 3 (fd w) = 0#3 ∧ sn w = 0#3 ∧ es w = 0#3 ∧ kb w = 0#1 ∧ sb w = 0#1)) (.fbind (sub 0 2 (fd w)) (fa w) (fb w))
  | 1 => reserve (decide (sub 2 3 (fa w) = 0#3 ∧ fb w = 0#5)) (.fpop (fd w) (sub 0 2 (fa w)) (sn w) (es w) (fb1 (kb w)) (fb1 (sb w)))
  | 2 => reserve (decide (sub 2 3 (fd w) = 0#3 ∧ fb w = 0#5 ∧ sn w = 0#3 ∧ es w = 0#3 ∧ kb w = 0#1 ∧ sb w = 0#1)) (.ftrim (sub 0 2 (fd w)) (fa w))
  | 3 => reserve (decide (sub 2 3 (fd w) = 0#3 ∧ fa w = 0#5 ∧ fb w = 0#5 ∧ sn w = 0#3 ∧ es w = 0#3 ∧ kb w = 0#1 ∧ sb w = 0#1)) (.ffree (sub 0 2 (fd w)))
  | _ => .error .unassigned

/-- Major 0x2A (02_encoding.md R56-R59). -/
def decode2A (w : BitVec 32) : Except DecodeError Instr :=
  match (f3 w).toNat with
  | 0 => reserve (decide (fb w = 0#5)) (.pld (fd w) (fa w) (sn w) (es w) (fb1 (kb w)) (fb1 (sb w)))
  | 1 => reserve (decide (fb w = 0#5)) (.pst (fd w) (fa w) (sn w) (es w) (fb1 (kb w)) (fb1 (sb w)))
  | 2 => .ok (.pldx (fd w) (fa w) (fb w) (sn w) (es w) (fb1 (kb w)) (fb1 (sb w)))
  | 3 => .ok (.pstx (fd w) (fa w) (fb w) (sn w) (es w) (fb1 (kb w)) (fb1 (sb w)))
  | _ => .error .unassigned

/-- Major 0x2B (02_encoding.md R56-R59). -/
def decode2B (w : BitVec 32) : Except DecodeError Instr :=
  match (f3 w).toNat with
  | 0 => reserve (decide (fd w = 0#5 ∧ fb w = 0#5 ∧ es w = 0#3 ∧ kb w = 0#1 ∧ sb w = 0#1)) (.waitc (fa w) (sn w))
  | 1 => reserve (decide (fa w = 0#5 ∧ fb w = 0#5 ∧ es w = 0#3 ∧ kb w = 0#1 ∧ sb w = 0#1)) (.mfic (fd w) (sn w))
  | 2 => reserve (decide (fa w = 0#5 ∧ fb w = 0#5 ∧ es w = 0#3 ∧ kb w = 0#1 ∧ sb w = 0#1)) (.mfcc (fd w) (sn w))
  | 3 => reserve (decide (fa w = 0#5 ∧ fb w = 0#5 ∧ sn w = 0#3 ∧ kb w = 0#1 ∧ sb w = 0#1)) (.mfe (fd w) (es w))
  | 4 => reserve (decide (fd w = 0#5 ∧ fb w = 0#5 ∧ sn w = 0#3 ∧ kb w = 0#1 ∧ sb w = 0#1)) (.mte (fa w) (es w))
  | 5 => reserve (decide (fd w = 0#5 ∧ fb w = 0#5 ∧ es w = 0#3 ∧ kb w = 0#1 ∧ sb w = 0#1)) (.mtss (fa w) (sn w))
  | _ => .error .unassigned

/-- Major 0x2C (02_encoding.md R56-R59). -/
def decode2C (w : BitVec 32) : Except DecodeError Instr :=
  match (fn w).toNat with
  | 0 => reserve (decide (sub 4 1 (fa w) = 0#1 ∧ aux w = 0#5)) (.viewreg (fd w) (sub 0 4 (fa w)) (fb w))
  | 1 => reserve (decide (fd w = 0#5 ∧ fb w = 0#5 ∧ aux w = 0#5)) (.viewdrop (fa w))
  | 2 => reserve (decide (aux w = 0#5)) (.viewq (fd w) (fa w) (fb w))
  | 3 => reserve (decide (fd w = 0#5 ∧ fb w = 0#5 ∧ sub 1 4 (aux w) = 0#4)) (.viewsync (fa w) (fb1 (sub 0 1 (aux w))))
  | _ => .error .unassigned

/-- Major 0x2D (02_encoding.md R56-R59). -/
def decode2D (w : BitVec 32) : Except DecodeError Instr :=
  match (fn w).toNat with
  | 0 => reserve (decide (sub 4 1 (fd w) = 0#1 ∧ fb w = 0#5 ∧ aux w = 0#5)) (.relayout (sub 0 4 (fd w)) (fa w))
  | _ => .error .unassigned

/-- Major 0x2E (02_encoding.md R56-R59). -/
def decode2E (w : BitVec 32) : Except DecodeError Instr :=
  match (fn w).toNat with
  | 0 => reserve (decide (fd w = 0#5 ∧ aux w = 0#5)) (.sealOp (fa w) (fb w))
  | 1 => reserve (decide (fd w = 0#5 ∧ aux w = 0#5)) (.unsealOp (fa w) (fb w))
  | 2 => reserve (decide (aux w = 0#5)) (.dormer (fd w) (fa w) (fb w))
  | 3 => reserve (decide (fd w = 0#5 ∧ fb w = 0#5 ∧ aux w = 0#5)) (.dormrel (fa w))
  | _ => .error .unassigned

/-- Major 0x30 (02_encoding.md R56-R59). -/
def decode30 (w : BitVec 32) : Except DecodeError Instr :=
  match (f4 w).toNat with
  | 0 => reserve (decide (sub 2 3 (fd w) = 0#3 ∧ sn w = 0#3 ∧ ((pl w) ≠ 0#4))) (.tldp (sub 0 2 (fd w)) (fa w) (fb w) (pl w))
  | 1 => reserve (decide (sub 2 3 (fd w) = 0#3 ∧ sn w = 0#3 ∧ ((pl w) ≠ 0#4))) (.tldl (sub 0 2 (fd w)) (fa w) (fb w) (pl w))
  | _ => .error .unassigned

/-- Major 0x31 (02_encoding.md R56-R59). -/
def decode31 (w : BitVec 32) : Except DecodeError Instr :=
  match (f4 w).toNat with
  | 0 => reserve (decide (sub 2 3 (fd w) = 0#3 ∧ fb w = 0#5)) (.mrow (sub 0 2 (fd w)) (fa w) (sn w) (pl w))
  | 1 => reserve (decide (sub 2 3 (fd w) = 0#3 ∧ fb w = 0#5)) (.mrowz (sub 0 2 (fd w)) (fa w) (sn w) (pl w))
  | _ => .error .unassigned

/-- Major 0x32 (02_encoding.md R56-R59). -/
def decode32 (w : BitVec 32) : Except DecodeError Instr :=
  match (f4 w).toNat with
  | 0 => reserve (decide (fa w = 0#5 ∧ pl w = 0#4)) (.accrd (fd w) (fb w) (sn w))
  | 1 => reserve (decide (fd w = 0#5 ∧ fb w = 0#5 ∧ pl w = 0#4)) (.accwr (fa w) (sn w))
  | 2 => reserve (decide (fd w = 0#5 ∧ fa w = 0#5 ∧ fb w = 0#5 ∧ pl w = 0#4)) (.accclr (sn w))
  | _ => .error .unassigned

/-- Major 0x33 (02_encoding.md R56-R59). -/
def decode33 (w : BitVec 32) : Except DecodeError Instr :=
  match (f4 w).toNat with
  | 0 => reserve (decide (sub 2 3 (fd w) = 0#3 ∧ fa w = 0#5 ∧ fb w = 0#5 ∧ sn w = 0#3 ∧ pl w = 0#4)) (.tfree (sub 0 2 (fd w)))
  | _ => .error .unassigned

/-- Major 0x38 (02_encoding.md R56-R59). -/
def decode38 (w : BitVec 32) : Except DecodeError Instr :=
  match (fn w).toNat with
  | 0 => reserve (decide (fd w = 0#5 ∧ fa w = 0#5 ∧ fb w = 0#5 ∧ aux w = 0#5)) .gang
  | 1 => reserve (decide (fd w = 0#5 ∧ fa w = 0#5 ∧ fb w = 0#5 ∧ aux w = 0#5)) .ungang
  | _ => .error .unassigned

/-- Major 0x39 (02_encoding.md R56-R59). -/
def decode39 (w : BitVec 32) : Except DecodeError Instr :=
  match (zfn w).toNat with
  | 0 => reserve (decide (fd w = 0#5 ∧ sub 5 7 (zd w) = 0#7)) (.evcfg (fa w) (sub 0 5 (zd w)))
  | 1 => reserve (decide (fd w = 0#5 ∧ fa w = 0#5 ∧ sub 5 7 (zd w) = 0#7)) (.evpulse (sub 0 5 (zd w)))
  | 2 => reserve (decide (fa w = 0#5 ∧ sub 4 8 (zd w) = 0#8)) (.evwait (fd w) (sub 0 4 (zd w)))
  | 3 => reserve (decide (fd w = 0#5 ∧ zd w = 0#12)) (.macroOp (fa w))
  | _ => .error .unassigned

/-- Major 0x3A (02_encoding.md R56-R59). -/
def decode3A (w : BitVec 32) : Except DecodeError Instr :=
  match (f3 w).toNat with
  | 0 => reserve (decide (fb w = 0#5)) (.ldw (fd w) (fa w) (sn w) (es w) (fb1 (kb w)) (fb1 (sb w)))
  | 1 => reserve (decide (fb w = 0#5)) (.ldc (fd w) (fa w) (sn w) (es w) (fb1 (kb w)) (fb1 (sb w)))
  | 2 => reserve (decide (fb w = 0#5)) (.stfl (fd w) (fa w) (sn w) (es w) (fb1 (kb w)) (fb1 (sb w)))
  | 3 => reserve (decide (fd w = 0#5 ∧ kb w = 0#1)) (.lclr (fa w) (fb w) (sn w) (es w) (fb1 (sb w)))
  | 4 => reserve (decide (kb w = 0#1)) (.copy (fd w) (fa w) (fb w) (sn w) (es w) (fb1 (sb w)))
  | _ => .error .unassigned

/-- Major 0x3B (02_encoding.md R56-R59). -/
def decode3B (w : BitVec 32) : Except DecodeError Instr :=
  match (zfn w).toNat with
  | 0 => reserve (decide (fd w = 0#5 ∧ fa w = 0#5 ∧ zd w = 0#12)) .phase
  | 1 => reserve (decide (fd w = 0#5 ∧ fa w = 0#5 ∧ sub 4 8 (zd w) = 0#8 ∧ ((sub 0 4 (zd w)) ≠ 0#4))) (.leadset (sub 0 4 (zd w)))
  | _ => .error .unassigned

/-- Major 0x3C (02_encoding.md R56-R59). -/
def decode3C (w : BitVec 32) : Except DecodeError Instr :=
  match (f3 w).toNat with
  | 0 => .ok (.tsend (fd w) (fa w) (fb w) (sn w) (es w) (fb1 (kb w)) (fb1 (sb w)))
  | 1 => reserve (decide (kb w = 0#1)) (.coll (fd w) (fa w) (fb w) (sn w) (es w) (fb1 (sb w)))
  | 2 => reserve (decide (fa w = 0#5 ∧ fb w = 0#5 ∧ sn w = 0#3 ∧ es w = 0#3 ∧ kb w = 0#1 ∧ sb w = 0#1)) (.collq (fd w))
  | _ => .error .unassigned

/-- Major 0x3D (02_encoding.md R56-R59). -/
def decode3D (w : BitVec 32) : Except DecodeError Instr :=
  match (zfn w).toNat with
  | 0 => reserve (decide (zd w = 0#12)) (.run (fd w) (fa w))
  | 1 => reserve (decide (zd w = 0#12)) (.grow (fd w) (fa w))
  | 2 => reserve (decide (fd w = 0#5 ∧ fa w = 0#5 ∧ zd w = 0#12)) .exit
  | _ => .error .unassigned

/-- Major 0x3E (02_encoding.md R56-R59). -/
def decode3E (w : BitVec 32) : Except DecodeError Instr :=
  match (zfn w).toNat with
  | 0 => reserve (decide (fd w = 0#5 ∧ fa w = 0#5 ∧ sub 7 5 (zd w) = 0#5)) (.trap (sub 0 7 (zd w)))
  | 1 => reserve (decide (fd w = 0#5 ∧ fa w = 0#5 ∧ zd w = 0#12)) .eret
  | 2 => reserve (decide (fa w = 0#5)) (.mfs (fd w) (zd w))
  | 3 => reserve (decide (fd w = 0#5)) (.mts (fa w) (zd w))
  | 4 => reserve (decide (fd w = 0#5 ∧ fa w = 0#5 ∧ zd w = 0#12)) .yield
  | 5 => reserve (decide (fa w = 0#5 ∧ sub 4 8 (zd w) = 0#8 ∧ ((sub 0 4 (zd w)).toNat ≤ 4))) (.erd (fd w) (sub 0 4 (zd w)))
  | _ => .error .unassigned

/-- The instruction a word stands for (R53 steps 1 and 2, R55). -/
def decode (w : BitVec 32) : Except DecodeError Instr :=
  match (major w).toNat with
  | 0x01 => decode01 w
  | 0x02 => decode02 w
  | 0x03 => decode03 w
  | 0x04 => decode04 w
  | 0x05 => decode05 w
  | 0x06 => decode06 w
  | 0x07 => decode07 w
  | 0x08 => decode08 w
  | 0x09 => decode09 w
  | 0x0A => decode0A w
  | 0x0B => decode0B w
  | 0x0C => decode0C w
  | 0x0D => decode0D w
  | 0x0E => decode0E w
  | 0x0F => decode0F w
  | 0x10 => decode10 w
  | 0x11 => decode11 w
  | 0x12 => decode12 w
  | 0x13 => decode13 w
  | 0x14 => decode14 w
  | 0x15 => decode15 w
  | 0x16 => decode16 w
  | 0x17 => decode17 w
  | 0x18 => decode18 w
  | 0x19 => decode19 w
  | 0x1A => decode1A w
  | 0x1B => decode1B w
  | 0x1C => decode1C w
  | 0x1D => decode1D w
  | 0x20 => decode20 w
  | 0x21 => decode21 w
  | 0x22 => decode22 w
  | 0x23 => decode23 w
  | 0x24 => decode24 w
  | 0x25 => decode25 w
  | 0x26 => decode26 w
  | 0x27 => decode27 w
  | 0x28 => decode28 w
  | 0x29 => decode29 w
  | 0x2A => decode2A w
  | 0x2B => decode2B w
  | 0x2C => decode2C w
  | 0x2D => decode2D w
  | 0x2E => decode2E w
  | 0x30 => decode30 w
  | 0x31 => decode31 w
  | 0x32 => decode32 w
  | 0x33 => decode33 w
  | 0x38 => decode38 w
  | 0x39 => decode39 w
  | 0x3A => decode3A w
  | 0x3B => decode3B w
  | 0x3C => decode3C w
  | 0x3D => decode3D w
  | 0x3E => decode3E w
  | 0x34 => .error .unassigned
  | 0x35 => .error .unassigned
  | _ => .error .illegalMajor

/-- The word of an encoded instruction, field by field from R46 and R56-R59; none for a device event, which has no
encoding. -/
def encode (i : Instr) : Option (BitVec 32) :=
  match i with
  | .add d a b => some (mkA 1#6 d a b 0#5 0#6)
  | .sub d a b => some (mkA 1#6 d a b 0#5 1#6)
  | .and d a b => some (mkA 1#6 d a b 0#5 2#6)
  | .or d a b => some (mkA 1#6 d a b 0#5 3#6)
  | .xor d a b => some (mkA 1#6 d a b 0#5 4#6)
  | .andn d a b => some (mkA 1#6 d a b 0#5 5#6)
  | .shadd d a b c => some (mkA 1#6 d a b c 6#6)
  | .sll d a b => some (mkA 2#6 d a b 0#5 0#6)
  | .srl d a b => some (mkA 2#6 d a b 0#5 1#6)
  | .sra d a b => some (mkA 2#6 d a b 0#5 2#6)
  | .ror d a b => some (mkA 2#6 d a b 0#5 3#6)
  | .clz d a => some (mkA 2#6 d a 0#5 0#5 4#6)
  | .ctz d a => some (mkA 2#6 d a 0#5 0#5 5#6)
  | .popc d a => some (mkA 2#6 d a 0#5 0#5 6#6)
  | .bext d a b w => some (mkA 2#6 d a b w 7#6)
  | .seq d a b => some (mkA 3#6 d a b 0#5 0#6)
  | .sne d a b => some (mkA 3#6 d a b 0#5 1#6)
  | .slt d a b => some (mkA 3#6 d a b 0#5 2#6)
  | .sltn d a b => some (mkA 3#6 d a b 0#5 3#6)
  | .min d a b => some (mkA 3#6 d a b 0#5 4#6)
  | .max d a b => some (mkA 3#6 d a b 0#5 5#6)
  | .mul d a b => some (mkA 4#6 d a b 0#5 0#6)
  | .mulh d a b => some (mkA 4#6 d a b 0#5 1#6)
  | .mulhn d a b => some (mkA 4#6 d a b 0#5 2#6)
  | .div d a b => some (mkA 4#6 d a b 0#5 3#6)
  | .divn d a b => some (mkA 4#6 d a b 0#5 4#6)
  | .rem d a b => some (mkA 4#6 d a b 0#5 5#6)
  | .remn d a b => some (mkA 4#6 d a b 0#5 6#6)
  | .madd d a b c => some (mkA 4#6 d a b c 7#6)
  | .addi d a i => some (mkI 5#6 d a i)
  | .andi d a i => some (mkI 6#6 d a i)
  | .ori d a i => some (mkI 7#6 d a i)
  | .xori d a i => some (mkI 8#6 d a i)
  | .shori d a i => some (mkI 9#6 d a i)
  | .addpc d i => some (mkI 11#6 d 0#5 i)
  | .slli d a m => some (mkZ 10#6 d a 0#4 (0#6 ++ m))
  | .srli d a m => some (mkZ 10#6 d a 1#4 (0#6 ++ m))
  | .srai d a m => some (mkZ 10#6 d a 2#4 (0#6 ++ m))
  | .slti d a i => some (mkZ 10#6 d a 3#4 i)
  | .beqz a o => some (mkI 12#6 a 0#5 o)
  | .bnez a o => some (mkI 12#6 a 1#5 o)
  | .bltz a o => some (mkI 12#6 a 2#5 o)
  | .bgez a o => some (mkI 12#6 a 3#5 o)
  | .bgtz a o => some (mkI 12#6 a 4#5 o)
  | .blez a o => some (mkI 12#6 a 5#5 o)
  | .bempty o => some (mkI 12#6 0#5 6#5 o)
  | .jmp o => some (mkJ 13#6 o)
  | .call o => some (mkJ 14#6 o)
  | .jr a => some (mkZ 15#6 0#5 a 0#4 0#12)
  | .callr d a => some (mkZ 15#6 d a 1#4 0#12)
  | .jtab d a l => some (mkZ 15#6 d a 2#4 l)
  | .loop a l => some (mkZ 15#6 0#5 a 3#4 (0#4 ++ l))
  | .mfls d s => some (mkZ 15#6 d 0#5 4#4 (0#8 ++ s))
  | .mtls a s => some (mkZ 15#6 0#5 a 5#4 (0#8 ++ s))
  | .vadd d a b x w k s => some (mkV 16#6 d a b ((bb x) ++ 0#6) w (bb k) (bb s))
  | .vsub d a b x w k s => some (mkV 16#6 d a b ((bb x) ++ 1#6) w (bb k) (bb s))
  | .vrsub d a b x w k s => some (mkV 16#6 d a b ((bb x) ++ 2#6) w (bb k) (bb s))
  | .vmin d a b x w k s => some (mkV 16#6 d a b ((bb x) ++ 3#6) w (bb k) (bb s))
  | .vmax d a b x w k s => some (mkV 16#6 d a b ((bb x) ++ 4#6) w (bb k) (bb s))
  | .vabs d a w k s => some (mkV 16#6 d a 0#5 5#7 w (bb k) (bb s))
  | .vabsd d a b x w k s => some (mkV 16#6 d a b ((bb x) ++ 6#6) w (bb k) (bb s))
  | .vmov d b x w k s => some (mkV 16#6 d 0#5 b ((bb x) ++ 7#6) w (bb k) (bb s))
  | .vmul d a b x w k s => some (mkV 17#6 d a b ((bb x) ++ 0#6) w (bb k) (bb s))
  | .vmulh d a b x w k s => some (mkV 17#6 d a b ((bb x) ++ 1#6) w (bb k) (bb s))
  | .vmacc d a b x w k s => some (mkV 17#6 d a b ((bb x) ++ 2#6) w (bb k) (bb s))
  | .vdot4 d a b x w k s => some (mkV 17#6 d a b ((bb x) ++ 3#6) w (bb k) (bb s))
  | .vdiv d a b x w k s => some (mkV 17#6 d a b ((bb x) ++ 4#6) w (bb k) (bb s))
  | .vand d a b x k s => some (mkV 18#6 d a b ((bb x) ++ 0#6) 0#2 (bb k) (bb s))
  | .vor d a b x k s => some (mkV 18#6 d a b ((bb x) ++ 1#6) 0#2 (bb k) (bb s))
  | .vxor d a b x k s => some (mkV 18#6 d a b ((bb x) ++ 2#6) 0#2 (bb k) (bb s))
  | .vandn d a b x k s => some (mkV 18#6 d a b ((bb x) ++ 3#6) 0#2 (bb k) (bb s))
  | .vsll d a b x k s => some (mkV 18#6 d a b ((bb x) ++ 4#6) 0#2 (bb k) (bb s))
  | .vsrl d a b x k s => some (mkV 18#6 d a b ((bb x) ++ 5#6) 0#2 (bb k) (bb s))
  | .vsra d a b x k s => some (mkV 18#6 d a b ((bb x) ++ 6#6) 0#2 (bb k) (bb s))
  | .vpopc d a k s => some (mkV 18#6 d a 0#5 7#7 0#2 (bb k) (bb s))
  | .vceq d a b x k s => some (mkV 19#6 (0#1 ++ d) a b ((bb x) ++ 0#6) 0#2 (bb k) (bb s))
  | .vcne d a b x k s => some (mkV 19#6 (0#1 ++ d) a b ((bb x) ++ 1#6) 0#2 (bb k) (bb s))
  | .vclt d a b x k s => some (mkV 19#6 (0#1 ++ d) a b ((bb x) ++ 2#6) 0#2 (bb k) (bb s))
  | .vcle d a b x k s => some (mkV 19#6 (0#1 ++ d) a b ((bb x) ++ 3#6) 0#2 (bb k) (bb s))
  | .vcgt d a b x k s => some (mkV 19#6 (0#1 ++ d) a b ((bb x) ++ 4#6) 0#2 (bb k) (bb s))
  | .vcge d a b x k s => some (mkV 19#6 (0#1 ++ d) a b ((bb x) ++ 5#6) 0#2 (bb k) (bb s))
  | .vfadd d a b x w k => some (mkV 20#6 d a b ((bb x) ++ 0#6) w (bb k) 0#1)
  | .vfsub d a b x w k => some (mkV 20#6 d a b ((bb x) ++ 1#6) w (bb k) 0#1)
  | .vfmul d a b x w k => some (mkV 20#6 d a b ((bb x) ++ 2#6) w (bb k) 0#1)
  | .vfdiv d a b x w k => some (mkV 20#6 d a b ((bb x) ++ 3#6) w (bb k) 0#1)
  | .vfsqrt d a w k => some (mkV 20#6 d a 0#5 4#7 w (bb k) 0#1)
  | .vfmin d a b x w k => some (mkV 20#6 d a b ((bb x) ++ 5#6) w (bb k) 0#1)
  | .vfmax d a b x w k => some (mkV 20#6 d a b ((bb x) ++ 6#6) w (bb k) 0#1)
  | .vfabs d a w k => some (mkV 20#6 d a 0#5 7#7 w (bb k) 0#1)
  | .vfneg d a w k => some (mkV 20#6 d a 0#5 8#7 w (bb k) 0#1)
  | .vfmacc d a b x w k => some (mkV 21#6 d a b ((bb x) ++ 0#6) w (bb k) 0#1)
  | .vfnmacc d a b x w k => some (mkV 21#6 d a b ((bb x) ++ 1#6) w (bb k) 0#1)
  | .vfmadd d a b x w k => some (mkV 21#6 d a b ((bb x) ++ 2#6) w (bb k) 0#1)
  | .vcvt d a e f k s => some (mkV 22#6 d a 0#5 (e ++ f) 0#2 (bb k) (bb s))
  | .mpush a => some (mkV 23#6 0#5 (0#1 ++ a) 0#5 0#7 0#2 0#1 0#1)
  | .minv => some (mkV 23#6 0#5 0#5 0#5 1#7 0#2 0#1 0#1)
  | .mpop => some (mkV 23#6 0#5 0#5 0#5 2#7 0#2 0#1 0#1)
  | .mand d a b k => some (mkV 23#6 (0#1 ++ d) (0#1 ++ a) (0#1 ++ b) 3#7 0#2 (bb k) 0#1)
  | .mor d a b k => some (mkV 23#6 (0#1 ++ d) (0#1 ++ a) (0#1 ++ b) 4#7 0#2 (bb k) 0#1)
  | .mxor d a b k => some (mkV 23#6 (0#1 ++ d) (0#1 ++ a) (0#1 ++ b) 5#7 0#2 (bb k) 0#1)
  | .mmov d a k => some (mkV 23#6 (0#1 ++ d) (0#1 ++ a) 0#5 6#7 0#2 (bb k) 0#1)
  | .mcnt d a k => some (mkV 23#6 d (0#1 ++ a) 0#5 7#7 0#2 (bb k) 0#1)
  | .many d a k => some (mkV 23#6 d (0#1 ++ a) 0#5 8#7 0#2 (bb k) 0#1)
  | .mfirst d a k => some (mkV 23#6 d (0#1 ++ a) 0#5 9#7 0#2 (bb k) 0#1)
  | .vslideup d a b k => some (mkV 24#6 d a b 0#7 0#2 (bb k) 0#1)
  | .vslidedn d a b k => some (mkV 24#6 d a b 1#7 0#2 (bb k) 0#1)
  | .vslide1up d a b k => some (mkV 24#6 d a b 2#7 0#2 (bb k) 0#1)
  | .vslide1dn d a b k => some (mkV 24#6 d a b 3#7 0#2 (bb k) 0#1)
  | .vperm d a b k => some (mkV 24#6 d a b 4#7 0#2 (bb k) 0#1)
  | .vcompress d a b k => some (mkV 24#6 d a (0#1 ++ b) 5#7 0#2 (bb k) 0#1)
  | .vbcast d a b k => some (mkV 24#6 d a b 6#7 0#2 (bb k) 0#1)
  | .vmvxs d a s => some (mkV 24#6 d a 0#5 7#7 0#2 0#1 (bb s))
  | .vmvsx d a k => some (mkV 24#6 d a 0#5 8#7 0#2 (bb k) 0#1)
  | .vrsum d a k s => some (mkV 25#6 d a 0#5 0#7 0#2 (bb k) (bb s))
  | .vrmin d a k s => some (mkV 25#6 d a 0#5 1#7 0#2 (bb k) (bb s))
  | .vrmax d a k s => some (mkV 25#6 d a 0#5 2#7 0#2 (bb k) (bb s))
  | .vrmini d a k s => some (mkV 25#6 d a 0#5 3#7 0#2 (bb k) (bb s))
  | .vrmaxi d a k s => some (mkV 25#6 d a 0#5 4#7 0#2 (bb k) (bb s))
  | .vscan d a k s => some (mkV 25#6 d a 0#5 5#7 0#2 (bb k) (bb s))
  | .vscanx d a k s => some (mkV 25#6 d a 0#5 6#7 0#2 (bb k) (bb s))
  | .vsegsum d a b k s => some (mkV 26#6 d a (0#1 ++ b) 0#7 0#2 (bb k) (bb s))
  | .vsegmin d a b k s => some (mkV 26#6 d a (0#1 ++ b) 1#7 0#2 (bb k) (bb s))
  | .vsegmax d a b k s => some (mkV 26#6 d a (0#1 ++ b) 2#7 0#2 (bb k) (bb s))
  | .vsegscan d a b k s => some (mkV 26#6 d a (0#1 ++ b) 3#7 0#2 (bb k) (bb s))
  | .vmerge d a b s => some (mkV 27#6 d a b 0#7 0#2 0#1 (bb s))
  | .vtopk d a b s => some (mkV 27#6 d a b 1#7 0#2 0#1 (bb s))
  | .vmrgk d a b s => some (mkV 27#6 d a b 2#7 0#2 0#1 (bb s))
  | .vsortstep d a b s => some (mkV 27#6 d a b 3#7 0#2 0#1 (bb s))
  | .vbmax a w k => some (mkV 28#6 0#5 a 0#5 0#7 w (bb k) 0#1)
  | .vscale d a w k => some (mkV 28#6 d a 0#5 1#7 w (bb k) 0#1)
  | .vquant d a w k => some (mkV 28#6 d a 0#5 2#7 w (bb k) 0#1)
  | .vdeq d a w k => some (mkV 28#6 d a 0#5 3#7 w (bb k) 0#1)
  | .vsfma d a b w k => some (mkV 28#6 d a b 4#7 w (bb k) 0#1)
  | .vseti d a t => some (mkZ 29#6 d a 0#4 (0#2 ++ t))
  | .vsetvl d a => some (mkZ 29#6 d a 1#4 0#12)
  | .vsett d a => some (mkZ 29#6 d a 2#4 0#12)
  | .vshape a => some (mkZ 29#6 0#5 a 3#4 0#12)
  | .vshapei c => some (mkZ 29#6 0#5 0#5 4#4 c)
  | .lds8 t b i s e => some (mkM 32#6 t b i s e 0#3 0#1 0#1)
  | .ldn8 t b i s e => some (mkM 32#6 t b i s e 1#3 0#1 0#1)
  | .lds16 t b i s e => some (mkM 32#6 t b i s e 2#3 0#1 0#1)
  | .ldn16 t b i s e => some (mkM 32#6 t b i s e 3#3 0#1 0#1)
  | .lds32 t b i s e => some (mkM 32#6 t b i s e 4#3 0#1 0#1)
  | .ldn32 t b i s e => some (mkM 32#6 t b i s e 5#3 0#1 0#1)
  | .ld64 t b i s e => some (mkM 32#6 t b i s e 6#3 0#1 0#1)
  | .st8 t b i s e n => some (mkM 33#6 t b i s e 0#3 0#1 (bb n))
  | .st16 t b i s e n => some (mkM 33#6 t b i s e 1#3 0#1 (bb n))
  | .st32 t b i s e n => some (mkM 33#6 t b i s e 2#3 0#1 (bb n))
  | .st64 t b i s e n => some (mkM 33#6 t b i s e 3#3 0#1 (bb n))
  | .saadd t b i s e => some (mkM 33#6 t b i s e 4#3 0#1 0#1)
  | .samax t b i s e => some (mkM 33#6 t b i s e 5#3 0#1 0#1)
  | .saswap t b i s e => some (mkM 33#6 t b i s e 6#3 0#1 0#1)
  | .sacas t b i s e => some (mkM 33#6 t b i s e 7#3 0#1 0#1)
  | .vld t b s e k n => some (mkM 34#6 t b 0#5 s e 0#3 (bb k) (bb n))
  | .vlds t b i s e k n => some (mkM 34#6 t b i s e 1#3 (bb k) (bb n))
  | .vld2d t b i s e k n => some (mkM 34#6 t b i s e 2#3 (bb k) (bb n))
  | .vst t b s e k n => some (mkM 35#6 t b 0#5 s e 0#3 (bb k) (bb n))
  | .vsts t b i s e k n => some (mkM 35#6 t b i s e 1#3 (bb k) (bb n))
  | .vst2d t b i s e k n => some (mkM 35#6 t b i s e 2#3 (bb k) (bb n))
  | .vgath t b i s e k n => some (mkM 36#6 t b i s e 0#3 (bb k) (bb n))
  | .vgatha t i s e k n => some (mkM 36#6 t 0#5 i s e 1#3 (bb k) (bb n))
  | .vgathf t b i s e k n => some (mkM 36#6 t b (0#3 ++ i) s e 2#3 (bb k) (bb n))
  | .vscat t b i s e k n => some (mkM 37#6 t b i s e 0#3 (bb k) (bb n))
  | .vscata t i s e k n => some (mkM 37#6 t 0#5 i s e 1#3 (bb k) (bb n))
  | .vscatf t b i s e k n => some (mkM 37#6 t b (0#3 ++ i) s e 2#3 (bb k) (bb n))
  | .vaadd t b i s e k n => some (mkM 38#6 t b i s e 0#3 (bb k) (bb n))
  | .vamin t b i s e k n => some (mkM 38#6 t b i s e 1#3 (bb k) (bb n))
  | .vamax t b i s e k n => some (mkM 38#6 t b i s e 2#3 (bb k) (bb n))
  | .vaor t b i s e k n => some (mkM 38#6 t b i s e 3#3 (bb k) (bb n))
  | .vaswap t b i s e k n => some (mkM 38#6 t b i s e 4#3 (bb k) (bb n))
  | .vacas t b i s e k n => some (mkM 38#6 t b i s e 5#3 (bb k) (bb n))
  | .vcadd t b i s e k n => some (mkM 39#6 t b i s e 0#3 (bb k) (bb n))
  | .vcmin t b i s e k n => some (mkM 39#6 t b i s e 1#3 (bb k) (bb n))
  | .vcmax t b i s e k n => some (mkM 39#6 t b i s e 2#3 (bb k) (bb n))
  | .vcfadd t b i s e k n => some (mkM 39#6 t b i s e 3#3 (bb k) (bb n))
  | .vcfmax t b i s e k n => some (mkM 39#6 t b i s e 4#3 (bb k) (bb n))
  | .hld t b s e => some (mkM 40#6 (0#1 ++ t) b 0#5 s e 0#3 0#1 0#1)
  | .hst t b s e => some (mkM 40#6 (0#1 ++ t) b 0#5 s e 1#3 0#1 0#1)
  | .cld t b i s e k n => some (mkM 40#6 t (0#1 ++ b) i s e 2#3 (bb k) (bb n))
  | .cst t b i s e k n => some (mkM 40#6 t (0#1 ++ b) i s e 3#3 (bb k) (bb n))
  | .hget t b i => some (mkM 40#6 t (0#1 ++ b) i 0#3 0#3 4#3 0#1 0#1)
  | .hset t b i => some (mkM 40#6 (0#1 ++ t) b i 0#3 0#3 5#3 0#1 0#1)
  | .fbind t b i => some (mkM 41#6 (0#3 ++ t) b i 0#3 0#3 0#3 0#1 0#1)
  | .fpop t b s e k n => some (mkM 41#6 t (0#3 ++ b) 0#5 s e 1#3 (bb k) (bb n))
  | .ftrim t b => some (mkM 41#6 (0#3 ++ t) b 0#5 0#3 0#3 2#3 0#1 0#1)
  | .ffree t => some (mkM 41#6 (0#3 ++ t) 0#5 0#5 0#3 0#3 3#3 0#1 0#1)
  | .pld t b s e k n => some (mkM 42#6 t b 0#5 s e 0#3 (bb k) (bb n))
  | .pst t b s e k n => some (mkM 42#6 t b 0#5 s e 1#3 (bb k) (bb n))
  | .pldx t b i s e k n => some (mkM 42#6 t b i s e 2#3 (bb k) (bb n))
  | .pstx t b i s e k n => some (mkM 42#6 t b i s e 3#3 (bb k) (bb n))
  | .waitc b s => some (mkM 43#6 0#5 b 0#5 s 0#3 0#3 0#1 0#1)
  | .mfic t s => some (mkM 43#6 t 0#5 0#5 s 0#3 1#3 0#1 0#1)
  | .mfcc t s => some (mkM 43#6 t 0#5 0#5 s 0#3 2#3 0#1 0#1)
  | .mfe t e => some (mkM 43#6 t 0#5 0#5 0#3 e 3#3 0#1 0#1)
  | .mte b e => some (mkM 43#6 0#5 b 0#5 0#3 e 4#3 0#1 0#1)
  | .mtss b s => some (mkM 43#6 0#5 b 0#5 s 0#3 5#3 0#1 0#1)
  | .viewreg d a b => some (mkA 44#6 d (0#1 ++ a) b 0#5 0#6)
  | .viewdrop a => some (mkA 44#6 0#5 a 0#5 0#5 1#6)
  | .viewq d a b => some (mkA 44#6 d a b 0#5 2#6)
  | .viewsync a f => some (mkA 44#6 0#5 a 0#5 (0#4 ++ (bb f)) 3#6)
  | .relayout d a => some (mkA 45#6 (0#1 ++ d) a 0#5 0#5 0#6)
  | .sealOp a b => some (mkA 46#6 0#5 a b 0#5 0#6)
  | .unsealOp a b => some (mkA 46#6 0#5 a b 0#5 1#6)
  | .dormer d a b => some (mkA 46#6 d a b 0#5 2#6)
  | .dormrel a => some (mkA 46#6 0#5 a 0#5 0#5 3#6)
  | .tldp d a b p => some (mkT 48#6 (0#3 ++ d) a b 0#3 0#4 p)
  | .tldl d a b p => some (mkT 48#6 (0#3 ++ d) a b 0#3 1#4 p)
  | .mrow d a c p => some (mkT 49#6 (0#3 ++ d) a 0#5 c 0#4 p)
  | .mrowz d a c p => some (mkT 49#6 (0#3 ++ d) a 0#5 c 1#4 p)
  | .accrd d b c => some (mkT 50#6 d 0#5 b c 0#4 0#4)
  | .accwr a c => some (mkT 50#6 0#5 a 0#5 c 1#4 0#4)
  | .accclr c => some (mkT 50#6 0#5 0#5 0#5 c 2#4 0#4)
  | .tfree d => some (mkT 51#6 (0#3 ++ d) 0#5 0#5 0#3 0#4 0#4)
  | .gang => some (mkA 56#6 0#5 0#5 0#5 0#5 0#6)
  | .ungang => some (mkA 56#6 0#5 0#5 0#5 0#5 1#6)
  | .evcfg a t => some (mkZ 57#6 0#5 a 0#4 (0#7 ++ t))
  | .evpulse s => some (mkZ 57#6 0#5 0#5 1#4 (0#7 ++ s))
  | .evwait d c => some (mkZ 57#6 d 0#5 2#4 (0#8 ++ c))
  | .macroOp a => some (mkZ 57#6 0#5 a 3#4 0#12)
  | .ldw t b s e k n => some (mkM 58#6 t b 0#5 s e 0#3 (bb k) (bb n))
  | .ldc t b s e k n => some (mkM 58#6 t b 0#5 s e 1#3 (bb k) (bb n))
  | .stfl t b s e k n => some (mkM 58#6 t b 0#5 s e 2#3 (bb k) (bb n))
  | .lclr b i s e n => some (mkM 58#6 0#5 b i s e 3#3 0#1 (bb n))
  | .copy t b i s e n => some (mkM 58#6 t b i s e 4#3 0#1 (bb n))
  | .phase => some (mkZ 59#6 0#5 0#5 0#4 0#12)
  | .leadset l => some (mkZ 59#6 0#5 0#5 1#4 (0#8 ++ l))
  | .tsend t b i s e k n => some (mkM 60#6 t b i s e 0#3 (bb k) (bb n))
  | .coll t b i s e n => some (mkM 60#6 t b i s e 1#3 0#1 (bb n))
  | .collq t => some (mkM 60#6 t 0#5 0#5 0#3 0#3 2#3 0#1 0#1)
  | .run d a => some (mkZ 61#6 d a 0#4 0#12)
  | .grow d a => some (mkZ 61#6 d a 1#4 0#12)
  | .exit => some (mkZ 61#6 0#5 0#5 2#4 0#12)
  | .trap c => some (mkZ 62#6 0#5 0#5 0#4 (0#5 ++ c))
  | .eret => some (mkZ 62#6 0#5 0#5 1#4 0#12)
  | .mfs d r => some (mkZ 62#6 d 0#5 2#4 r)
  | .mts a r => some (mkZ 62#6 0#5 a 3#4 r)
  | .yield => some (mkZ 62#6 0#5 0#5 4#4 0#12)
  | .erd d s => some (mkZ 62#6 d 0#5 5#4 (0#8 ++ s))
  | .vectorDispatch _ => none
  | .granuleLanding _ => none
  | .vectorCommit _ => none
  | .scalarCommit _ => none
  | .streamExhaustionEnd _ _ => none
  | .elementComplete _ _ => none
  | .returnedValue _ _ => none
  | .checkRequest _ _ _ _ _ => none
  | .writeBufferSend _ _ => none
  | .lineWrite _ _ => none
  | .mergeAgeExpiry _ _ => none
  | .waitcSatisfied _ => none
  | .evwaitSatisfied _ => none
  | .larderGranuleAction _ => none
  | .fullEmptyTimeout _ => none
  | .phaseRelease _ => none
  | .phaseTimeout _ => none
  | .macroStart _ => none
  | .macroStep _ => none
  | .copyComplete _ _ => none
  | .matrixStep _ => none
  | .trapTaken _ _ _ => none
  | .asyncReport _ _ _ _ _ _ => none
  | .asyncReportTrap _ => none
  | .preemptionRequest _ => none
  | .preemption _ => none
  | .contextSave _ => none
  | .contextRestore _ _ => none
  | .pantryScrub _ => none
  | .coreWithdrawal _ => none
  | .tileStateQuery _ _ _ _ => none
  | .tileConversionStart _ _ => none
  | .tileConverted _ _ _ => none
  | .conversionAbandon _ _ _ => none
  | .relayoutSettled _ => none
  | .viewCapture _ _ => none
  | .viewCaptureEnd _ _ => none
  | .stallReadRelease _ => none
  | .unsealComplete _ => none
  | .dormerDead _ _ => none
  | .registrationRelease _ _ => none
  | .faultServiceTimeout _ _ => none
  | .fsreqRead _ => none
  | .fsansRetry _ _ => none
  | .fsansRefuse _ _ => none
  | .invalidation _ => none
  | .invalidationComplete _ => none
  | .migration _ => none
  | .migrationComplete _ => none
  | .prefetchFill _ _ => none
  | .rlctlResume _ _ => none
  | .evctlClear _ => none
  | .icinv _ _ _ => none
  | .distributorDecision _ => none
  | .groupStart _ => none
  | .preloadPromotion _ => none
  | .exitTakesEffect _ => none
  | .groupFault _ _ _ _ _ _ => none
  | .energyOverrun _ _ => none
  | .runEntryFree _ => none
  | .runComplete _ _ => none
  | .runPacket _ _ => none
  | .copyPacket _ _ => none
  | .resumePacket _ _ => none
  | .budgetPeriodStart _ => none
  | .budgetTick _ _ _ => none
  | .lightReclaim _ _ _ => none
  | .clpartWrite _ _ _ => none
  | .asidmapWrite _ _ _ => none
  | .pbudWrite _ _ _ => none
  | .hans _ _ => none
  | .bootStep _ _ _ => none
  | .bootctlGo _ _ => none
  | .bootctlSkip _ _ => none
  | .reset _ => none
  | .standbyPowerLoss _ => none
  | .srselWrite _ _ => none
  | .srdataRead _ => none
  | .attestation _ => none
  | .fitiaRequest _ _ _ _ _ _ => none
  | .routeCommit _ => none
  | .planeDrain _ _ => none
  | .planeEnable _ _ => none
  | .planeIdle _ _ => none
  | .portStateChange _ _ _ => none
  | .flitReceive _ _ _ => none
  | .replayRequest _ _ => none
  | .replay _ _ _ => none
  | .notice _ _ => none
  | .fabricTimeout _ => none
  | .contribution _ _ => none
  | .combinerTimeout _ _ => none
  | .colltoAnswerTimeout _ _ => none
  | .cbansExtend _ _ _ => none
  | .cbansPartial _ _ _ => none
  | .combinerSlotFree _ _ => none
  | .collComplete _ => none
  | .tokenRowFanout _ _ => none
  | .sendQueueEntry _ _ => none
  | .rdmaInbound _ _ _ _ _ _ _ => none
  | .registerWrite _ _ => none
  | .standbyPowerOn _ => none
  | .hrctlWrite _ _ => none
  | .quoteReady _ => none
  | .reservedPacket _ _ => none
  | .workEntryCompletion _ _ _ _ _ => none
  | .errorMonitorRequest _ _ => none

/-- The word of an instruction, 0 for a device event: what EVAL receives when a check of R53 fails. -/
def wordOf (i : Instr) : BitVec 32 := (encode i).getD 0

/-- The four bytes of a word as memory holds them (R45). -/
def wordBytes (w : BitVec 32) : List (BitVec 8) :=
  [w.extractLsb' 0 8, w.extractLsb' 8 8, w.extractLsb' 16 8, w.extractLsb' 24 8]

/-- The word that four bytes of memory hold (R45). -/
def bytesWord : List (BitVec 8) → BitVec 32
  | [a, b, c, d] => d ++ c ++ b ++ a
  | _ => 0

/-- Decoding four bytes as they lie in memory. -/
def decodeBytes (bs : List (BitVec 8)) : Except DecodeError Instr := decode (bytesWord bs)

/-- The decoder on a word numbered as the opcode table numbers it. -/
def decodeTableWord (nbits w : Nat) : Option Instr :=
  if nbits ≤ 32 then
    match decodeBytes (wordBytes (BitVec.ofNat 32 (w % 2 ^ nbits))) with
    | .ok i => some i
    | .error _ => none
  else none

end Sys2Proof
end

