-- ==== Sys2Proof/Config.lean ====
section
/-! DEFINITION. What an implementation fixes and the free values: constants without a body, so that nothing can be proved of a
value of theirs. Log 5 names each use. -/

namespace Sys2Proof.Config

/-- A value that the manual does not give, one for each count of State.free (log 5): CYCLE, energy, time stamps and
signatures. -/
opaque freeWord : Nat → Word

/-- How many requests a slice's queue holds beside one that arrives (13_die_memory.md R325; 15_die_programs.md R353; log 5): by die, slice
and request. -/
opaque queued : Nat → Nat → Word → BitVec 6

/-- The bytes of a package's firmware image, by package and offset (17_package_system.md R397). -/
opaque image : Nat → Nat → BitVec 8

/-- How many bytes a package's image store holds (R397). -/
opaque imageStore : Nat → Nat

/-- The digests of ECPUB and HSSPUB that are fused in a package (R397). -/
opaque fusedEc : Nat → BitVec 384
opaque fusedHss : Nat → BitVec 384

/-- The ECDSA signature of a package's identity key: by package, what is signed, and a count (R400; log 108). -/
opaque quoteSignature : Nat → List (BitVec 8) → Nat → BitVec 768

end Sys2Proof.Config
end

