-- ==== Sys2Proof/Machine/State.lean ====
section
/-! DEFINITION. The state of the pod as plain data: threads, memory, cores, clusters, dies and packages, with the value each
field holds after reset. The inventory lists every field with its rule. What has many like parts (slots, cores, clusters,
dies, packages) is kept sparsely: a part that no entry lists holds its reset value. -/

namespace Sys2Proof.Machine

/-- A sparse table: entries by key in rising order; a key without an entry holds the table's reset value. -/
abbrev SMap (α : Type) := List (Nat × α)

/-! ## Operations in flight -/

/-- Major 0x10-0x12: one integer operation per element (05_vector_ops.md R123-R125). -/
inductive IntOp where
  | add | sub | rsub | min | max | abs | absd | mov | mul | mulh | macc | div
  | and | or | xor | andn | sll | srl | sra | popc
  deriving DecidableEq, Repr

/-- Major 0x13 (R126). -/
inductive CmpOp where
  | eq | ne | lt | le | gt | ge
  deriving DecidableEq, Repr

/-- Majors 0x14 and 0x15 (R127). -/
inductive FltOp where
  | add | sub | mul | div | sqrt | min | max | abs | neg | macc | nmacc | madd
  deriving DecidableEq, Repr

/-- Major 0x17 without a scalar result (R130, R131). -/
inductive MaskOp where
  | push | inv | pop | and | or | xor | mov
  deriving DecidableEq, Repr

/-- Major 0x18 without VMVXS (R132). -/
inductive PermOp where
  | slideUp | slideDn | slide1Up | slide1Dn | perm | compress | bcast | insert
  deriving DecidableEq, Repr

/-- Major 0x19 (R134, R135). -/
inductive RedOp where
  | sum | min | max | minI | maxI | scan | scanX
  deriving DecidableEq, Repr

/-- Major 0x1A (R136). -/
inductive SegOp where
  | sum | min | max | scan
  deriving DecidableEq, Repr

/-- Major 0x1B (R137-R142). -/
inductive SortOp where
  | merge | topk | mrgk | step
  deriving DecidableEq, Repr

/-- Major 0x1C (R143-R145). -/
inductive ScaleOp where
  | bmax | scale | quant | deq | sfma
  deriving DecidableEq, Repr

/-- The address forms of vector memory (06_memory_isa.md R158-R175). -/
inductive AddrForm where
  | unit | strided | twoD | index | addrs | feed | handle | pantry | pantryX
  deriving DecidableEq, Repr

/-- The full/empty forms of major 0x3A (12_cluster.md R272-R273). -/
inductive FeOp where
  | ldw | ldc | stfl
  deriving DecidableEq, Repr

/-- Returning atomics, scalar and vector (R157, R163). -/
inductive AtomOp where
  | add | min | max | or | swap | cas
  deriving DecidableEq, Repr

/-- Commutative reduces (R163). -/
inductive CombOp where
  | add | min | max | fadd | fmax
  deriving DecidableEq, Repr

/-- What a queued vector or matrix instruction does. -/
inductive VKind where
  | int (op : IntOp) | dot4 | cmp (op : CmpOp) | flt (op : FltOp) | cvt (form : BitVec 3) (fmt : BitVec 4)
  | mask (op : MaskOp) | perm (op : PermOp) | red (op : RedOp) | seg (op : SegOp) | sort (op : SortOp)
  | scale (op : ScaleOp)
  | load (f : AddrForm) | store (f : AddrForm) | atom (op : AtomOp) | comb (op : CombOp) | fullEmpty (op : FeOp)
  | pop | tsend | copy
  | tileLoad (fromLarder : Bool) | mrow (clear : Bool) | accRead | accWrite | accClear | tileFree
  deriving DecidableEq, Repr

/-- A vector or matrix instruction as the scalar part pushes it: what it does, its fields, and what it captured at the push
(01_thread.md R27, 05_vector_ops.md R117, 07_streams.md R179). `id` numbers it among the operations of its thread (R185). -/
structure VOp where
  kind : VKind
  d : BitVec 5 := 0
  a : BitVec 5 := 0
  b : BitVec 5 := 0
  x : Bool := false
  s : Bool := false
  k : Bool := false
  n : Bool := false
  w2 : BitVec 2 := 0
  sn : BitVec 3 := 0
  sel : BitVec 5 := 0
  edge : BitVec 8 := 0
  xa : Word := 0
  xb : Word := 0
  xt : Word := 0
  hand : BitVec 256 := 0
  feedEnd : Word := 0
  vl : BitVec 15 := 0
  vtype : Word := 0
  cols : BitVec 15 := 0
  rm : BitVec 3 := 0
  addr : Word := 0
  word : Word := 0
  id : Nat := 0
  /-- v31 as it stood at the dispatch of a scaled instruction (03_numbers.md R86). -/
  scales : BitVec 16384 := 0
  deriving DecidableEq, Repr

/-- A feed binding (06_memory_isa.md R170). -/
structure Feed where
  base : Word := 0
  last : Word := 0
  pos : Word := 0
  bound : Bool := false
  deriving DecidableEq, Repr

/-- A tile slot: READY or EMPTY, the shape descriptor of its load and the held plane count (10_matrix.md R223). -/
structure Tile where
  ready : Bool := false
  desc : Word := 0
  ph : BitVec 6 := 0
  deriving DecidableEq, Repr

/-- The scalar state that the scalar part has run ahead with, kept so that a trap at an older vector instruction can discard
it (01_thread.md R28, R32, R170, R223). -/
structure Snap where
  x : Vector Word 32
  e : Vector (BitVec 8) 8
  h : Vector (BitVec 256) 16
  feeds : Vector Feed 4
  tiles : Vector Tile 4
  lc : Vector (BitVec 32) 3
  ls : Vector (BitVec 48) 3
  le : Vector (BitVec 48) 3
  ldepth : BitVec 2
  vl : BitVec 15
  vtype : Word
  cols : BitVec 15
  deriving DecidableEq, Repr

/-- An entry of the vector queue: the instruction, the next granule to land, whether it has been dispatched, the scalar
instructions completed after it and before the next entry, the streams that their accesses will count in, whether it is in the matrix
pipe, past its fault point and not complete (10_matrix.md R238), and the scalar state to fall back to (R27, R28, R31, R32; 07_streams.md
R186). -/
structure VEntry where
  op : VOp
  granule : Nat := 0
  dispatched : Bool := false
  younger : Nat := 0
  counts : List (BitVec 3) := []
  piped : Bool := false
  snap : Snap
  deriving DecidableEq, Repr

/-- An operation of a stream whose elements have not all completed (07_streams.md R185). -/
structure OutOp where
  id : Nat
  sn : BitVec 3
  left : Nat
  deriving DecidableEq, Repr

/-- What a pending element does when it performs (06_memory_isa.md R153, R154). -/
inductive PendKind where
  | load | store | atom (op : AtomOp) | comb (op : CombOp) | lclr
  deriving DecidableEq, Repr

/-- An element of a non-blocking operation that has issued and not completed: where it acts, what it carries and, for a
returned value, the register element it writes. -/
structure Pend where
  kind : PendKind
  op : Nat
  sn : BitVec 3
  asid : BitVec 12
  addr : Word
  key : Nat
  sew : Nat
  high : Bool := false
  signed : Bool := false
  dst : BitVec 5 := 0
  idx : Nat := 0
  data : Word := 0
  data2 : Word := 0
  pc : Word := 0
  /-- What a load of another die has read, all ones where its word is uncorrectable, on its way to the register (18_fabric.md R410). -/
  got : Option (Word × Bool) := none
  deriving DecidableEq, Repr

/-- A report of an asynchronous fault (11_traps.md R252, R254). -/
structure Report where
  cause : BitVec 7
  sn : BitVec 3
  val : Word
  pc : Word
  elem : BitVec 32
  deriving DecidableEq, Repr

/-- An instruction of the matrix pipe that is not complete: an MROW with its K steps, an ACCWR or an ACCCLR, with the elements that it has
read and whether its asynchronous faults are reported (10_matrix.md R237, R238, R241); a TLDP or TLDL past its fault point, with the
image that it writes (R233); a TFREE with the load whose region it releases (R243). -/
structure MRow where
  op : VOp
  step : Nat
  flags : Word := 0
  a : List Nat := []
  badPlane : Bool := false
  badAcc : Bool := false
  image : List Byte := []
  frees : Option Nat := none
  deriving DecidableEq, Repr

/-- The landing points at which a thread waits (11_traps.md R257), with what the wait has begun. -/
inductive Wait where
  /-- WAITC, MFIC or MTSS at its count (07_streams.md R188, R189). -/
  | stream (sn : BitVec 3)
  /-- An operation that would exceed 256 outstanding ones (R185). -/
  | exhausted (sn : BitVec 3)
  /-- A full/empty granule or a FILLWAIT step; the Larder address that a limit reports (12_cluster.md R274). -/
  | line (addr : Word)
  /-- EVWAIT (R286). -/
  | event (counter : BitVec 4)
  /-- PHASE, with the TPH it seeks (R294). -/
  | phase (tph : BitVec 32)
  /-- MACRO waiting for the sequencer or running on it (R288-R291). -/
  | sequencer
  /-- UNSEAL (13_die_memory.md R318). -/
  | unseal
  /-- VIEWDROP at the capture in progress (14_views_layouts.md R338). -/
  | drop (die : Nat) (view : Nat)
  /-- VIEWSYNC at captures: the blocks, each with the count of completed captures that it waits for (R339). -/
  | view (die : Nat) (view : Nat) (blocks : List (Nat × Nat))
  /-- A STALL read of a view block, with the count of completed captures that ends the wait (R335). -/
  | stall (die : Nat) (view : Nat) (block : Nat) (seen : Nat)
  /-- A handle element whose tile is being converted (06_memory_isa.md R169). -/
  | steer (die : Nat) (record : Nat) (tile : Nat)
  /-- The settle form of RELAYOUT (14 R347). -/
  | settle (die : Nat) (record : Nat)
  /-- RUN at a full table of live runs (16 R375). -/
  | runEntry
  /-- An element held for fault service (13 R306). -/
  | service (die : Nat) (page : Word)
  /-- An element whose page migrates (R309). -/
  | migrating (die : Nat)
  /-- An access to a line that a copy engine owns, by its place (07 R191). -/
  | recall (key : Nat)
  /-- A home that no route reaches: the address that a timeout reports, and the home's node (18 R414). -/
  | unreachable (addr : Word) (node : Nat)
  /-- A blocking COLL, TSEND or COPY at its completion (18 R421, R425; 12 R278). -/
  | operation (op : Nat)
  /-- An edge that names an operation of an engine or a home which is still outstanding (07 R179, R190). -/
  | edge (op : Nat)
  /-- Returned values that a trap or an older register write waits for (06 R154, R155). -/
  | returned
  /-- A serialising instruction, or a fault, behind a vector queue that is not empty (01 R28, R29). -/
  | queue
  /-- EXIT, a context save or UNGANG draining its streams (07 R198, 11 R258, 12 R267). -/
  | drain
  deriving DecidableEq, Repr

/-- A slot's state (09_core.md R204). -/
inductive SlotState where
  | free | loading | running | draining
  deriving DecidableEq, Repr

/-- Which group a thread runs: the entry and generation of its run, its stage and its linear index (16 R359, R375). -/
structure GroupRef where
  run : Nat
  gen : BitVec 16
  stage : Nat
  index : Nat
  deriving DecidableEq, Repr

/-- Why a slot drains (11_traps.md R258, 16 R372, R377): for EXIT, for a context save, or because its group ends, with the cause that the
Distributor then receives. -/
inductive DrainFor where
  | exit
  | save (ecause : BitVec 9) (val : Word)
  | ended (cause : Option (BitVec 7))
  deriving DecidableEq, Repr

/-- A control thread in its slot (01_thread.md R10; 09_core.md R216; 11_traps.md R262). `exh` is the stream at whose exhausted operation a
context that leaves has landed (07_streams.md R196), `overrun` that cause 0x6A waits for a landing point (16 R371), and `preload` that the
group is held in LOADING beside the groups that run (16 R369). `stalls` are the STALL reads of its granule that wait, each by die, view and
block, with the count of completed captures that ends the wait (14 R335). `badRegs` are its uncorrectable register words, and `softRegs`
those with a single-bit error, which a read corrects (09 R220). -/
structure Thread where
  slot : SlotState := .free
  sys : Bool := false
  asid : BitVec 12 := 0
  pbase : BitVec 4 := 0
  psize : BitVec 5 := 0
  gang : Bool := false
  gangHigh : Bool := false
  grp : Option GroupRef := none
  frame : Option Nat := none
  x : Vector Word 32 := Vector.replicate 32 0
  pc : Word := 0
  gsuf : BitVec 5 := 0
  gv : Bool := false
  v : Vector (BitVec 16384) 32 := Vector.replicate 32 0
  prog : Vector (BitVec 3) 32 := Vector.replicate 32 2
  m : Vector (BitVec 16384) 16 := Vector.replicate 16 0
  ms : Vector (BitVec 16384) 8 := Vector.replicate 8 0
  msdepth : BitVec 4 := 0
  ic : Vector Word 8 := Vector.replicate 8 0
  cc : Vector Word 8 := Vector.replicate 8 0
  ops : List OutOp := []
  nextOp : Nat := 0
  pend : List Pend := []
  e : Vector (BitVec 8) 8 := #v[0, 0, 0, 0, 0, 0, 0, 0xFF]
  h : Vector (BitVec 256) 16 := Vector.replicate 16 0
  feeds : Vector Feed 4 := Vector.replicate 4 {}
  feedsArch : Vector Feed 4 := Vector.replicate 4 {}
  tiles : Vector Tile 4 := Vector.replicate 4 {}
  tilesArch : Vector Tile 4 := Vector.replicate 4 {}
  acc : Vector (BitVec 8192) 8 := Vector.replicate 8 0
  rows : List MRow := []
  lc : Vector (BitVec 32) 3 := Vector.replicate 3 0
  ls : Vector (BitVec 48) 3 := Vector.replicate 3 0
  le : Vector (BitVec 48) 3 := Vector.replicate 3 0
  ldepth : BitVec 2 := 0
  vl : BitVec 15 := 256
  vtype : Word := 0x23
  cols : BitVec 15 := 0
  vq : List VEntry := []
  window : Nat := 0
  fcs : Word := 0
  srnd : BitVec 32 := 1
  priv : Bool := false
  inh : Bool := false
  ppend : Bool := false
  tvec : Word := 0
  troute0 : Word := 0
  troute1 : Word := 0
  framep : Word := 0
  reports : List Report := []
  alost : BitVec 16 := 0
  tph : Option (BitVec 32) := none
  energy : Word := 0
  charged : Word := 0
  toLoad : Nat := 0
  badRegs : List (Nat × Nat × Nat) := []
  softRegs : List (Nat × Nat × Nat) := []
  wait : Option Wait := none
  stalled : Bool := false
  drain : Option DrainFor := none
  exh : Option (BitVec 3) := none
  overrun : Bool := false
  preload : Bool := false
  leaving : List GroupRef := []
  stalls : List (Nat × Nat × Nat × Nat) := []
  deriving DecidableEq, Repr

/-! ## The core -/

/-- The value of one element of a combining buffer's entry, and the contributions in it, by the address and the element number of their
instructions (13_die_memory.md R312, R324). -/
structure CombVal where
  off : Nat
  val : Word
  parts : List (Word × Nat)
  deriving DecidableEq, Repr

/-- An entry of a combining buffer: one line of one slot, stream and operation (13_die_memory.md R312). -/
structure Comb where
  slot : Nat
  sn : BitVec 3
  asid : BitVec 12
  line : Word
  key : Nat
  op : CombOp
  sew : Nat
  signed : Bool
  vals : List CombVal
  deriving DecidableEq, Repr

/-- A store element in an outbound line write: its operation, its number, its instruction, where it lies in the line, its bytes, and the
half of the byte that a 4-bit element takes (18_fabric.md R412). -/
structure LineElem where
  op : Nat
  idx : Nat
  pc : Word
  off : Nat
  data : List Byte
  nib : Option Bool
  deriving DecidableEq, Repr

/-- A line write: an entry of the outbound write buffer, and the transfer it becomes, with its elements in coherence order
(18_fabric.md R412, R413). -/
structure LineWr where
  slot : Nat
  sn : BitVec 3
  asid : BitVec 12
  line : Word
  key : Nat
  elems : List LineElem
  deriving DecidableEq, Repr

/-- An entry of the tile-state cache (09_core.md R214). -/
structure TileState where
  die : Nat
  record : Nat
  tile : Nat
  converted : Bool
  deriving DecidableEq, Repr

/-- A line of a scalar data cache: its ASID, its address and its place, whether an error has struck it, and the slot whose load brought it
(09_core.md R208, R217). -/
structure DataLine where
  asid : BitVec 12
  addr : Word
  key : Nat
  err : Bool := false
  slot : Nat := 0
  deriving DecidableEq, Repr

/-- A line of an instruction cache: its ASID, its code address and what it holds, and whether an error has struck it (R209, R217). -/
structure CodeLine where
  asid : BitVec 12
  addr : Word
  bytes : List Byte
  err : Bool := false
  deriving DecidableEq, Repr

/-- A core's shared state (09_core.md R205, R208-R221). `issued` is the slot that issued last, and `cycle` the cycles since reset as CYCLE
last showed them (11_traps.md R262); `scrubAt` is the word of the Pantry that the scrubber comes to next (R219). -/
structure Core where
  gate : BitVec 8 := 1
  dead : Bool := false
  errcePant : BitVec 16 := 0
  errceRegf : BitVec 16 := 0
  errceCache : BitVec 16 := 0
  errue : BitVec 3 := 0
  erraddr : Word := 0
  scrubEn : Bool := true
  comb : List Comb := []
  wbuf : List LineWr := []
  tileStates : List TileState := []
  owners : Vector (BitVec 12) 16 := Vector.replicate 16 0
  dcache : List DataLine := []
  icache : List CodeLine := []
  issued : Nat := 3
  cycle : Word := 0
  scrubAt : Nat := 0
  lastStage : Option (Nat × Nat) := none
  deriving DecidableEq, Repr

/-! ## The cluster -/

/-- A live tile region, the load that fills it, and whether that has not passed its fault point (10_matrix.md R225, R233, R244). -/
structure Region where
  slot : Option Nat
  grp : Option GroupRef
  asid : BitVec 12
  tile : BitVec 2
  off : Nat
  size : Nat
  desc : Word
  ph : Nat
  loading : Bool := false
  op : Nat := 0
  deriving DecidableEq, Repr

/-- A granule that waits on full/empty bits, in the order in which the waits began (12_cluster.md R273). -/
structure LineWait where
  slot : Nat
  lines : List Nat
  full : Bool
  deriving DecidableEq, Repr

/-- An event counter (12_cluster.md R283, R285, R286), with the run of the thread whose EVCFG defined it: the end of that run releases
it. -/
structure Counter where
  owner : Option (BitVec 12) := none
  run : Option (Nat × BitVec 16) := none
  cnt : BitVec 32 := 0
  src : BitVec 5 := 0
  thr : BitVec 16 := 0
  waiters : List Nat := []
  deriving DecidableEq, Repr

/-- A term (R285). -/
structure Term where
  owner : Option (BitVec 12) := none
  run : Option (Nat × BitVec 16) := none
  mask : BitVec 16 := 0
  deriving DecidableEq, Repr

/-- A target (R285, R286, R440): its definition and the thread whose EVCFG made it. -/
structure Target where
  owner : Option (BitVec 12) := none
  run : Option (Nat × BitVec 16) := none
  action : BitVec 2 := 0
  psrc : BitVec 5 := 0
  tmask : BitVec 16 := 0
  maddr : Word := 0
  priv : Bool := false
  definer : Nat := 0
  grp : Option GroupRef := none
  deriving DecidableEq, Repr

/-- A page's translation as a chunk holds it: where the chunk's first byte lies, or the cause that the page's elements take
(13_die_memory.md R307). -/
inductive Held where
  | at_ (key : Nat)
  | fails (cause : BitVec 7)
  deriving DecidableEq, Repr

/-- A chunk of a copy: its bytes from lo to hi - 1, and the translations of its two pages (R307). -/
structure Chunk where
  lo : Nat
  hi : Nat
  src : Held
  dst : Held
  deriving DecidableEq, Repr

/-- A sequencer program that waits or runs (12_cluster.md R288-R292). -/
structure SeqRun where
  byTarget : Bool
  slot : Nat
  grp : Option GroupRef
  asid : BitVec 12
  priv : Bool
  desc : Word
  words : List Word := []
  step : Nat := 0
  copied : Nat := 0
  failed : List Nat := []
  chunks : List Chunk := []
  deriving DecidableEq, Repr

/-- A cluster's shared state (12_cluster.md R269-R295). `pulses` are the pulses of targets that count one cycle later, and `again` says
that the crossbar re-examines (R286). -/
structure Cluster where
  full : List Nat := []
  lineWaits : List LineWait := []
  regions : List Region := []
  counters : Vector Counter 16 := Vector.replicate 16 {}
  terms : Vector Term 16 := Vector.replicate 16 {}
  targets : Vector Target 32 := Vector.replicate 32 {}
  pulses : List (BitVec 12 × BitVec 5) := []
  again : Bool := false
  seqQueue : List SeqRun := []
  seqNow : Option SeqRun := none
  feto : BitVec 16 := 1000
  phto : BitVec 16 := 0
  lead : BitVec 4 := 15
  lerrce : BitVec 16 := 0
  lerraddr : BitVec 24 := 0
  lastAsid : Option (BitVec 12) := none
  deriving DecidableEq, Repr

/-! ## The die -/

/-- A missing page offered to fault service (13_die_memory.md R306, R325): its FSREQ image, whether FSREQ has been read, and
whether it is posted to the host. -/
structure FsReq where
  page : Word
  read : Bool := false
  host : Bool := false
  deriving DecidableEq, Repr

/-- An engine's element that is held: whose it is, the page it waits for or the node it cannot reach, and whether it is to fail
(R306; 18_fabric.md R414). -/
structure Hold where
  who : List Nat
  what : Nat
  failed : Bool := false
  deriving DecidableEq, Repr

/-- An invalidation, running or queued (R308). -/
structure Inval where
  addr : Word
  npage : BitVec 32
  all : Bool
  deriving DecidableEq, Repr

/-- A translation that a die has cached (13_die_memory.md R305): a page of an ASID by its channel and its number there, its frame, what its
leaf permits, and its size. -/
structure Xlat where
  asid : BitVec 12
  chan : BitVec 6
  page : Nat
  frame : Nat
  wr : Bool
  user : Bool
  size : Nat
  deriving DecidableEq, Repr

/-- A migration in progress (R309). -/
structure Mig where
  addr : Word
  dst : Nat
  big : Bool
  deriving DecidableEq, Repr

/-- A range registered for the group in a slot (R311). -/
structure RangeRec where
  slot : Nat
  base : Word
  len : Nat
  write : Bool
  deriving DecidableEq, Repr

/-- A sync-variable entry (R314). -/
structure SyncVar where
  line : Nat
  scope : BitVec 3
  core : Nat
  dies : List Nat
  deriving DecidableEq, Repr

/-- A seal (R317). -/
structure SealRec where
  asid : BitVec 12
  chan : BitVec 6
  off : Nat
  len : Nat
  unsealing : Bool := false
  deriving DecidableEq, Repr

/-- An entry of a reader die's Dormer table (R319, R320; 18_fabric.md R415). -/
structure Dormer where
  didx : Nat
  asid : BitVec 12
  base : Word
  len : Nat
  run : Option (Nat × BitVec 16) := none
  dead : Bool := false
  deriving DecidableEq, Repr

/-- A registration at the home of a sealed region (R320, R321). -/
structure Registration where
  asid : BitVec 12
  chan : BitVec 6
  off : Nat
  len : Nat
  reader : Nat
  didx : Nat
  deriving DecidableEq, Repr

/-- A block of a view (14_views_layouts.md R332-R334). `full` is VIEWSYNC.FULL's demand for the next capture and `startFull` that of the
one in progress; `written` says that its writes have performed, whether they poison the block, and its S. -/
structure ViewBlock where
  stale : Bool := true
  again : Bool := false
  tag : BitVec 16 := 0
  startTag : BitVec 16 := 0
  poisoned : Bool := false
  capturing : Bool := false
  written : Option (Bool × Word) := none
  host : Option (BitVec 16) := none
  full : Bool := false
  startFull : Bool := false
  wanted : Bool := false
  synced : Bool := false
  scale : Word := 0
  captures : Nat := 0
  since : Nat := 0
  deriving DecidableEq, Repr

/-- A live view (R327-R335). -/
structure View where
  asid : BitVec 12
  priv : Bool
  slot : Nat
  grp : Option GroupRef
  master : BitVec 256
  fmt : BitVec 4
  sew : BitVec 3
  layout : BitVec 8
  policy : BitVec 2
  vb : Word
  viewId : BitVec 16
  srv : Bool := false
  blocks : List ViewBlock
  clock : Nat := 0
  deriving DecidableEq, Repr

/-- A master's version, kept for all its views (R328). -/
structure Master where
  asid : BitVec 12
  base : Word
  mv : BitVec 16 := 0
  captured : Bool := false
  deriving DecidableEq, Repr

/-- The state of a storage tile under relayout (R343). -/
inductive TilePhase where
  | waiting | converting | converted
  deriving DecidableEq, Repr

/-- A relayout record (R342-R348). -/
structure Relay where
  asid : BitVec 12
  priv : Bool
  slot : Nat
  grp : Option GroupRef
  hand : BitVec 256
  oldLayout : BitVec 8
  altBase : Word
  tiles : List TilePhase
  order : List Nat
  state : BitVec 2 := 1
  aband : Nat := 0
  cause : BitVec 7 := 0
  fail : Word := 0
  host : List (Nat × BitVec 16) := []
  deriving DecidableEq, Repr

/-- A contribution to a collective on its way to its home, or accepted there (18_fabric.md R418, R421). -/
structure Contrib where
  slot : Nat
  op : Nat
  sn : BitVec 3
  grp : Option GroupRef
  asid : BitVec 12
  priv : Bool
  desc : Word
  w0 : Word
  w1 : Word
  dest : Word
  miss : Word
  status : Word
  pc : Word
  data : List Word
  dup : Bool := false
  deriving DecidableEq, Repr

/-- A combiner slot (R417, R422): the fields of its first contribution, what has arrived, and its state OPEN (1), COMPLETE
(2), PARTIAL (3), or awaiting the host's answer. -/
structure Combiner where
  asid : BitVec 12
  w0 : Word
  w1 : Word
  state : BitVec 2 := 1
  arrived : List Contrib := []
  dups : List Contrib := []
  disc : BitVec 16 := 0
  asked : Bool := false
  deriving DecidableEq, Repr

/-- A token row on its way to its inbox (R425, R427). -/
structure TokenRow where
  slot : Nat
  op : Nat
  sn : BitVec 3
  grp : Option GroupRef
  asid : BitVec 12
  priv : Bool
  inbox : Word
  ids : List (Nat × BitVec 16)
  row : List Byte
  pc : Word
  deriving DecidableEq, Repr

/-- A running COPY of a copy engine (12_cluster.md R278-R282): of a thread, of a COPY step of a macro, which has no operation of its own
(R290, R292), or of a package's launch queue (16 R380). -/
structure CopyJob where
  slot : Option Nat
  op : Nat
  sn : BitVec 3
  grp : Option GroupRef
  asid : BitVec 12
  priv : Bool
  edge : BitVec 8
  dst : Word
  src : Word
  size : Word
  pc : Word
  byTarget : Bool := false
  queue : Option (Nat × Nat) := none
  doneAt : Word := 0
  copied : Nat := 0
  failed : List Nat := []
  cause : Option (BitVec 7) := none
  chunks : List Chunk := []
  deriving DecidableEq, Repr

/-- What a notice completes once the flits of its transfer have been delivered (R410); read data by its element, a chunk of a copy by its
first element and how many it has. -/
inductive Transfer where
  | line (w : LineWr)
  | contribution (c : Contrib)
  | row (r : TokenRow)
  | data (slot op idx : Nat)
  | chunk (job : CopyJob) (first count : Nat)
  deriving DecidableEq, Repr

/-- A notice for its receiver (R410): the last bulk number of its transfer, and the number of its own control flit. -/
structure NoticeRec where
  src : Nat
  last : BitVec 32
  ctl : BitVec 32
  what : Transfer
  deriving DecidableEq, Repr

/-- The sequence state of one ordered pair of dies and class (R406-R408), and the plane of its last flit. -/
structure Link where
  plane : BitVec 2 := 3
  nextTx : BitVec 32 := 0
  sent : List Flit := []
  nextRx : BitVec 32 := 0
  early : List Flit := []
  window : List (BitVec 32) := []
  deriving DecidableEq, Repr

/-- A die's shared state (13, 14, 18). `hostLines` are the lines homed here that the companion processor caches (13 R299, R310; 17
R385); `unsent` are the contributions and rows of its slots whose homes it has not reached yet (18 R414). -/
structure Die where
  pfen : Bool := true
  pfdrop : BitVec 32 := 0
  atpeak0 : Word := 0
  atpeak1 : Word := 0
  asidtab : BitVec 37 := 0
  fsreqs : List FsReq := []
  holds : List Hold := []
  lost : List Hold := []
  invaddr : Word := 0
  invctl : BitVec 33 := 0
  xlats : List Xlat := []
  invals : List Inval := []
  migaddr : Word := 0
  migdst : BitVec 37 := 0
  migbig : Bool := false
  migerr : Bool := false
  mig : Option Mig := none
  celerrAttic : BitVec 32 := 0
  celerrCellar : BitVec 32 := 0
  celerraddr : Word := 0
  atacc : Vector Word 16 := Vector.replicate 16 0
  ranges : List RangeRec := []
  syncVars : List SyncVar := []
  seals : List SealRec := []
  dormers : List Dormer := []
  registry : List Registration := []
  hostLines : List Nat := []
  views : SMap View := []
  viewGens : SMap (BitVec 6) := []
  masters : List Master := []
  relays : SMap Relay := []
  rlsel : BitVec 8 := 0
  shadow : SMap Word := []
  active : SMap Word := []
  combiners : SMap Combiner := []
  cbRefused : BitVec 16 := 0
  cbPartial : BitVec 16 := 0
  links : SMap Link := []
  notices : List NoticeRec := []
  unsent : List Transfer := []
  lineWrites : List LineWr := []
  contribs : List Contrib := []
  rows : List TokenRow := []
  copies : List CopyJob := []
  deriving DecidableEq, Repr

/-! ## The package -/

/-- An issued entry of a stage's output queue (16 R364): a group and whether it is complete. -/
structure QEntry where
  index : Nat
  complete : Bool
  deriving DecidableEq, Repr

/-- A GROW of a stage (16 R363, R376): the first index that it adds, and for each later stage, by its number, the indices that had not
been issued when it took effect: those from a first one on, and those pending again below it. -/
structure Grow where
  first : Nat
  open_ : List (Nat × Nat × List Nat)
  deriving DecidableEq, Repr

/-- A stage of a live run (16 R357-R370): its descriptor words, group count, pending indices and predictions. -/
structure Stage where
  words : List Word
  gc : Nat
  next : Nat := 0
  back : List Nat := []
  queue : List QEntry := []
  pred : Word := 0
  energy : Word := 0
  grows : List Grow := []
  deriving DecidableEq, Repr

/-- A live run (16 R356, R372, R375, R378). -/
structure Run where
  gen : BitVec 16
  asid : BitVec 12
  desc : Word
  part : BitVec 5
  prio : BitVec 2
  fpol : BitVec 2
  retry : BitVec 4
  ovr : BitVec 4
  ev : Bool
  evsrc : BitVec 5
  done : Word
  launcher : Option (Nat × GroupRef) := none
  queue : Option Nat := none
  seq : Nat := 0
  stages : List Stage
  holding : Bool := false
  held : List (Nat × Nat) := []
  ending : Bool := false
  endCause : BitVec 7 := 0
  endIndex : Nat := 0
  status : BitVec 8 := 1
  frames : List (Nat × Nat × Nat) := []
  deriving DecidableEq, Repr

/-- A context off its core (11_traps.md R258; 16 R365, R371, R372). -/
structure SavedCtx where
  grp : GroupRef
  frame : Option Nat
  framep : Word
  asid : BitVec 12
  sys : Bool
  gang : Bool
  psize : BitVec 5
  cluster : Option Nat
  cause : BitVec 7
  held : Bool := false
  untilPeriod : Bool := false
  energy : Word := 0
  charged : Word := 0
  deriving DecidableEq, Repr

/-- An event of the Strongroom (17 R398). -/
structure Event where
  time : Word
  w1 : Word
  w2 : Word
  w3 : Word
  deriving DecidableEq, Repr

/-- A partition's budget in effect and its energy (17 R389-R392; 16 R379). -/
structure Partition where
  rmax : BitVec 3 := 4
  pre : Bool := true
  budget : BitVec 32 := 0
  nmax : BitVec 8 := 0x10
  inBudget : BitVec 32 := 0
  inNmax : BitVec 8 := 0x10
  carry : Nat := 0
  limit : Nat := 0
  charged : Nat := 0
  used : Word := 0
  n : BitVec 8 := 1
  tick : Nat := 0
  tvec : Word := 0
  troute0 : Word := 0
  troute1 : Word := 0
  fpbase : Word := 0
  fpn : BitVec 16 := 0
  stride : BitVec 16 := 0
  deriving DecidableEq, Repr

/-- A record posted to the host's request ring (17 R394). -/
structure Post where
  func : BitVec 3
  kind : BitVec 8
  w1 : Word
  w2 : Word := 0
  w3 : Word := 0
  deriving DecidableEq, Repr

/-- A posted request that the host has not answered. -/
structure Asked where
  func : BitVec 3
  tag : BitVec 16
  w1 : Word
  w2 : Word
  deriving DecidableEq, Repr

/-- A boot step's record (17 R396). -/
structure BootRec where
  result : BitVec 2 := 0
  tries : BitVec 4 := 0
  code : BitVec 8 := 0
  skipNext : Bool := false
  deriving DecidableEq, Repr

/-- A port (18 R430) and its light (17 R395); `reclaimed` says whether a reclaim met it in this period, and its BER then. -/
structure Port where
  crcerr : BitVec 16 := 0
  replay : BitVec 16 := 0
  uncor : BitVec 16 := 0
  state : BitVec 2 := 0
  low : Bool := false
  request : Bool := false
  deferred : Bool := false
  reclaimed : Option Bool := none
  deriving DecidableEq, Repr

/-- An entry of a send queue whose completion has not come (18 R428). -/
structure WorkEntry where
  opc : BitVec 8
  laddr : Word
  len : Word
  caddr : Word
  deriving DecidableEq, Repr

/-- A queue pair of the Ethernet engine: its ASID, its send queue and the entries of it that are not complete (18 R428), and what its peer's
messages have delivered to it, oldest first: the body of a SEND, or the immediate data of a WRITE_IMM (18 R429). -/
structure QPair where
  asid : BitVec 12 := 0
  base : Word := 0
  logns : BitVec 4 := 0
  en : Bool := false
  open_ : List WorkEntry := []
  delivered : List (List Byte) := []
  deriving DecidableEq, Repr

/-- An entry of the memory-region table (18 R429). -/
structure MemReg where
  tag : BitVec 20
  asid : BitVec 12
  base : Word
  len : Word
  rd : Bool
  wr : Bool
  deriving DecidableEq, Repr

/-- A launch queue (16 R379; 17 R390), and the packets of it that are not complete. -/
structure LQueue where
  base : Word := 0
  ctl : Word := 0
  qen : Word := 0
  openRuns : List (Nat × BitVec 16) := []
  openCopies : Nat := 0
  deriving DecidableEq, Repr

/-- An access of the Distributor, of the companion processor or of the Ethernet engine that is held (13_die_memory.md R306, R309; 18_fabric.md
R414; 17 R385): on whose behalf, at which privilege, the companion's requester whose it is, its address, its size, the bytes that it
writes, the queue pair whose it is, and what it delivers instead, a message that ends. -/
structure HeldAccess where
  asid : BitVec 12
  sys : Bool
  req : Option Nat
  addr : Word
  size : Nat
  bytes : Option (List Byte)
  qp : Option Nat := none
  msg : Option (List Byte) := none
  deriving DecidableEq, Repr

/-- A package: its base die, Distributor, power manager, boot controller, security block and fabric (16, 17, 18). -/
structure Package where
  runs : SMap Run := []
  runGens : SMap (BitVec 16) := []
  saved : List SavedCtx := []
  ages : List (Nat × Nat × Nat × Nat) := []
  lastRun : Vector Nat 4 := Vector.replicate 4 0
  queues : SMap LQueue := []
  parts : SMap Partition := []
  clpart : SMap (BitVec 6) := []
  asidmap : SMap (BitVec 6) := []
  pkgbud : BitVec 32 := 3200000
  period : Word := 0
  energy : Word := 0
  split : BitVec 8 := 0
  light : BitVec 32 := 0
  syserr : BitVec 2 := 0
  rescue : Bool := false
  hrbase : Word := 0
  logn : BitVec 4 := 0
  hrwr : BitVec 16 := 0
  hrrd : BitVec 16 := 0
  posts : List Post := []
  asked : List Asked := []
  companion : List (Nat × Word) := []
  bootctl : BitVec 5 := 0
  bootrec : Vector BootRec 32 := Vector.replicate 32 {}
  bootStep : Nat := 0
  bootWait : Bool := false
  fitiar : Vector (BitVec 14) 16 := #v[0x3000, 0, 0, 0, 0, 0, 0, 0, 0, 0, 0, 0, 0, 0, 0, 0]
  rings : SMap (List Event) := []
  bbox : SMap (List Event) := []
  offered : List (SMap (List Event)) := []
  srsel : BitVec 16 := 0
  srread : BitVec 2 := 0
  srpos : Nat := 0
  standby : Bool := true
  nonce : BitVec 384 := 0
  atGo : Bool := false
  atDone : Bool := false
  quote : List Word := []
  fabto : BitVec 24 := 50
  rtver : BitVec 16 := 0
  rterr : Bool := false
  planeEn : BitVec 4 := 0xF
  planeDrain : BitVec 4 := 0
  planeIdle : BitVec 4 := 0
  rtself : BitVec 8 := 0
  phys : BitVec 32 := 0
  misroute : BitVec 32 := 0
  dupdisc : BitVec 32 := 0
  rtnode : SMap (BitVec 33) := []
  ports : SMap Port := []
  cleared : List (Nat × Nat) := []
  qpairs : SMap QPair := []
  memregs : SMap MemReg := []
  writes : List HeldAccess := []
  withdrawn : List Nat := []
  modulesOff : List Nat := []
  deriving DecidableEq, Repr

/-- A page of code space that the loader has mapped executable, and the bytes behind it (02_encoding.md R69; 04_scalar_control.md
R101; 11_traps.md R247): for an ASID of a package, and for the runs of one run descriptor or for all. -/
structure CodePage where
  node : Nat
  asid : BitVec 12
  image : Option Word
  page : Nat
  key : Nat
  sysOnly : Bool
  deriving DecidableEq, Repr

/-- The pod. -/
structure State where
  /-- The slot whose thread `th` is. -/
  cur : Nat
  th : Thread
  /-- The threads of the other slots. -/
  parked : SMap Thread
  mem : List Host.Cell
  /-- The 8-byte words that are marked uncorrectable. -/
  poison : List Nat
  /-- The 8-byte words with a single error, which a read corrects, and whether the error lies in the Cellar (13_die_memory.md R324;
  09_core.md R218; 12_cluster.md R271): the model's own input. -/
  soft : List (Nat × Bool)
  /-- The words of frames that a save has written in the place of uncorrectable register words (11_traps.md R252). -/
  framePoison : List Nat
  code : List CodePage
  cores : SMap Core
  clusters : SMap Cluster
  dies : SMap Die
  pkgs : SMap Package
  /-- The events that happen (the model's own input): each after a number of steps that the model chooses itself. -/
  agenda : List (Nat × Instr)
  /-- Whether the devices act next, before the next instruction (the model's own). -/
  turn : Bool
  /-- How often the devices have had their turn: where they begin to look for work (the model's own). -/
  round : Nat
  /-- The slots whose scalar part runs ahead of the vector unit (the model's own input). -/
  ahead : List Nat
  /-- The cores whose caches keep lines (09_core.md R208, R209; the model's own input). -/
  caching : List Nat
  /-- The dies that cache translations (13_die_memory.md R305; the model's own input). -/
  translating : List Nat
  /-- The counter that the free values are applied to (the model's own). -/
  free : Nat
  deriving DecidableEq, Repr

/-- Why a step stops with a fault. -/
inductive Fault where
  /-- An access reached a die physical address that the stacks do not have: a frame whose offset within its pseudo-channel is
  0x6000_0000 or more (13_die_memory.md R302). Raised by the accesses to pod memory. Safe: the machine stops. -/
  | noSuchDpa
  deriving DecidableEq, Repr

/-- Why a step refuses an instruction. -/
inductive Refusal where
  /-- The instruction has no meaning in the model yet. Raised by the arms of exec. Safe: nothing can be proved of it. -/
  | notModelled (mnemonic : String)
  deriving DecidableEq, Repr

/-- The pod right after reset: every field at its reset value, memory with nothing listed, one package present (log 13), and
nothing on the agenda. -/
def State.reset : State where
  cur := 0
  th := {}
  parked := []
  mem := []
  poison := []
  soft := []
  framePoison := []
  code := []
  cores := []
  clusters := []
  dies := []
  pkgs := [(0, {})]
  agenda := []
  turn := false
  round := 0
  ahead := []
  caching := []
  translating := []
  free := 0

end Sys2Proof.Machine
end

