-- ==== Sys2Proof/Machine/Base.lean ====
section
/-! DEFINITION. Reading and writing the parts of the state: sparse tables, vectors of registers, the threads, cores, clusters,
dies and packages by key. Keys: die = 8 node + die, cluster = 16 die + cluster, core = 4 cluster + core, slot = 4 core + slot
(09_core.md R216). -/

namespace Sys2Proof.Machine

/-- The entry of a key, or the table's reset value. -/
def SMap.look {α : Type} (m : SMap α) (dflt : α) (k : Nat) : α :=
  match m with
  | [] => dflt
  | (j, a) :: r => if j = k then a else SMap.look r dflt k

/-- The table with a key's entry replaced, or put in at its place. -/
def SMap.put {α : Type} (m : SMap α) (k : Nat) (a : α) : SMap α :=
  match m with
  | [] => [(k, a)]
  | (j, b) :: r => if j < k then (j, b) :: SMap.put r k a else if j = k then (k, a) :: r else (k, a) :: (j, b) :: r

/-- The table without a key's entry. -/
def SMap.drop {α : Type} (m : SMap α) (k : Nat) : SMap α := m.filter (fun p => p.1 != k)

/-- The entry of a key, if it has one. -/
def SMap.entry {α : Type} (m : SMap α) (k : Nat) : Option α := (m.find? (fun p => p.1 == k)).map (·.2)

/-- Element i of a register file (the first one beyond its end, which no encoding names). -/
def vread {α : Type} {n : Nat} (v : Vector α (n + 1)) (i : Nat) : α := if h : i < n + 1 then v[i] else v[0]

/-- Register file with element i replaced. -/
def vwrite {α : Type} {n : Nat} (v : Vector α n) (i : Nat) (a : α) : Vector α n := v.setIfInBounds i a

/-- Counts that stop at their highest value (00_scope.md R6). -/
def satAdd {n : Nat} (c : BitVec n) (k : Nat) : BitVec n := BitVec.ofNat n (min (c.toNat + k) (2 ^ n - 1))

/-! ## Places of the package -/

/-- The core of a slot. -/
abbrev slotCore (k : Nat) : Nat := k / 4
/-- The cluster of a slot. -/
abbrev slotCluster (k : Nat) : Nat := k / 16
/-- The die of a slot. -/
abbrev slotDie (k : Nat) : Nat := k / 256
/-- The package of a slot. -/
abbrev slotNode (k : Nat) : Nat := k / 2048

/-- A core's shared state. -/
def State.core (s : State) (k : Nat) : Core := s.cores.look {} k
/-- Replace a core's shared state. -/
def State.setCore (s : State) (k : Nat) (c : Core) : State := { s with cores := s.cores.put k c }
/-- A cluster's shared state. -/
def State.cluster (s : State) (k : Nat) : Cluster := s.clusters.look {} k
/-- Replace a cluster's shared state. -/
def State.setCluster (s : State) (k : Nat) (c : Cluster) : State := { s with clusters := s.clusters.put k c }
/-- A die's shared state. -/
def State.die (s : State) (k : Nat) : Die := s.dies.look {} k
/-- Replace a die's shared state. -/
def State.setDie (s : State) (k : Nat) (d : Die) : State := { s with dies := s.dies.put k d }
/-- A package. -/
def State.pkg (s : State) (n : Nat) : Package := s.pkgs.look {} n
/-- Replace a package. -/
def State.setPkg (s : State) (n : Nat) (p : Package) : State := { s with pkgs := s.pkgs.put n p }

/-- What an access from outside to a register of a package leaves: nothing where the package is in RESCUE, in which only the Fitia link, the
Strongroom and BOOTREC answer (17_package_system.md R396). -/
def outside (s : State) (node : Nat) (t : State) : State := if (s.pkg node).rescue then s else t

/-- The thread in a slot. -/
def State.thread (s : State) (k : Nat) : Thread := if k = s.cur then s.th else s.parked.look {} k
/-- Replace the thread in a slot. -/
def State.setThread (s : State) (k : Nat) (t : Thread) : State :=
  if k = s.cur then { s with th := t } else { s with parked := s.parked.put k t }
/-- Make a slot's thread the one that State.th is. -/
def State.focus (s : State) (k : Nat) : State :=
  if k = s.cur then s else { s with cur := k, th := s.parked.look {} k, parked := (s.parked.put s.cur s.th).drop k }
/-- The slots that the state lists a thread for, in rising order. -/
def State.slots (s : State) : List Nat := ((s.parked.put s.cur s.th).map (·.1))

/-- A free value, and the state in which the next one is another (log 5). -/
def State.fresh (s : State) : Word × State := (Config.freeWord s.free, { s with free := s.free + 1 })

/-- The numbers below n that a list does not hold. -/
def freeBelow (used : List Nat) (n : Nat) : List Nat := (List.range n).filter (fun i => !used.contains i)

/-- One of several free numbers, where the manual does not say which is taken (log 5). -/
def State.pick (s : State) (l : List Nat) : Option Nat × State :=
  match l with
  | [] => (none, s)
  | c :: _ => (some (l.getD ((Config.freeWord s.free).toNat % l.length) c), { s with free := s.free + 1 })

/-- The core, cluster, die and package of the thread that runs. -/
abbrev State.coreKey (s : State) : Nat := slotCore s.cur
/-- The cluster of the thread that runs. -/
abbrev State.clusterKey (s : State) : Nat := slotCluster s.cur
/-- The die of the thread that runs. -/
abbrev State.dieKey (s : State) : Nat := slotDie s.cur
/-- The package of the thread that runs. -/
abbrev State.nodeKey (s : State) : Nat := slotNode s.cur

/-- CID of a core (09_core.md R216): core, cluster and die fields. -/
def cidOf (core : Nat) : Word := BitVec.ofNat 64 (core % 4 + (core / 4 % 16) * 4 + (core / 64 % 8) * 64)

/-- The Strongroom ring of an event gains it, and loses its oldest when it holds 4,096 (17_package_system.md R398); the selected index of
the ring still names its event (R399). -/
def State.record (s : State) (node ring : Nat) (w1 w2 w3 : Word) : State :=
  let (t, s) := s.fresh
  let p := s.pkg node
  let r : List Event := p.rings.look [] ring
  let out := r.length + 1 - 4096
  if !p.standby then s else s.setPkg node { p with
    rings := p.rings.put ring ((r ++ [Event.mk t w1 w2 w3]).drop out)
    srpos := if (p.srsel.extractLsb' 12 4).toNat = ring then p.srpos - out else p.srpos }

/-- Word 1 of a Strongroom event (R398): cause, source kind, ASID, die, core, slot. -/
def eventWord (cause kind asid die core slot : Nat) : Word :=
  BitVec.ofNat 64 (cause + kind * 2 ^ 8 + asid * 2 ^ 16 + die * 2 ^ 28 + core * 2 ^ 32 + slot * 2 ^ 38)

end Sys2Proof.Machine
end

