-- ==== Sys2Proof/Machine/Mem.lean ====
section
/-! DEFINITION. Memory: bytes by place, little-endian reads and writes, the fields of a pod address, and translation at the
home die (06_memory_isa.md R149-R151, 13_die_memory.md R302-R305).

A place is a number: pod memory lies at die * 2^37 + DPA, the Larders from 2^60, the Pantries from 2^61. -/

namespace Sys2Proof.Machine

/-! ## Bytes -/

/-- The byte at a place; a place that nothing lists reads 0 (log 4). -/
def memGet (m : List Host.Cell) (a : Nat) : Byte :=
  match m with
  | [] => 0
  | (b, v) :: r => if b = a then v else memGet r a

/-- The cells that a run of bytes lists: those that are not 0. -/
def cellsOf (a : Nat) (bs : List Byte) : List Host.Cell :=
  match bs with
  | [] => []
  | b :: r => if b = 0 then cellsOf (a + 1) r else (a, b) :: cellsOf (a + 1) r

/-- Memory with the bytes from `a` on replaced; the list stays in rising order with no 0 listed. -/
def memPut (m : List Host.Cell) (a : Nat) (bs : List Byte) : List Host.Cell :=
  m.filter (fun c => c.1 < a) ++ cellsOf a bs ++ m.filter (fun c => a + bs.length ≤ c.1)

/-- The canonical form of memory: places strictly rising, and no byte that an unlisted place reads as. -/
def memSorted : List Host.Cell → Bool
  | [] => true
  | (a, v) :: r => v != 0 && r.all (fun c => a < c.1) && memSorted r

/-- The canonical form as a proposition. -/
abbrev Memory.wf (m : List Host.Cell) : Prop := memSorted m = true

/-- n bytes from a place. -/
def memBytes (m : List Host.Cell) (a n : Nat) : List Byte := (List.range n).map (fun i => memGet m (a + i))

/-- The number that bytes hold, little-endian (00_scope.md R4). -/
def leNat : List Byte → Nat
  | [] => 0
  | b :: r => b.toNat + 256 * leNat r

/-- The n bytes of a number, little-endian (R4). -/
def leBytes (n v : Nat) : List Byte :=
  match n with
  | 0 => []
  | n + 1 => BitVec.ofNat 8 v :: leBytes n (v / 256)

/-- The 64-bit word at a place. -/
def memWord (m : List Host.Cell) (a : Nat) : Word := BitVec.ofNat 64 (leNat (memBytes m a 8))

/-- The bytes of words in memory order. -/
def wordsBytes (ws : List Word) : List Byte := ws.flatMap (fun w => leBytes 8 w.toNat)

/-- Replace bytes of the state's memory. -/
def State.putBytes (s : State) (a : Nat) (bs : List Byte) : State := { s with mem := memPut s.mem a bs }

/-! ## Uncorrectable words -/

/-- Whether an 8-byte word that an access of n bytes touches is marked uncorrectable (13_die_memory.md R324). -/
def State.poisoned (s : State) (a n : Nat) : Bool := s.poison.any (fun w => w * 8 < a + n && a < w * 8 + 8)

/-- The lowest marked word that n bytes touch. -/
def State.poisonAt (s : State) (a n : Nat) : Option Nat := s.poison.find? (fun w => w * 8 < a + n && a < w * 8 + 8)

/-- A write of all 8 bytes of a word clears its mark (R218, R271, R324). -/
def State.clearPoison (s : State) (a n : Nat) : State :=
  { s with poison := s.poison.filter (fun w => !(a ≤ w * 8 && w * 8 + 8 ≤ a + n))
           soft := s.soft.filter (fun w => !(a ≤ w.1 * 8 && w.1 * 8 + 8 ≤ a + n))
           framePoison := s.framePoison.filter (fun w => !(w * 8 < a + n && a < w * 8 + 8)) }

/-- Whether a write of n bytes covers only part of a marked word. -/
def State.partPoison (s : State) (a n : Nat) : Bool :=
  s.poison.any (fun w => (w * 8 < a + n && a < w * 8 + 8) && !(a ≤ w * 8 && w * 8 + 8 ≤ a + n))

/-- Mark a word. -/
def State.mark (s : State) (w : Nat) : State :=
  if s.poison.contains w then s else { s with poison := s.poison.filter (· < w) ++ w :: s.poison.filter (w < ·) }

/-! ## Addresses (R149, R302) -/

/-- The tag, [63:60]. -/
abbrev tagOf (a : Word) : Nat := (bits a 60 4).toNat
/-- The node field, [59:52]. -/
abbrev nodeOf (a : Word) : Nat := (bits a 52 8).toNat
/-- The die field, [51:49]. -/
abbrev dieOf (a : Word) : Nat := (bits a 49 3).toNat
/-- The pseudo-channel, [48:43]. -/
abbrev chanOf (a : Word) : BitVec 6 := bits a 43 6
/-- The offset, [42:0]. -/
abbrev offOf (a : Word) : Nat := (bits a 0 43).toNat
/-- The package whose physical identity RTNODE n of a package holds (18_fabric.md R401). -/
def State.mapped (s : State) (node n : Nat) : Option Nat :=
  let e := (s.pkg node).rtnode.look 0 n
  if e.getLsbD 32 then (s.pkgs.find? (fun p => p.2.phys == bits e 0 32)).map (·.1) else none
/-- The package that a logical node names for a package: RTSELF.NODE names itself, another one RTNODE (R401); one that RTNODE does not
map is never reached. -/
def State.packageOf (s : State) (node n : Nat) : Nat :=
  if n = (s.pkg node).rtself.toNat then node else (s.mapped node n).getD n
/-- The die that is the home of a tag 0x0 address, as a package sees it (log 12). -/
def State.homeOf (s : State) (node : Nat) (a : Word) : Nat := s.packageOf node (nodeOf a) * 8 + dieOf a

/-- The place of a DPA of a die. -/
abbrev podKey (die dpa : Nat) : Nat := die * 2 ^ 37 + dpa
/-- The place of a Larder offset of a cluster. -/
abbrev larderKey (cluster off : Nat) : Nat := 2 ^ 60 + cluster * 2 ^ 23 + off
/-- The place of a Pantry offset of a lane of a core. -/
abbrev pantryKey (core lane off : Nat) : Nat := 2 ^ 61 + core * 2 ^ 20 + lane * 2 ^ 14 + off
/-- The die that a place of pod memory belongs to. -/
abbrev keyDie (key : Nat) : Nat := key / 2 ^ 37
/-- The line of a place. -/
abbrev keyLine (key : Nat) : Nat := key / 128

/-- The Attic slice of a DPA (13_die_memory.md R297). -/
def sliceOf (dpa : Nat) : Nat :=
  let l := dpa % 2 ^ 31 / 128
  (l % 16) ^^^ (l / 16 % 16) ^^^ (l / 256 % 16)

/-! ## Translation (R303-R305) -/

/-- How a walk at a home ends. -/
inductive Walk where
  /-- The DPA, whether the leaf allows writes and user accesses, and the frame's size. -/
  | leaf (dpa : Nat) (wr user : Bool) (size : Nat)
  /-- An entry with V = 0 in an ASID whose FSVC bit is given (R306). -/
  | absent (fsvc : Bool)
  /-- Another failure of R305: cause 0x21. -/
  | bad
  /-- An entry that is an uncorrectable word, with its place: cause 0x2C (R324). -/
  | poisoned (key : Nat)
  deriving DecidableEq, Repr

/-- A reserved bit of a table entry of levels A to D (R304). -/
def entryReserved (w : Word) : Bool := bits w 4 4 != 0 || bits w 37 27 != 0

/-- One level of the walk: the entry at a DPA of the die, if it may be used. -/
def walkEntry (s : State) (die dpa : Nat) : Except Walk Word :=
  if s.poisoned (podKey die dpa) 8 then .error (.poisoned (podKey die dpa)) else .ok (memWord s.mem (podKey die dpa))

/-- A leaf of size 2^bits: its frame is aligned and lies in the address's pseudo-channel (R304, R305). -/
def walkLeaf (w a : Word) (nbits : Nat) : Walk :=
  let frame := (bits w 8 29).toNat * 256
  if frame % 2 ^ nbits != 0 || frame / 2 ^ 31 != (chanOf a).toNat then .bad
  else .leaf (frame + offOf a % 2 ^ nbits) (bit w 2) (bit w 3) (2 ^ nbits)

/-- The table that a non-leaf entry points to. -/
abbrev tableOf (w : Word) : Nat := (bits w 8 29).toNat * 256

/-- The walk of a tag 0x0 address through the tables of its home for an ASID (R303-R305). -/
def walkTables (s : State) (die : Nat) (asid : BitVec 12) (a : Word) : Walk :=
  let go : Except Walk Walk := do
    let w0 ← walkEntry s die ((s.die die).asidtab.toNat + asid.toNat * 16)
    let w1 ← walkEntry s die ((s.die die).asidtab.toNat + asid.toNat * 16 + 8)
    if bits w0 2 7 != 0 || bits w0 37 27 != 0 || w1 != 0 then return .bad
    let fsvc := bit w0 1
    if !bit w0 0 then return .absent fsvc
    let wa ← walkEntry s die ((bits w0 9 28).toNat * 512 + (chanOf a).toNat * 8)
    if entryReserved wa then return .bad
    if !bit wa 0 then return .absent fsvc
    if bit wa 1 || tableOf wa % 2 ^ 15 != 0 then return .bad
    let wb ← walkEntry s die (tableOf wa + (offOf a / 2 ^ 31) * 8)
    if entryReserved wb then return .bad
    if !bit wb 0 then return .absent fsvc
    if bit wb 1 || tableOf wb % 2 ^ 13 != 0 then return .bad
    let wc ← walkEntry s die (tableOf wb + (offOf a / 2 ^ 21 % 1024) * 8)
    if entryReserved wc then return .bad
    if !bit wc 0 then return .absent fsvc
    if bit wc 1 then return walkLeaf wc a 21
    if tableOf wc % 2 ^ 8 != 0 then return .bad
    let wd ← walkEntry s die (tableOf wc + (offOf a / 2 ^ 16 % 32) * 8)
    if entryReserved wd then return .bad
    if !bit wd 0 then return .absent fsvc
    if !bit wd 1 then return .bad
    return walkLeaf wd a 16
  match go with
  | .ok r => r
  | .error r => r

/-- Whether a cached translation is of an address. -/
def Xlat.covers (x : Xlat) (asid : BitVec 12) (a : Word) : Bool := x.asid == asid && x.chan == chanOf a && offOf a / x.size == x.page

/-- How the translation of a tag 0x0 address ends at its home: as a cached one says, or by a walk. A change to an entry reaches accesses that
begin after the invalidation that drops the cached one (R305). -/
def walk (s : State) (die : Nat) (asid : BitVec 12) (a : Word) : Walk :=
  match (s.die die).xlats.find? (fun x => x.covers asid a) with
  | some x => .leaf (x.frame + offOf a % x.size) x.wr x.user x.size
  | none => walkTables s die asid a

/-- The place of the leaf entry of a page, which a migration rewrites, and whether the page is of 2 MiB (R309). -/
def leafEntry (s : State) (die : Nat) (asid : BitVec 12) (a : Word) : Option (Nat × Bool) :=
  match walkTables s die asid a with
  | .leaf _ _ _ size =>
    let w0 := memWord s.mem (podKey die ((s.die die).asidtab.toNat + asid.toNat * 16))
    let wa := memWord s.mem (podKey die ((bits w0 9 28).toNat * 512 + (chanOf a).toNat * 8))
    let wb := memWord s.mem (podKey die (tableOf wa + (offOf a / 2 ^ 31) * 8))
    let c := tableOf wb + (offOf a / 2 ^ 21 % 1024) * 8
    if size = 2 ^ 21 then some (podKey die c, true)
    else some (podKey die (tableOf (memWord s.mem (podKey die c)) + (offOf a / 2 ^ 16 % 32) * 8), false)
  | _ => none

/-! ## Why an operation does not go on -/

/-- A stop inside an instruction: a trap with its cause and EVAL, one of cause 0x51 after a SERVE read that has set SRV of its view
(14_views_layouts.md R335), one of cause 0x2A at an uncorrectable word of a Pantry (09_core.md R218), a wait at a landing point, or a
fault of the model. -/
inductive Stop where
  | trap (cause : BitVec 7) (val : Word)
  | served (die view : Nat) (val : Word)
  | pantry (key : Nat) (val : Word)
  | wait (w : Wait)
  | fault (f : Fault)
  deriving DecidableEq, Repr

/-- On whose behalf an access is made (R440): its ASID, its privilege, the core and slot it comes from, and the engine that makes it, by
a number for its kind and what names it; a thread's own access has none. -/
structure Agent where
  asid : BitVec 12
  sys : Bool
  slot : Nat
  who : List Nat
  deriving DecidableEq, Repr

/-- Where an access ends up. -/
inductive Place where
  | mem (key : Nat)
  | reg (a : Word)
  deriving DecidableEq, Repr

/-- The FSREQ image of a missing page (R325): PAGE, CHAN, ASID, WRITE, USER, VALID. -/
def fsImage (asid : BitVec 12) (a : Word) (write user : Bool) : Word :=
  (bits a 16 33).zeroExtend 64 <<< 16 ||| (asid.zeroExtend 64 <<< 49) ||| (flag write <<< 61) ||| (flag user <<< 62)
    ||| (1 <<< 63)

/-- The bits of an FSREQ image that name the page: PAGE, CHAN and ASID (R306, R325). -/
abbrev pageName (image : Word) : BitVec 45 := bits image 16 45

/-- Whether a migration holds accesses to an address (R309). -/
def State.migrating (s : State) (die : Nat) (asid : BitVec 12) (a : Word) : Bool :=
  match (s.die die).mig with
  | some g =>
    bits g.addr 49 12 == asid && (chanOf g.addr == chanOf a)
      && (if g.big then offOf a / 2 ^ 21 == offOf g.addr / 2 ^ 21 else offOf a / 2 ^ 16 == offOf g.addr / 2 ^ 16)
  | none => false

/-- Whether a plane carries requests of a die for a logical node (18_fabric.md R401): it is enabled, and its valid active entry names a
port that is UP. -/
def State.planeUp (s : State) (fromDie node q : Nat) : Bool :=
  let p := s.pkg (fromDie / 8)
  let e := (s.die fromDie).active.look 0 (4 * node + q)
  p.planeEn.getLsbD q && bit e 7 && (p.ports.look {} (bits e 0 7).toNat).state == 2#2

/-- Whether a node is reachable from a die of a package (R401): RTSELF.NODE always is; another node needs its RTNODE entry and a plane. A
node whose entry names no package of the pod never answers, which R414 treats alike. -/
def State.reachable (s : State) (fromDie : Nat) (node : Nat) : Bool :=
  node == (s.pkg (fromDie / 8)).rtself.toNat
    || ((s.mapped (fromDie / 8) node).isSome && (List.range 4).any (s.planeUp fromDie node))

/-- The logical node by which a package names another one. -/
def State.nodeName (s : State) (node target : Nat) : Option Nat :=
  if target = node then some (s.pkg node).rtself.toNat
  else ((s.pkg node).rtnode.find? (fun e => e.2.getLsbD 32 && bits e.2 0 32 == (s.pkg target).phys)).map (·.1)

/-- Whether a die reaches another one. -/
def State.reachesDie (s : State) (die target : Nat) : Bool :=
  target / 8 == die / 8 || match s.nodeName (die / 8) (target / 8) with
    | some n => s.reachable die n
    | none => false

end Sys2Proof.Machine
end

