-- ==== Sys2Proof/Machine/Layout.lean ====
section
/-! DEFINITION. Tensor handles and storage layouts (06_memory_isa.md R165, R166, R168), and what a write to a master does to
its views (14_views_layouts.md R328, R332, R345, R346). -/

namespace Sys2Proof.Machine

/-- The width in bits that an SEW code selects (01_thread.md R13). -/
abbrev sewBits (c : Nat) : Nat := 4 * 2 ^ c

/-- Whether a FMT and SEW pair is listed in R14. -/
def pairLegal (fmt sew : Nat) : Bool :=
  match fmt with
  | 0 => sew ≤ 4
  | 1 => 1 ≤ sew && sew ≤ 4
  | 2 => 2 ≤ sew && sew ≤ 4
  | 3 => sew == 2
  | 4 => sew == 1
  | 5 => sew == 1
  | 6 => sew == 0
  | _ => false

/-! ## Handle fields (R165) -/

/-- BASE. -/
abbrev hBase (h : BitVec 256) : Word := bits h 0 64
/-- The size of dimension i. -/
abbrev hDim (h : BitVec 256) (i : Nat) : Nat := (bits h (64 + 16 * i) 16).toNat + 1
/-- FMT. -/
abbrev hFmt (h : BitVec 256) : Nat := (bits h 128 4).toNat
/-- SEW. -/
abbrev hSew (h : BitVec 256) : Nat := (bits h 132 3).toNat
/-- LAYOUT. -/
abbrev hLayout (h : BitVec 256) : Nat := (bits h 136 8).toNat
/-- OLDLAYOUT. -/
abbrev hOld (h : BitVec 256) : Nat := (bits h 144 8).toNat
/-- V. -/
abbrev hV (h : BitVec 256) : Bool := bit h 152
/-- RLP. -/
abbrev hRlp (h : BitVec 256) : Bool := bit h 153
/-- VW. -/
abbrev hVw (h : BitVec 256) : Bool := bit h 154
/-- VIEWID. -/
abbrev hViewId (h : BitVec 256) : BitVec 16 := bits h 160 16
/-- RLID. -/
abbrev hRlid (h : BitVec 256) : Nat := (bits h 176 16).toNat
/-- ALTBASE. -/
abbrev hAlt (h : BitVec 256) : Word := bits h 192 64
/-- Word i of a handle. -/
abbrev hWord (h : BitVec 256) (i : Nat) : Word := bits h (64 * i) 64
/-- A handle from its four words. -/
abbrev hOfWords (w0 w1 w2 w3 : Word) : BitVec 256 := w3 ++ w2 ++ w1 ++ w0
/-- A handle without what its reserved bits, [135] and [159:155], hold (R165; 00_scope.md R6). -/
def hClean (h : BitVec 256) : BitVec 256 := h &&& ~~~(0xF8000080#256 <<< 128)
/-- Word 2 of a handle from its fields. -/
def hWord2 (fmt sew layout old : Nat) (v rlp vw : Bool) (viewId rlid : Nat) : Word :=
  BitVec.ofNat 64 (fmt + sew * 2 ^ 4 + layout * 2 ^ 8 + old * 2 ^ 16 + v.toNat * 2 ^ 24 + rlp.toNat * 2 ^ 25
    + vw.toNat * 2 ^ 26 + viewId * 2 ^ 32 + rlid * 2 ^ 48)

/-! ## Layouts (R166) -/

/-- Division rounded up. -/
abbrev ceilDiv (a b : Nat) : Nat := (a + b - 1) / b

/-- The shape of a tensor: its four sizes and its element width in bits. -/
structure Shape where
  d0 : Nat
  d1 : Nat
  d2 : Nat
  d3 : Nat
  sew : Nat
  deriving DecidableEq, Repr

/-- The shape that a handle gives. -/
def hShape (h : BitVec 256) : Shape := ⟨hDim h 0, hDim h 1, hDim h 2, hDim h 3, sewBits (hSew h)⟩

/-- Coordinates of an element. -/
structure Coord where
  c0 : Nat
  c1 : Nat
  c2 : Nat
  c3 : Nat
  deriving DecidableEq, Repr

/-- TC, the columns of a 4 KiB tile of 32 rows. -/
abbrev Shape.tc (t : Shape) : Nat := 1024 / t.sew
/-- NT0. -/
abbrev Shape.nt0 (t : Shape) : Nat := ceilDiv t.d0 t.tc
/-- NT1. -/
abbrev Shape.nt1 (t : Shape) : Nat := ceilDiv t.d1 32
/-- The number of elements. -/
abbrev Shape.count (t : Shape) : Nat := t.d0 * t.d1 * t.d2 * t.d3

/-- The tile of an element under the tiled layouts. -/
def tileOf (t : Shape) (c : Coord) : Nat := c.c0 / t.tc + t.nt0 * (c.c1 / 32 + t.nt1 * (c.c2 + t.d2 * c.c3))

/-- The storage index of an element under a layout: its offset from the base in elements (R166; 14 R330). -/
def storageIndex (layout : Nat) (t : Shape) (c : Coord) : Nat :=
  match layout with
  | 0 => c.c0 + t.d0 * (c.c1 + t.d1 * (c.c2 + t.d2 * c.c3))
  | 1 => c.c1 + t.d1 * (c.c0 + t.d0 * (c.c2 + t.d2 * c.c3))
  | 3 => tileOf t c * (32 * t.tc) + (c.c0 % t.tc) * 32 + c.c1 % 32
  | _ => tileOf t c * (32 * t.tc) + (c.c1 % 32) * t.tc + c.c0 % t.tc

/-- The elements of storage that a layout takes, padding included. -/
def storageCount (layout : Nat) (t : Shape) : Nat :=
  if layout ≤ 1 then t.count else t.nt0 * t.nt1 * t.d2 * t.d3 * (32 * t.tc)

/-- The element at a storage index, unless it is padding. -/
def coordAt (layout : Nat) (t : Shape) (i : Nat) : Option Coord :=
  let c : Coord :=
    match layout with
    | 0 => ⟨i % t.d0, i / t.d0 % t.d1, i / (t.d0 * t.d1) % t.d2, i / (t.d0 * t.d1 * t.d2)⟩
    | 1 => ⟨i / t.d1 % t.d0, i % t.d1, i / (t.d0 * t.d1) % t.d2, i / (t.d0 * t.d1 * t.d2)⟩
    | _ =>
      let tix := i / (32 * t.tc)
      let r := i % (32 * t.tc)
      let col := if layout = 3 then r / 32 else r % t.tc
      let row := if layout = 3 then r % 32 else r / t.tc
      let rest := tix / (t.nt0 * t.nt1)
      ⟨tix % t.nt0 * t.tc + col, tix / t.nt0 % t.nt1 * 32 + row, rest % t.d2, rest / t.d2⟩
  if c.c0 < t.d0 && c.c1 < t.d1 && c.c2 < t.d2 && c.c3 < t.d3 then some c else none

/-- The bytes of storage under a layout, counted from the base (SHARD: the bytes on one die). -/
def storageBytes (layout : Nat) (t : Shape) : Nat :=
  if layout = 4 then 4096 * ceilDiv (t.nt0 * t.nt1 * t.d2 * t.d3) 8 else ceilDiv (storageCount layout t * t.sew) 8

/-- The address of a storage index, and whether a 4-bit element lies in the high nibble (R4, R166). -/
def storageAddr (layout : Nat) (base : Word) (sew i : Nat) : Word × Bool :=
  if layout = 4 then
    let per := 32768 / sew
    let tix := i / per
    let die := (dieOf base + tix) % 8
    let off := offOf base + 4096 * (tix / 8) + (i % per) * sew / 8
    ((bits base 52 12).zeroExtend 64 <<< 52 ||| BitVec.ofNat 64 (die * 2 ^ 49) ||| ((chanOf base).zeroExtend 64 <<< 43)
      ||| BitVec.ofNat 64 (off % 2 ^ 43), sew = 4 && i % 2 = 1)
  else (base + BitVec.ofNat 64 (i * sew / 8), sew = 4 && i % 2 = 1)

/-- The address of an element through a handle's layout at a base. -/
def elemAddr (layout : Nat) (base : Word) (t : Shape) (c : Coord) : Word × Bool :=
  storageAddr layout base t.sew (storageIndex layout t c)

/-- The 4 KiB storage tile of an element under a layout (R166, R169). -/
def storageTile (layout : Nat) (t : Shape) (c : Coord) : Nat := storageIndex layout t c * t.sew / 32768

/-- How many storage tiles a layout has. -/
def tileCount (layout : Nat) (t : Shape) : Nat := ceilDiv (storageCount layout t * t.sew) 32768

/-- The storage index of the first element of a byte address, counted from the base (R166). -/
def storageAt (layout : Nat) (base : Word) (sew : Nat) (a : Word) : Option Nat :=
  if layout = 4 then
    if bits a 52 12 != bits base 52 12 || chanOf a != chanOf base || offOf a < offOf base then none
    else
      let off := offOf a - offOf base
      some ((off / 4096 * 8 + (dieOf a + 8 - dieOf base) % 8) * (32768 / sew) + off % 4096 * 8 / sew)
  else some ((a - base).toNat * 8 / sew)

/-- The bytes of a storage tile. -/
def tileSpan (layout : Nat) (base : Word) (t : Shape) (tile : Nat) : Word × Nat :=
  let per := 32768 / t.sew
  ((storageAddr layout base t.sew (tile * per)).1, ceilDiv (min per (storageCount layout t - tile * per) * t.sew) 8)

/-- The bytes of a tensor's storage, die by die. -/
def layoutSpans (layout : Nat) (base : Word) (t : Shape) : List (Word × Nat) :=
  if layout = 4 then (List.range 8).map (fun k =>
    ((storageAddr 4 base t.sew (k * (32768 / t.sew))).1, 4096 * ((t.nt0 * t.nt1 * t.d2 * t.d3 + 7 - k) / 8)))
  else [(base, storageBytes layout t)]

/-- Whether a byte address lies in a tensor's storage (14_views_layouts.md R328). -/
def inStorage (layout : Nat) (base : Word) (t : Shape) (a : Word) : Bool :=
  (layoutSpans layout base t).any (fun q => (a - q.1).toNat < q.2)

/-- The elements that a byte of a tensor's storage holds, none of padding. -/
def byteCoords (layout : Nat) (base : Word) (t : Shape) (a : Word) : List Coord :=
  match storageAt layout base t.sew a with
  | some k => (if t.sew = 4 then [k, k + 1] else [k]).filterMap (coordAt layout t)
  | none => []

/-- The master block of a byte of a tensor's storage: 16 KiB of it, counted from the base (R328). -/
def masterBlock (layout : Nat) (base : Word) (t : Shape) (a : Word) : Nat :=
  (storageAt layout base t.sew a).getD 0 * t.sew / 8 / 16384

/-- The elements that hold bytes of a line of 128 bytes, with their storage indices; none of padding. -/
def lineCoords (layout : Nat) (base : Word) (t : Shape) (line : Word) : List (Nat × Coord) :=
  (List.range 256).filterMap (fun j =>
    match storageAt layout base t.sew (line + BitVec.ofNat 64 (j / 2)) with
    | some k => let i := if t.sew = 4 then k + j % 2 else k; (coordAt layout t i).map (fun c => (i, c))
    | none => none)

/-- The shape of a view's storage (14_views_layouts.md R330). -/
def View.shape (v : View) : Shape := { hShape v.master with sew := sewBits v.sew.toNat }

/-- The storage tiles of a view block's elements. -/
def View.tileSpans (v : View) (b : Nat) : List (Word × Nat) :=
  (List.range (v.shape.sew / 2)).map (fun k => tileSpan v.layout.toNat v.vb v.shape (v.shape.sew / 2 * b + k))

/-- The codes and super-scale words of an NQ4 view block (14_views_layouts.md R330). -/
def View.scaleSpans (v : View) (b : Nat) : List (Word × Nat) :=
  if v.fmt != 6 then [] else
  let n := v.shape.count
  let line := if v.layout = 1 then v.shape.d1 else v.shape.d0
  let m := min 16384 (n - 16384 * b)
  [(v.vb + BitVec.ofNat 64 (n / 2 + 256 * b), ceilDiv m 64),
    (v.vb + BitVec.ofNat 64 ((n / 2 + n / 64 + 3) / 4 * 4 + 4 * (16384 * b / line)), 4 * ceilDiv m line)]

/-- The coordinates reached from a start by i steps in logical order (R168); none beyond the last element. -/
def coordStep (t : Shape) (c : Coord) (i : Nat) : Option Coord :=
  coordAt 0 t (storageIndex 0 t c + i)

/-! ## Views and their masters (R328, R332) -/

/-- Whether view block b of a view depends on a master block of the storage under a layout: one of its elements lies there (R332). -/
def dependsOn (v : View) (b layout mblock : Nat) : Bool :=
  let t := hShape v.master
  (List.range 16384).any (fun j =>
    match coordAt v.layout.toNat v.shape (16384 * b + j) with
    | some c => storageIndex layout t c * t.sew / 8 / 16384 == mblock
    | none => false)

/-- A view after a master write to master blocks, each with the layout that it counts under: the blocks that depend on one become stale
(R332, R346). -/
def View.stain (v : View) (mblocks : List (Nat × Nat)) : View :=
  let bs := (v.blocks.zipIdx).map (fun p =>
    if mblocks.any (fun m => dependsOn v p.2 m.1 m.2) then
      { p.1 with stale := true, again := true, since := if p.1.stale then p.1.since else v.clock } else p.1)
  { v with blocks := bs, clock := v.clock + 1 }

/-- The live relayout record whose old storage a base names. -/
def relayOf (d : Die) (asid : BitVec 12) (base : Word) : Option Relay :=
  (d.relays.find? (fun r => r.2.asid == asid && r.2.altBase == base && (r.2.state == 1#2 || r.2.state == 3#2))).map (·.2)

/-- Whether a write to the old storage, or to the new one, at an element of a tensor under relayout is part of the tensor
(R345): tiles count under the new layout. -/
def partOfTensor (r : Relay) (toOld : Bool) (c : Coord) : Bool :=
  let ph := r.tiles.getD (storageTile (hLayout r.hand) (hShape r.hand) c) .converted
  if toOld then ph == .waiting else ph != .waiting

/-- The master blocks that a write of n bytes makes stale, each with the layout that it counts under: by its storage, or, under relayout,
by the bytes of either storage that hold an element of the tensor (R332, R345, R346). -/
def touchedBlocks (d : Die) (v : View) (a : Word) (n : Nat) : List (Nat × Nat) :=
  let t := hShape v.master
  let hit (layout : Nat) (base : Word) (part : Coord → Bool) (i : Nat) : Option (Nat × Nat) :=
    let x := a + BitVec.ofNat 64 i
    if inStorage layout base t x && (byteCoords layout base t x).any part then some (layout, masterBlock layout base t x) else none
  let old := hLayout v.master
  let base := hBase v.master
  match relayOf d v.asid base with
  | none => (List.range n).filterMap (fun i => let x := a + BitVec.ofNat 64 i
      if inStorage old base t x then some (old, masterBlock old base t x) else none)
  | some r => (List.range n).filterMap (fun i =>
      (hit old base (partOfTensor r true) i).orElse (fun _ => hit (hLayout r.hand) (hBase r.hand) (partOfTensor r false) i))

/-- Whether n bytes at an address touch the storage of a master, old or new (R328). -/
def touchesMaster (d : Die) (mast : Master) (a : Word) (n : Nat) : Bool :=
  d.views.any (fun p => p.2.asid == mast.asid && hBase p.2.master == mast.base &&
    let t := hShape p.2.master
    (List.range n).any (fun i =>
      inStorage (hLayout p.2.master) mast.base t (a + BitVec.ofNat 64 i) ||
      match relayOf d mast.asid mast.base with
      | some r => inStorage (hLayout r.hand) (hBase r.hand) t (a + BitVec.ofNat 64 i)
      | none => false))

/-- A write event of an ASID on n bytes of pod memory, as a die's view engine sees it: MV and staleness (R328, R332).
`carry` marks the carry-over writes of the relayout engine, which change no element value. -/
def noteWriteAt (s : State) (die : Nat) (asid : BitVec 12) (a : Word) (n : Nat) (carry : Bool) : State :=
  let d := s.die die
  if d.masters.isEmpty then s else
  let masters := d.masters.map (fun mast =>
    if mast.asid == asid && mast.captured && touchesMaster d mast a n
    then { mast with mv := mast.mv + 1, captured := false } else mast)
  let views := if carry then d.views else d.views.map (fun p =>
    if p.2.asid == asid then
      match touchedBlocks d p.2 a n with
      | [] => p
      | bs => (p.1, p.2.stain bs)
    else p)
  s.setDie die { d with masters := masters, views := views }

/-- A write event as every die's view engine that keeps a master sees it. -/
def noteWrite (s : State) (asid : BitVec 12) (a : Word) (n : Nat) (carry : Bool) : State :=
  s.dies.foldl (fun s p => noteWriteAt s p.1 asid a n carry) s

end Sys2Proof.Machine
end

