-- ==== Sys2Proof/Machine/Links.lean ====
section
/-! DEFINITION. Links: the planes and paths of flits, their numbers, replay and delivery, and the transfers that end with a notice
(18_fabric.md R403-R408, R410). -/

namespace Sys2Proof.Machine

/-! ## Flits as they are sent (R406) -/

/-- One byte into the CRC-64 of ECMA-182. -/
def crcByte (c : BitVec 64) (b : Byte) : BitVec 64 :=
  (List.range 8).foldl (fun c _ => if c.msb then (c <<< 1) ^^^ 0x42F0E1EBA9EA3693#64 else c <<< 1) (c ^^^ (b.zeroExtend 64 <<< 56))

/-- The CRC of bytes: initial value 0, no reflection. -/
def crc64 (bs : List Byte) : BitVec 64 := bs.foldl crcByte 0

/-- The 256 bytes of a flit. -/
def flitBytes (f : Flit) : List Byte :=
  leBytes 4 f.dphys.toNat ++ leBytes 4 f.sphys.toNat
    ++ [BitVec.ofNat 8 (f.ddie.toNat + f.src % 8 * 8 + f.ctl.toNat * 64 + f.copy.toNat * 128)]
    ++ leBytes 2 f.ver.toNat ++ [f.kind] ++ leBytes 4 f.seq.toNat ++ (f.payload ++ List.replicate 240 0).take 240

/-- The CRC that follows a flit: a receiver's check compares it with the one that arrives. -/
def flitCrc (f : Flit) : BitVec 64 := crc64 (flitBytes f)

/-- A kind that R406 assigns. -/
def flitKindOk (k : BitVec 8) : Bool := k.toNat ≤ 3 || (0x10 ≤ k.toNat && k.toNat ≤ 0x15)

/-! ## Links -/

/-- The key of a link of a die: the other die and the class. -/
abbrev linkKey (die : Nat) (ctl : Bool) : Nat := die * 2 + ctl.toNat

/-- The link of a die. -/
abbrev State.link (s : State) (die key : Nat) : Link := (s.die die).links.look {} key

/-- The link of a die replaced. -/
def State.setLink (s : State) (die key : Nat) (l : Link) : State :=
  let d := s.die die
  s.setDie die { d with links := d.links.put key l }

/-- Whether a sequence number comes before another, modulo 2^32. -/
def seqBefore (a b : BitVec 32) : Bool := (a - b).slt 0

/-- Early flits that the next number now reaches. -/
def drainEarly : Nat → BitVec 32 → List Flit → BitVec 32 × List Flit
  | 0, n, fs => (n, fs)
  | k + 1, n, fs => if fs.any (fun f => f.seq == n) then drainEarly k (n + 1) (fs.filter (fun f => f.seq != n)) else (n, fs)

/-- A flit of a link in its order: delivered with those that follow it, or held early, or discarded as old. -/
def Link.deliver (l : Link) (f : Flit) : Link :=
  if f.seq == l.nextRx then
    let (n, es) := drainEarly l.early.length (l.nextRx + 1) l.early
    { l with nextRx := n, early := es }
  else if seqBefore f.seq l.nextRx || l.early.any (fun e => e.seq == f.seq) then l
  else { l with early := l.early ++ [f] }

/-- The sender's replay buffer drops what the receiver has delivered. -/
def acknowledge (s : State) (src die : Nat) (ctl : Bool) : State :=
  let upto := (s.link die (linkKey src ctl)).nextRx
  let l := s.link src (linkKey die ctl)
  s.setLink src (linkKey die ctl) { l with sent := l.sent.filter (fun f => !seqBefore f.seq upto) }

/-- A port of a package replaced (17_package_system.md R394). -/
def State.setPort (s : State) (node k : Nat) (q : Port) : State :=
  let p := s.pkg node
  s.setPkg node { p with ports := p.ports.put k q }

/-- A flit that a receiver discards for its CRC or its kind counts at its port. -/
def countCrc (s : State) (node : Nat) (port : Option Nat) : State :=
  match port with
  | none => s
  | some k => let q := (s.pkg node).ports.look {} k; s.setPort node k { q with crcerr := satAdd q.crcerr 1 }

/-- Whether a flit whose CRC fails came in an uncorrectable FEC codeword, which its port counts too: the manual does not give it (log 5). -/
def countUncor (s : State) (node : Nat) (port : Option Nat) : State :=
  match port with
  | none => s
  | some k =>
    let (w, s) := s.fresh
    let q := (s.pkg node).ports.look {} k
    if bit w 0 then s.setPort node k { q with uncor := satAdd q.uncor 1 } else s

/-- A receiver takes a flit (R406-R408). -/
def receiveFlit (s : State) (die : Nat) (f : Flit) (crcOk : Bool) : State :=
  let node := die / 8
  let p := s.pkg node
  if !crcOk then countUncor (countCrc s node f.port) node f.port
  else if f.dphys != p.phys then s.setPkg node { p with misroute := satAdd p.misroute 1 }
  else if !flitKindOk f.kind then countCrc s node f.port
  else if f.kind = 0 then s
  else
    let key := linkKey f.src f.ctl
    let l := s.link die key
    if !f.ctl then acknowledge (s.setLink die key (l.deliver f)) f.src die false
    else if l.window.contains f.seq then s.setPkg node { p with dupdisc := satAdd p.dupdisc 1 }
    else
      let w := l.window ++ [f.seq]
      acknowledge (s.setLink die key { (l.deliver f) with window := w.drop (w.length - 1024) }) f.src die true

/-! ## Paths (R403-R405, R407, R408) -/

/-- The planes that a flit from a die to another may be injected on: the four of a path inside a package; towards another package those
that are enabled, not draining, and have a valid active entry whose port is UP. -/
def openPlanes (s : State) (src dst : Nat) : List Nat :=
  (List.range 4).filter (fun q => src / 8 == dst / 8 || (!(s.pkg (src / 8)).planeDrain.getLsbD q &&
    match s.nodeName (src / 8) (dst / 8) with
    | some n => s.planeUp src n q
    | none => false))

/-- The first open plane from one on, in ascending order and round again. -/
def planeFrom (openp : List Nat) (q : Nat) : Option Nat := ((List.range 4).map (fun i => (q + i) % 4)).find? (fun q => openp.contains q)

/-- A flit on a plane, routed by the active table: its port, and its wavelength, 8 × WBAND + DDIE, which the far grating delivers to that
die (R403, R404); its version is the table's. -/
def routeFlit (s : State) (src dst : Nat) (f : Flit) (q : Nat) : Flit :=
  let e := match s.nodeName (src / 8) (dst / 8) with
    | some n => (s.die src).active.look 0 (4 * n + q)
    | none => 0
  { f with ver := (s.pkg (src / 8)).rtver, plane := BitVec.ofNat 2 q,
           port := if src / 8 = dst / 8 then none else some (bits e 0 7).toNat,
           wave := if src / 8 = dst / 8 then 0 else 8 * (bits e 8 2).toNat + dst % 8 }

/-- A flit from a die to another, before it is routed. -/
def newFlit (s : State) (src dst : Nat) (ctl copy : Bool) (kind : BitVec 8) (seq : BitVec 32) (payload : List Byte) : Flit :=
  { dphys := (s.pkg (dst / 8)).phys, sphys := (s.pkg (src / 8)).phys, ddie := BitVec.ofNat 3 dst, src := src, ctl := ctl, copy := copy,
    kind := kind, seq := seq, payload := payload, port := none }

/-- A bulk flit is numbered, kept in the replay buffer and dealt to the open plane after the last one (R407); while none is open it stays in
the buffer, on no port, until it is sent again (R405). -/
def sendBulk (s : State) (src dst : Nat) (kind : BitVec 8) (payload : List Byte) : State :=
  let key := linkKey dst false
  let l := s.link src key
  let f := newFlit s src dst false false kind l.nextTx payload
  match planeFrom (openPlanes s src dst) (l.plane.toNat + 1) with
  | some q => s.setLink src key { l with plane := BitVec.ofNat 2 q, nextTx := l.nextTx + 1, sent := l.sent ++ [routeFlit s src dst f q] }
  | none => s.setLink src key { l with nextTx := l.nextTx + 1, sent := l.sent ++ [f] }

/-- A control flit is sent twice, on two different open planes: on SEQ mod 4 if it is open, else on the next one, and on the next open
one after that (R408); while none is open they stay in the buffer (R405). -/
def sendControl (s : State) (src dst : Nat) (kind : BitVec 8) (payload : List Byte) : State :=
  let key := linkKey dst true
  let l := s.link src key
  let openp := openPlanes s src dst
  let first := planeFrom openp (l.nextTx.toNat % 4)
  let second := first.bind (fun q => planeFrom openp (q + 1))
  let f (copy : Bool) (q : Option Nat) : Flit :=
    let f := newFlit s src dst true copy kind l.nextTx payload
    match q with
    | some q => routeFlit s src dst f q
    | none => f
  s.setLink src key { l with nextTx := l.nextTx + 1, sent := l.sent ++ [f false first, f true second] }

/-- The flits of a replay buffer from a number on are sent again, routed afresh, and received (R404, R407); none is sent while no plane is
open. -/
def resend (s : State) (die dst : Nat) (ctl : Bool) (seq : BitVec 32) : State :=
  let fs := (s.link die (linkKey dst ctl)).sent.filter (fun f => !seqBefore f.seq seq)
  fs.foldl (fun s f =>
    let l := s.link die (linkKey dst ctl)
    let openp := openPlanes s die dst
    match planeFrom openp (if !ctl then l.plane.toNat + 1 else if f.copy then f.seq.toNat + 1 else f.seq.toNat) with
    | none => s
    | some q =>
      let f := routeFlit s die dst f q
      receiveFlit (if ctl then s else s.setLink die (linkKey dst ctl) { l with plane := f.plane }) dst f true) s

/-- What a link has sent and not delivered is received. -/
def flushLink (s : State) (die dst : Nat) (ctl : Bool) : State :=
  match (s.link die (linkKey dst ctl)).sent with
  | [] => s
  | f :: _ => resend s die dst ctl f.seq

/-! ## Transfers (R410) -/

/-- Bytes in payloads of n. -/
def payloads (n : Nat) : Nat → List Byte → List (List Byte)
  | 0, _ => []
  | k + 1, bs => if bs.length ≤ n then [bs] else bs.take n :: payloads n k (bs.drop n)

/-- The flits of a transfer enter the replay buffer of 512, which delivers its older ones first when they would not fit, and its notice
follows as a control flit that names the last of them: the state, and the numbers of that flit and of the notice. -/
def sendNoticed (s : State) (src dst : Nat) (kind : BitVec 8) (flits : List (List Byte)) : State × BitVec 32 × BitVec 32 :=
  let l := s.link src (linkKey dst false)
  let s := if l.sent.length + flits.length ≤ 512 then s else flushLink s src dst false
  let s := flits.foldl (fun s b => sendBulk s src dst kind b) s
  let last := (s.link src (linkKey dst false)).nextTx - 1
  let c := (s.link src (linkKey dst true)).nextTx
  (sendControl s src dst 0x11 (leBytes 4 last.toNat), last, c)

/-- A transfer starts, and its receiver holds its notice. -/
def startTransfer (s : State) (src dst : Nat) (kind : BitVec 8) (flits : List (List Byte)) (what : Transfer) : State :=
  let (s, last, c) := sendNoticed s src dst kind flits
  let d := s.die dst
  s.setDie dst { d with notices := d.notices ++ [⟨src, last, c, what⟩] }

/-- A transfer whose effect belongs to this step: its flits and its notice arrive, behind those sent before them. -/
def transferNow (s : State) (src dst : Nat) (kind : BitVec 8) (flits : List (List Byte)) : State :=
  flushLink (flushLink (sendNoticed s src dst kind flits).1 src dst false) src dst true

/-- Whether a notice has arrived, and every bulk flit of its source up to its number has been delivered. -/
def NoticeRec.due (n : NoticeRec) (s : State) (die : Nat) : Bool :=
  seqBefore n.ctl (s.link die (linkKey n.src true)).nextRx && seqBefore n.last (s.link die (linkKey n.src false)).nextRx

/-- What data of a transfer is sent in bulk flits of 224 bytes, behind its tag and its offset (R406). -/
def dataFlits (tag : Word) (bs : List Byte) : List (List Byte) :=
  ((payloads 224 (bs.length + 1) bs).zipIdx).map (fun p => leBytes 8 tag.toNat ++ leBytes 8 (224 * p.2) ++ p.1)

/-- The payload of a line write (R406): the pod address, the byte mask and the 128 bytes. -/
def linePayload (line : Word) (byte : Nat → Option Byte) : List Byte :=
  leBytes 8 line.toNat
    ++ (List.range 16).map (fun j => BitVec.ofNat 8 (((List.range 8).map (fun k => if (byte (8 * j + k)).isSome then 2 ^ k else 0)).foldl (· + ·) 0))
    ++ (List.range 128).map (fun i => (byte i).getD 0)

/-- The bytes that a line write carries. -/
def LineWr.payload (w : LineWr) : List Byte :=
  linePayload w.line (fun i => w.elems.foldl (fun b e => match e.data[i - e.off]? with
    | some x => if e.off ≤ i then some x else b
    | none => b) none)

/-! ## Requests, answers and messages (R406, R411; log 118) -/

/-- A control flit of a die for another arrives, behind those sent before it (R408). -/
def message (s : State) (src dst : Nat) (kind : BitVec 8) (payload : List Byte) : State :=
  if src = dst then s else flushLink (sendControl s src dst kind payload) src dst true

/-- A request of a die to a home, and its answer. -/
def exchange (s : State) (die home : Nat) (kind : BitVec 8) (a : Word) : State :=
  message (message s die home kind (leBytes 8 a.toNat)) home die 0x12 (leBytes 8 a.toNat)

/-- A die reads n bytes at a place of another die: its request, and the data with their notice. -/
def fetchData (s : State) (die : Nat) (a : Word) (key n : Nat) : State :=
  let home := keyDie key
  if 2 ^ 60 ≤ key || home = die then s else
  transferNow (message s die home 0x10 (leBytes 8 a.toNat)) home die 2 (dataFlits a (memBytes s.mem key n))

/-- A die writes bytes within a line at a place of another die: its line write and its notice, and the acknowledgement. -/
def putData (s : State) (die : Nat) (a : Word) (key : Nat) (bs : List Byte) : State :=
  let home := keyDie key
  if 2 ^ 60 ≤ key || home = die || bs.isEmpty then s else
  let off := key % 128
  message (transferNow s die home 1 [linePayload (a - BitVec.ofNat 64 off) (fun i => if off ≤ i then bs[i - off]? else none)])
    home die 0x12 (leBytes 8 a.toNat)

/-- A die asks the home of a place on another die for a check or an atomic, which answers. -/
def askHome (s : State) (die : Nat) (a : Word) (key : Nat) : State :=
  if 2 ^ 60 ≤ key then s else exchange s die (keyDie key) 0x10 a

/-- A line write on its way to its home (R412). -/
def sendLine (s : State) (core : Nat) (w : LineWr) : State := startTransfer s (core / 64) (keyDie w.key) 1 [w.payload] (.line w)

end Sys2Proof.Machine
end

