-- ==== Sys2Proof/Machine/Flags.lean ====
section
/-! DEFINITION. FCS: the sticky flags, how an instruction raises them and how a write stores them (01_thread.md R39, R40). -/

namespace Sys2Proof.Machine

/-- FCS.NX. -/
abbrev flagNX : Word := 0x100
/-- FCS.UF. -/
abbrev flagUF : Word := 0x200
/-- FCS.OF. -/
abbrev flagOF : Word := 0x400
/-- FCS.DZ. -/
abbrev flagDZ : Word := 0x800
/-- FCS.NV. -/
abbrev flagNV : Word := 0x1000
/-- FCS.SAT. -/
abbrev flagSAT : Word := 0x2000

/-- Flags raised into FCS; an instruction only ever sets them. -/
def Thread.raise (t : Thread) (fl : Word) : Thread := { t with fcs := t.fcs ||| fl }

/-- FCS.RM. -/
abbrev Thread.rm (t : Thread) : BitVec 3 := bits t.fcs 0 3

/-- FCS after a write of v (R39): a rounding mode of 5 to 7 leaves RM as it is, reserved bits stay 0. -/
def fcsWrite (old v : Word) : Word :=
  (if 4 < (bits v 0 3).toNat then old &&& 7 else v &&& 7) ||| (v &&& 0x3F00)

/-- The flags of a list of results. -/
def orFlags (fs : List Word) : Word := fs.foldl (· ||| ·) 0

end Sys2Proof.Machine
end

