-- ==== Sys2Proof/Machine/Float.lean ====
section
/-! DEFINITION. Number formats and arithmetic: values are exact fractions, every operation is computed exactly and rounded
once (03_numbers.md R72-R92). -/

namespace Sys2Proof.Machine

/-! ## Formats (R74) -/

/-- A floating-point format: exponent and fraction widths, and whether the top exponent encodes infinities (all but E4M3). -/
structure FFmt where
  ebits : Nat
  fbits : Nat
  inf : Bool
  deriving DecidableEq, Repr

/-- FP64. -/
def fp64 : FFmt := ⟨11, 52, true⟩
/-- FP32. -/
def fp32 : FFmt := ⟨8, 23, true⟩
/-- FP16. -/
def fp16 : FFmt := ⟨5, 10, true⟩
/-- BF16. -/
def bf16 : FFmt := ⟨8, 7, true⟩
/-- E4M3. -/
def e4m3 : FFmt := ⟨4, 3, false⟩
/-- E5M2. -/
def e5m2 : FFmt := ⟨5, 2, true⟩

/-- The format of a FMT and SEW code (01_thread.md R14). -/
def floatFmt (fmt sew : Nat) : Option FFmt :=
  match fmt, sew with
  | 2, 2 => some fp16
  | 2, 3 => some fp32
  | 2, 4 => some fp64
  | 3, 2 => some bf16
  | 4, 1 => some e4m3
  | 5, 1 => some e5m2
  | _, _ => none

/-- The exponent bias. -/
def FFmt.bias (f : FFmt) : Int := 2 ^ (f.ebits - 1) - 1
/-- The exponent of the smallest normal. -/
def FFmt.emin (f : FFmt) : Int := 1 - f.bias
/-- The precision, the leading bit counted. -/
abbrev FFmt.p (f : FFmt) : Nat := f.fbits + 1
/-- The bits above the fraction that are all ones in the top exponent. -/
abbrev FFmt.top (f : FFmt) : Nat := 2 ^ f.ebits - 1
/-- The encoding of a sign alone. -/
abbrev FFmt.signBit (f : FFmt) : Nat := 2 ^ (f.ebits + f.fbits)
/-- The encoding of the largest finite magnitude (R74). -/
def FFmt.maxBits (f : FFmt) : Nat := if f.inf then f.top * 2 ^ f.fbits - 1 else f.top * 2 ^ f.fbits + 2 ^ f.fbits - 2
/-- The encoding of infinity; E4M3 has none and its overflow encoding is its NaN (R87). -/
def FFmt.infBits (f : FFmt) : Nat := if f.inf then f.top * 2 ^ f.fbits else f.signBit - 1
/-- The canonical quiet NaN (R75). -/
def FFmt.nanBits (f : FFmt) : Nat := if f.inf then f.top * 2 ^ f.fbits + 2 ^ (f.fbits - 1) else f.signBit - 1

/-- A value: NaN (signalling or quiet), an infinity, or a finite sign and fraction n / d. -/
inductive FVal where
  | nan (signalling : Bool)
  | inf (neg : Bool)
  | fin (neg : Bool) (n d : Nat)
  deriving DecidableEq, Repr

/-- Multiply a fraction by a power of two. -/
def scale2 (n d : Nat) (e : Int) : Nat × Nat :=
  match e with
  | .ofNat k => (n * 2 ^ k, d)
  | .negSucc k => (n, d * 2 ^ (k + 1))

/-- The value of an encoding (R74, R75). -/
def FFmt.decode (f : FFmt) (w : Nat) : FVal :=
  let frac := w % 2 ^ f.fbits
  let ex := w / 2 ^ f.fbits % 2 ^ f.ebits
  let neg := w / f.signBit % 2 == 1
  if ex == f.top && f.inf then
    if frac = 0 then .inf neg else .nan (frac / 2 ^ (f.fbits - 1) == 0 && f.fbits ≥ 7)
  else if ex == f.top && frac == 2 ^ f.fbits - 1 && !f.inf then .nan false
  else
    let (m, e) := if ex = 0 then (frac, f.emin) else (frac + 2 ^ f.fbits, (ex : Int) - f.bias)
    let (n, d) := scale2 m 1 (e - f.fbits)
    .fin neg n d

/-! ## Rounding (R79-R81) -/

/-- FCS.RM as a mode; the stochastic mode carries the 24-bit u of the element (R80). -/
inductive Round where
  | rne | rtz | rup | rdn
  | rsr (u : Nat)
  deriving DecidableEq, Repr

/-- floor(log2 (n / d)) of a fraction that is not 0. -/
def flog2 (n d : Nat) : Int :=
  let e : Int := (n.log2 : Int) - (d.log2 : Int)
  let (a, b) := scale2 n d (-e)
  if b ≤ a then e else e - 1

/-- Whether a magnitude lo + rem / den, in units of the last place, rounds away from zero. -/
def roundsUp (m : Round) (neg : Bool) (lo rem den : Nat) : Bool :=
  if rem = 0 then false else
  match m with
  | .rne => den < 2 * rem || (2 * rem == den && lo % 2 == 1)
  | .rtz => false
  | .rup => !neg
  | .rdn => neg
  | .rsr u => if neg then !(u < (den - rem) * 2 ^ 24 / den) else u < rem * 2 ^ 24 / den

/-- A fraction rounded to a multiple of 2^q: the multiple, and whether it is inexact. -/
def roundAt (m : Round) (neg : Bool) (n d : Nat) (q : Int) : Nat × Bool :=
  let (a, b) := scale2 n d (-q)
  (a / b + (roundsUp m neg (a / b) (a % b) b).toNat, a % b != 0)

/-- What an overflow delivers. -/
inductive Over where
  | ieee | sat
  deriving DecidableEq, Repr

/-- Whether IEEE 754 delivers an infinity on overflow (R87). -/
def overflowsToInf (m : Round) (neg : Bool) : Bool :=
  match m with
  | .rne => true
  | .rtz => false
  | .rup => !neg
  | .rdn => neg
  | .rsr _ => true

/-- A finite non-zero exact result rounded into a format, with its flags (R77, R79, R80, R87). -/
def FFmt.round (f : FFmt) (m : Round) (o : Over) (neg : Bool) (n d : Nat) : Nat × Word :=
  let sign := if neg then f.signBit else 0
  if n = 0 then (sign, 0) else
  let e := flog2 n d
  let q := max e f.emin - f.fbits
  let (k, nx) := roundAt m neg n d q
  let (k, q) := if k = 2 ^ f.p then (2 ^ f.fbits, q + 1) else (k, q)
  let bits := if k < 2 ^ f.fbits then k else ((q + f.fbits + f.bias).toNat * 2 ^ f.fbits) + (k - 2 ^ f.fbits)
  if f.maxBits < bits then
    let b := match o with
      | .sat => f.maxBits
      | .ieee => if overflowsToInf m neg then f.infBits else f.maxBits
    (sign + b, flagOF ||| flagNX)
  else
    let tiny := decide (e < f.emin) && (let (k', _) := roundAt m neg n d (e - f.fbits)
      let (a, b) := scale2 k' 1 (e - f.fbits - f.emin)
      decide (a < b))
    (sign + bits, (if nx then flagNX else 0) ||| (if nx && tiny then flagUF else 0))

/-- The flag of a signalling operand (R75). -/
def FVal.snan : FVal → Bool
  | .nan s => s
  | _ => false

/-- Whether a value is a NaN. -/
def FVal.isNan : FVal → Bool
  | .nan _ => true
  | _ => false

/-- The sign of a value that is no NaN. -/
def FVal.neg? : FVal → Bool
  | .nan _ => false
  | .inf s => s
  | .fin s _ _ => s

/-- The value with its sign changed when asked. -/
def FVal.signed (v : FVal) (flip : Bool) : FVal :=
  match v with
  | .nan s => .nan s
  | .inf s => .inf (s != flip)
  | .fin s n d => .fin (s != flip) n d

/-- An exact sum (R76): the value, and whether the operation is invalid. -/
def FVal.add (m : Round) (a b : FVal) : FVal × Bool :=
  match a, b with
  | .nan s, y => (.nan false, s || y.snan)
  | _, .nan s => (.nan false, s)
  | .inf s, .inf t => if s == t then (.inf s, false) else (.nan false, true)
  | .inf s, _ => (.inf s, false)
  | _, .inf t => (.inf t, false)
  | .fin s n d, .fin t k e =>
    if s == t then (.fin s (n * e + k * d) (d * e), false)
    else if n * e = k * d then (.fin (m == .rdn) 0 1, false)
    else if k * d < n * e then (.fin s (n * e - k * d) (d * e), false)
    else (.fin t (k * d - n * e) (d * e), false)

/-- An exact product. -/
def FVal.mul (a b : FVal) : FVal × Bool :=
  match a, b with
  | .nan s, y => (.nan false, s || y.snan)
  | _, .nan s => (.nan false, s)
  | .inf s, .inf t => (.inf (s != t), false)
  | .inf s, .fin t n _ => if n = 0 then (.nan false, true) else (.inf (s != t), false)
  | .fin t n _, .inf s => if n = 0 then (.nan false, true) else (.inf (s != t), false)
  | .fin s n d, .fin t k e => (.fin (s != t) (n * k) (d * e), false)

/-- A value delivered in a format with the flags of its rounding. -/
def FFmt.deliver (f : FFmt) (m : Round) (o : Over) (v : FVal) (invalid : Bool) : Nat × Word :=
  let nv := if invalid then flagNV else 0
  match v with
  | .nan _ => (f.nanBits, nv)
  | .inf s => ((if s then f.signBit else 0) + f.infBits, nv)
  | .fin s n d => let (b, fl) := f.round m o s n d; (b, fl ||| nv)

/-- x + y. -/
def FFmt.add (f : FFmt) (m : Round) (x y : Nat) : Nat × Word :=
  let (v, i) := FVal.add m (f.decode x) (f.decode y)
  f.deliver m .ieee v i

/-- x - y. -/
def FFmt.sub (f : FFmt) (m : Round) (x y : Nat) : Nat × Word :=
  let (v, i) := FVal.add m (f.decode x) ((f.decode y).signed true)
  f.deliver m .ieee v i

/-- x * y. -/
def FFmt.mul (f : FFmt) (m : Round) (x y : Nat) : Nat × Word :=
  let (v, i) := FVal.mul (f.decode x) (f.decode y)
  f.deliver m .ieee v i

/-- x / y (R77). -/
def FFmt.div (f : FFmt) (m : Round) (x y : Nat) : Nat × Word :=
  match f.decode x, f.decode y with
  | .nan s, v => (f.nanBits, if s || v.snan then flagNV else 0)
  | _, .nan s => (f.nanBits, if s then flagNV else 0)
  | .inf _, .inf _ => (f.nanBits, flagNV)
  | .inf s, .fin t _ _ => ((if s != t then f.signBit else 0) + f.infBits, 0)
  | .fin s _ _, .inf t => (if s != t then f.signBit else 0, 0)
  | .fin s n d, .fin t k e =>
    if k = 0 then
      if n = 0 then (f.nanBits, flagNV) else ((if s != t then f.signBit else 0) + f.infBits, flagDZ)
    else f.round m .ieee (s != t) (n * e) (d * k)

/-- The integer square root below 2^(k+1), one bit at a time. -/
def isqrt (n : Nat) : Nat → Nat → Nat
  | 0, r => if (r + 1) * (r + 1) ≤ n then r + 1 else r
  | k + 1, r => if (r + 2 ^ (k + 1)) * (r + 2 ^ (k + 1)) ≤ n then isqrt n k (r + 2 ^ (k + 1)) else isqrt n k r

/-- The square root of a fraction as a fraction that rounds as the exact root does: a root between two multiples of a unit far
below the last place is given as the middle between them. -/
def sqrtFrac (n d : Nat) : Nat × Nat :=
  let k := 160 + d.log2 + n.log2
  let a := n * d * 4 ^ k
  let r := isqrt a (a.log2 / 2 + 1) 0
  if r * r = a then (r, d * 2 ^ k) else (2 * r + 1, 2 * d * 2 ^ k)

/-- The square root (R77). -/
def FFmt.sqrt (f : FFmt) (m : Round) (x : Nat) : Nat × Word :=
  match f.decode x with
  | .nan s => (f.nanBits, if s then flagNV else 0)
  | .inf s => if s then (f.nanBits, flagNV) else (f.infBits, 0)
  | .fin s n d =>
    if n = 0 then (if s then f.signBit else 0, 0)
    else if s then (f.nanBits, flagNV)
    else let (a, b) := sqrtFrac n d; f.round m .ieee false a b

/-- x * y + z, or z - x * y, rounded once. -/
def FFmt.fma (f : FFmt) (m : Round) (x y z : Nat) (negProduct : Bool) : Nat × Word :=
  let (p, i) := FVal.mul (f.decode x) (f.decode y)
  let (v, j) := FVal.add m (p.signed negProduct) (f.decode z)
  f.deliver m .ieee v (i || j || (f.decode z).snan)

/-- The order of two values that are no NaN, -0 below +0 (R76). -/
def FVal.lt (a b : FVal) : Bool :=
  match a, b with
  | .inf s, .inf t => s && !t
  | .inf s, _ => s
  | _, .inf t => !t
  | .fin s n d, .fin t k e =>
    if n = 0 && k = 0 then s && !t
    else if s != t then s
    else if s then k * d < n * e else n * e < k * d
  | _, _ => false

/-- The numeric order, in which -0 and +0 are equal. -/
def FVal.less (a b : FVal) : Bool :=
  match a, b with
  | .fin _ 0 _, .fin _ 0 _ => false
  | x, y => FVal.lt x y

/-- minimumNumber and maximumNumber (R76), with the bits of the operand chosen. -/
def FFmt.minMax (f : FFmt) (wantMax : Bool) (x y : Nat) : Nat × Word :=
  let a := f.decode x
  let b := f.decode y
  let nv := if a.snan || b.snan then flagNV else 0
  if a.isNan && b.isNan then (f.nanBits, nv)
  else if a.isNan then (y, nv)
  else if b.isNan then (x, nv)
  else (if wantMax then (if FVal.lt a b then y else x) else (if FVal.lt b a then y else x), nv)

/-- The sign bit of an encoding changed or cleared (R75). -/
def FFmt.absBits (f : FFmt) (x : Nat) : Nat := x % f.signBit
/-- The sign bit inverted. -/
def FFmt.negBits (f : FFmt) (x : Nat) : Nat := if x / f.signBit % 2 = 1 then x - f.signBit else x + f.signBit

/-! ## Integers (R72, R73) -/

/-- The value of w bits read as signed or natural. -/
def intVal (signed : Bool) (w x : Nat) : Int := if signed && 2 ^ (w - 1) ≤ x then (x : Int) - 2 ^ w else x

/-- The smallest value of a w-bit format. -/
def intMin (signed : Bool) (w : Nat) : Int := if signed then -(2 ^ (w - 1)) else 0
/-- The largest value of a w-bit format. -/
def intMax (signed : Bool) (w : Nat) : Int := if signed then 2 ^ (w - 1) - 1 else 2 ^ w - 1

/-- The low w bits of an integer. -/
def intWrap (w : Nat) (i : Int) : Nat := (i % 2 ^ w).toNat

/-- An integer clamped to a format, with SAT when it is clamped (R73). -/
def intClamp (signed : Bool) (w : Nat) (i : Int) : Nat × Word :=
  if i < intMin signed w then (intWrap w (intMin signed w), flagSAT)
  else if intMax signed w < i then (intWrap w (intMax signed w), flagSAT)
  else (intWrap w i, 0)

/-- The quotient of R73: all ones on division by 0, the smallest value for its quotient by -1, truncation towards zero. -/
def intDiv (signed : Bool) (w x y : Nat) : Nat :=
  if y = 0 then 2 ^ w - 1 else intWrap w (Int.tdiv (intVal signed w x) (intVal signed w y))

/-- The remainder of R73: the dividend on division by 0, otherwise with the sign of the dividend. -/
def intRem (signed : Bool) (w x y : Nat) : Nat :=
  if y = 0 then x else intWrap w (Int.tmod (intVal signed w x) (intVal signed w y))

/-! ## Conversions (R87, R88) and NQ4 (R82-R84) -/

/-- A float converted to an integer format (R87). -/
def floatToInt (m : Round) (v : FVal) (signed : Bool) (w : Nat) : Nat × Word :=
  match v with
  | .nan _ => (0, flagNV)
  | .inf s => (intWrap w (if s then intMin signed w else intMax signed w), flagNV)
  | .fin s n d =>
    let (k, nx) := roundAt m s n d 0
    let i : Int := if s then -(k : Int) else k
    if i < intMin signed w then (intWrap w (intMin signed w), flagNV)
    else if intMax signed w < i then (intWrap w (intMax signed w), flagNV)
    else (intWrap w i, if nx then flagNX else 0)

/-- A float converted to a float format; s selects the overflow mode of FP8 destinations (R87). -/
def floatToFloat (m : Round) (v : FVal) (dst : FFmt) (ovf : Bool) : Nat × Word :=
  let fp8 : Bool := dst.ebits + dst.fbits = 7
  let o := if fp8 && !ovf then Over.sat else .ieee
  match v with
  | .nan s => (dst.nanBits, if s then flagNV else 0)
  | .inf s =>
    if dst.inf then ((if s then dst.signBit else 0) + dst.infBits, 0)
    else if ovf then (dst.nanBits, flagNV)
    else ((if s then dst.signBit else 0) + dst.maxBits, flagOF ||| flagNX)
  | .fin s n d =>
    let (b, fl) := dst.round m o s n d
    (if !dst.inf && b % dst.signBit = dst.nanBits then dst.nanBits else b, fl)

/-- An integer converted to a float format (R87). -/
def intToFloat (m : Round) (i : Int) (dst : FFmt) (ovf : Bool) : Nat × Word :=
  floatToFloat m (.fin (decide (i < 0)) i.natAbs 1) dst ovf

/-- An integer converted to an integer format (R87): clamped under SAT, low bits under OVF. -/
def intToInt (i : Int) (signed : Bool) (w : Nat) (ovf : Bool) : Nat × Word :=
  if ovf then (intWrap w i, 0) else intClamp signed w i

/-- The NQ4 codebook: level q has the value nq4Level q / 512 (R82). -/
def nq4Level (q : Nat) : Int :=
  #[-512, -356, -260, -188, -126, -70, -31, 0, 31, 70, 126, 188, 260, 356, 432, 512].getD q 0

/-- The index whose level lies nearest to (sign) n / d, a tie going to the even index; the value is clamped to [-1, 1] first
(R84 step 3). -/
def nq4Nearest (neg : Bool) (n d : Nat) : Nat :=
  if n = 0 then 7 else
  let n := min n d
  let x : Int := if neg then -((n * 512 : Nat) : Int) else ((n * 512 : Nat) : Int)
  let dist (q : Nat) : Nat := (x - nq4Level q * d).natAbs
  (List.range 16).foldl (fun best q =>
    if dist q < dist best || (dist q = dist best && q % 2 = 0 && best % 2 = 1) then q else best) 0

/-- A value quantised to NQ4 with a scale (R84 steps 3 and 4, R88, 05_vector_ops.md R145): the index, NV for a NaN or an
invalid quotient, and NX when the index does not decode back to the value. Whether a NaN raises NX too can be read either way; the model's
choice is NV alone (DESIGN CHOICE; log 99). -/
def toNq4 (v s : FVal) : Nat × Word :=
  match v, s with
  | .nan _, _ => (7, flagNV)
  | _, .nan _ => (7, flagNV)
  | .inf _, .inf _ => (7, flagNV)
  | .fin _ _ _, .inf _ => (7, 0)
  | .inf a, .fin b n _ => (if n = 0 then 7 else if a != b then 0 else 15, flagNX)
  | .fin a n d, .fin b sn sd =>
    if sn = 0 then (7, if n = 0 then 0 else flagNX)
    else
      let neg := a != b
      let q := nq4Nearest neg (n * sd) (d * sn)
      let x : Int := (if neg then -1 else 1) * ((n * sd * 512 : Nat) : Int)
      (q, if x = nq4Level q * ((d * sn : Nat) : Int) then 0 else flagNX)

/-- The scale 1, of unscaled conversions (R88). -/
abbrev FVal.one : FVal := .fin false 1 1

/-- The value of an NQ4 index with code c under a super-scale S (R83), and whether it is invalid. -/
def nq4Value (q c : Nat) (S : FVal) : FVal × Bool :=
  let lv := nq4Level q
  match S with
  | .nan _ => (.nan false, true)
  | .inf s => if lv = 0 then (.nan false, true) else (.inf (s != decide (lv < 0)), false)
  | .fin s n d => (.fin (s != decide (lv < 0)) (n * (c + 1) * lv.natAbs) (d * 131072), false)

/-- The exact sum of values that are no NaN; infinities of both signs give a NaN (R91, R92). -/
def exactSum (xs : List FVal) : FVal :=
  let pos := xs.any (fun x => x == .inf false)
  let neg := xs.any (fun x => x == .inf true)
  if pos && neg then .nan false
  else if pos then .inf false
  else if neg then .inf true
  else
    let allNegZero := xs.all (fun x => match x with
      | .fin true 0 _ => true
      | _ => false)
    let (n, d) := xs.foldl (fun (acc : Int × Nat) x => match x with
      | .fin s a b => (acc.1 * b + (if s then -(a : Int) else a) * acc.2, acc.2 * b)
      | _ => acc) (0, 1)
    .fin (if n = 0 then allNegZero else decide (n < 0)) n.natAbs d

/-- A NaN, an infinity or a fraction that an encoding of a float or NQ4 format has. -/
def sourceVal (fmt sew x : Nat) : FVal :=
  if fmt = 6 then .fin (decide (nq4Level x < 0)) (nq4Level x).natAbs 512
  else ((floatFmt fmt sew).getD fp32).decode x

/-! ## The stochastic-rounding generator (R80) -/

/-- One step of SRND. -/
def srndStep (r : BitVec 32) : BitVec 32 := if r.getLsbD 0 then (r >>> 1) ^^^ 0x80200003#32 else r >>> 1

/-- The mode of FCS.RM for an element, with SRND after it: under RSR the generator steps once. -/
def roundOf (rm : BitVec 3) (r : BitVec 32) : Round × BitVec 32 :=
  match rm.toNat with
  | 0 => (.rne, r)
  | 1 => (.rtz, r)
  | 2 => (.rup, r)
  | 3 => (.rdn, r)
  | _ => let r' := srndStep r; (.rsr (r'.toNat / 2 ^ 8), r')

/-- The mode of FCS.RM with RNE in place of RSR (R81). -/
def roundNoRsr (rm : BitVec 3) : Round :=
  match rm.toNat with
  | 1 => .rtz
  | 2 => .rup
  | 3 => .rdn
  | _ => .rne

end Sys2Proof.Machine
end

