-- ==== Sys2Proof/Machine/Operands.lean ====
section
/-! DEFINITION. Every operand form: scalar registers, vector groups and their elements, masks and predicates, granules, and
the configuration that an instruction reads (01_thread.md R12-R23, R34, R35). -/

namespace Sys2Proof.Machine

/-! ## Scalar registers (R12) -/

/-- A scalar register; x0 reads 0. -/
def Thread.rx (t : Thread) (r : BitVec 5) : Word := if r = 0 then 0 else t.x[r.toNat]
/-- A scalar register written; a write to x0 is discarded. -/
def Thread.wx (t : Thread) (r : BitVec 5) (v : Word) : Thread := if r = 0 then t else { t with x := t.x.set r.toNat v }

/-- The thread that runs reads a scalar register. -/
abbrev State.x (s : State) (r : BitVec 5) : Word := s.th.rx r
/-- The thread that runs writes a scalar register. -/
def State.wx (s : State) (r : BitVec 5) (v : Word) : State := { s with th := s.th.wx r v }

/-! ## VTYPE, VL and groups (R13-R19) -/

/-- VTYPE.SEW. -/
abbrev vtSew (w : Word) : Nat := (bits w 0 3).toNat
/-- VTYPE.FMT. -/
abbrev vtFmt (w : Word) : Nat := (bits w 4 4).toNat
/-- G, from VTYPE.LG. -/
abbrev vtG (w : Word) : Nat := 2 ^ (bits w 8 2).toNat
/-- SEW in bits. -/
abbrev vtBits (w : Word) : Nat := 4 * 2 ^ vtSew w

/-- R14, R15: whether a VTYPE value is legal. -/
def vtypeLegal (w : Word) : Bool :=
  let sew := vtSew w
  let pair := match vtFmt w with
    | 0 => sew ≤ 4
    | 1 => 1 ≤ sew && sew ≤ 4
    | 2 => 2 ≤ sew && sew ≤ 4
    | 3 => sew == 2
    | 4 => sew == 1
    | 5 => sew == 1
    | 6 => sew == 0
    | _ => false
  pair && !bit w 3 && bits w 10 54 == 0 && !(vtG w == 8 && sew == 0)

/-- VLMAX for a VTYPE value and gang state (R16). -/
def vlmax (w : Word) (gang : Bool) : Nat :=
  if gang then min (vtG w * 16384 / vtBits w) 16384 else min (vtG w * 8192 / vtBits w) 8192

/-- The bits of a vector register that the thread uses: RB of R18, in bits. -/
abbrev Thread.rb (t : Thread) : Nat := if t.gang then 16384 else 8192
/-- Granules per register (R24). -/
abbrev Thread.gpr (t : Thread) : Nat := if t.gang then 4 else 2
/-- The highest progress index, "full" (R24). -/
abbrev Thread.fullIndex (t : Thread) : BitVec 3 := if t.gang then 4 else 2

/-- VL after VTYPE or the gang state changes: min(VL, VLMAX) (R17). -/
def Thread.clampVl (t : Thread) : Thread :=
  { t with vl := if vlmax t.vtype t.gang < t.vl.toNat then BitVec.ofNat 15 (vlmax t.vtype t.gang) else t.vl }

/-- The registers of a group whose elements of `w` bits stand beside G registers of SEW bits (R19, R160). -/
def groupSize (vtype : Word) (w : Nat) : Nat := max 1 (vtG vtype * w / vtBits vtype)

/-! ## Elements (R4, R18) -/

/-- n bits of a bit vector from `lo` on replaced by a number. -/
def setBits {n : Nat} (v : BitVec n) (lo w : Nat) (x : Nat) : BitVec n :=
  (v &&& ~~~(BitVec.ofNat n (2 ^ w - 1) <<< lo)) ||| (BitVec.ofNat n (x % 2 ^ w) <<< lo)

/-- Element i, of w bits, of the group at a base register. -/
def Thread.elem (t : Thread) (base : Nat) (w i : Nat) : Nat :=
  ((vread t.v (base + i * w / t.rb)).extractLsb' (i * w % t.rb) w).toNat

/-- Element i, of w bits, of the group at a base register written. -/
def Thread.setElem (t : Thread) (base : Nat) (w i x : Nat) : Thread :=
  let r := base + i * w / t.rb
  { t with v := vwrite t.v r (setBits (vread t.v r) (i * w % t.rb) w x) }

/-- Several elements written in order. -/
def Thread.setElems (t : Thread) (base w : Nat) (es : List (Nat × Nat)) : Thread :=
  es.foldl (fun t e => t.setElem base w e.1 e.2) t

/-! ## Masks (R34, R35) -/

/-- The top of the mask stack: all ones when the stack is empty. -/
def Thread.maskTop (t : Thread) : BitVec 16384 :=
  if t.msdepth = 0 then BitVec.allOnes 16384 else vread t.ms (t.msdepth.toNat - 1)

/-- active(i): whether an instruction with predicate bit k treats element i as active (00_scope.md R9; R35). -/
def Thread.active (t : Thread) (k : Bool) (i : Nat) : Bool := !k || t.maskTop.getLsbD i

/-- A bit of a mask register written. -/
def Thread.setMaskBit (t : Thread) (m i : Nat) (b : Bool) : Thread :=
  { t with m := vwrite t.m m (setBits (vread t.m m) i 1 b.toNat) }

/-! ## Shape and granules (R22, R23) -/

/-- The columns of a row: VSHAPE.COLS, or the whole vector. -/
def rowLen (cols vl : Nat) : Nat := if cols = 0 || vl ≤ cols then vl else cols
/-- The row of an element. -/
def rowOf (cols i : Nat) : Nat := if cols = 0 then 0 else i / cols
/-- The column of an element. -/
def colOf (cols i : Nat) : Nat := if cols = 0 then i else i % cols

/-- The granules of an instruction whose counting operand is a group of G registers. -/
abbrev Thread.granules (t : Thread) (g : Nat) : Nat := g * t.gpr

/-- The elements of granule g below VL when the counting operand's elements have w bits. -/
def granuleElems (w vl g : Nat) : List Nat :=
  let lo := ceilDivN (g * 4096) w
  let hi := min vl (ceilDivN ((g + 1) * 4096) w)
  (List.range (hi - lo)).map (· + lo)
where
  /-- Division rounded up. -/
  ceilDivN (a b : Nat) : Nat := (a + b - 1) / b

/-- granule_done of R24: the index of the register that holds granule g of a group. -/
def Thread.granuleDone (t : Thread) (base g : Nat) : Thread :=
  { t with prog := vwrite t.prog (base + g / t.gpr) (BitVec.ofNat 3 (g % t.gpr + 1)) }

/-- Set the progress indices of the registers of a group. -/
def Thread.setProg (t : Thread) (base n : Nat) (p : BitVec 3) : Thread :=
  { t with prog := (List.range n).foldl (fun v i => vwrite v (base + i) p) t.prog }

/-! ## Uncorrectable register words (09_core.md R220)

Thread.badRegs lists (array, register, word): array 1 the v registers, 2 the m registers 0-15 and the mask-stack entries from
16 on, 3 the accumulators. -/

/-- EVAL of cause 0x2B (09 R222). -/
def badWordVal (array reg word : Nat) : Word := BitVec.ofNat 64 (reg % 2 ^ 8 + array * 2 ^ 8 + (word * 8) % 2 ^ 16 * 2 ^ 16)

/-- The lowest uncorrectable word of a register that bytes lo to hi - 1 touch, as the EVAL of cause 0x2B. -/
def Thread.badIn (t : Thread) (array reg lo hi : Nat) : Option Word :=
  match t.badRegs.find? (fun p => p.1 == array && p.2.1 == reg && p.2.2 * 8 < hi && lo < p.2.2 * 8 + 8) with
  | some p => some (badWordVal array reg p.2.2)
  | none => none

/-- The same for group bytes lo to hi - 1 of the v group at a base register (R18). -/
def Thread.badGroup (t : Thread) (base lo hi : Nat) : Option Word :=
  let rb := t.rb / 8
  (List.range (hi / rb + 1 - lo / rb)).findSome? (fun j =>
    let r := lo / rb + j
    t.badIn 1 (base + r) (max lo (r * rb) - r * rb) (min hi (r * rb + rb) - r * rb))

/-- The same for bits lo to hi - 1 of the mask-stack top. The number of a mask-stack entry in EVAL and in ERRADDR.REG the manual does not
give; the model's choice is 16 plus its place in the stack, behind the m registers of the same array (DESIGN CHOICE; log 127). -/
def Thread.badTop (t : Thread) (lo hi : Nat) : Option Word :=
  if t.msdepth = 0 || hi ≤ lo then none else t.badIn 2 (16 + t.msdepth.toNat - 1) (lo / 8) ((hi + 7) / 8)

/-- The words of bytes lo to hi - 1 of a v group that a write covers whole are good again. -/
def Thread.mendGroup (t : Thread) (base lo hi : Nat) : Thread :=
  match t.badRegs with
  | [] => t
  | l => { t with badRegs := l.filter (fun p => !(p.1 == 1 && base ≤ p.2.1 &&
      lo ≤ (p.2.1 - base) * (t.rb / 8) + p.2.2 * 8 && (p.2.1 - base) * (t.rb / 8) + p.2.2 * 8 + 8 ≤ hi)) }

/-- Whether an instruction is an operation of its stream, whose elements count (07_streams.md R185). -/
def VKind.counts : VKind → Bool
  | .load _ => true
  | .store _ => true
  | .atom _ => true
  | .comb _ => true
  | .fullEmpty _ => true
  | .pop => true
  | .tsend => true
  | .copy => true
  | .tileLoad _ => true
  | _ => false

/-- Whether a queued instruction is an operation of its stream for OC: one with VL = 0 is none, but for those that do not count over VL
(07_streams.md R185; 10_matrix.md R234; 12_cluster.md R278). -/
def VOp.counts (op : VOp) : Bool :=
  op.kind.counts && (op.vl != 0 || match op.kind with
    | .copy => true
    | .tileLoad _ => true
    | _ => false)

/-! ## The scalar state (R32) -/

/-- The scalar state as it stands, to fall back to (R32). -/
def Thread.snap (t : Thread) : Snap :=
  { x := t.x, e := t.e, h := t.h, feeds := t.feeds, tiles := t.tiles, lc := t.lc, ls := t.ls, le := t.le,
    ldepth := t.ldepth, vl := t.vl, vtype := t.vtype, cols := t.cols }

/-- The thread with its scalar state put back to a snapshot. -/
def Thread.restoreSnap (t : Thread) (p : Snap) : Thread :=
  { t with
    x := p.x, e := p.e, h := p.h, feeds := p.feeds, tiles := p.tiles, lc := p.lc, ls := p.ls, le := p.le,
    ldepth := p.ldepth, vl := p.vl, vtype := p.vtype, cols := p.cols }

/-- The entries of the vector queue that are not in the matrix pipe, the oldest first (01_thread.md R27; 10_matrix.md R238). -/
def Thread.front (t : Thread) : List VEntry := t.vq.dropWhile (·.piped)

/-- Whether the vector queue takes another instruction (01_thread.md R27). -/
def Thread.queueRoom (t : Thread) : Bool := t.vq.length < 64

/-- The thread as its oldest queued vector instruction leaves it: everything younger is discarded with the queue, the scalar state that
ran ahead and the accesses that have not been counted (R32; 07_streams.md R186). -/
def Thread.discardYounger (t : Thread) : Thread :=
  match t.front with
  | [] => { t with vq := [], window := 0 }
  | q :: _ => { t.restoreSnap q.snap with vq := [], window := 0 }

end Sys2Proof.Machine
end

