-- ==== Sys2Proof/Machine/Access.lean ====
section
/-! DEFINITION. Accesses: the checks of R151, reads and writes at a place, stream counting, pending elements, combining
buffers, outbound write buffers and the sync-variable table (06_memory_isa.md, 07_streams.md, 13_die_memory.md R312-R315,
18_fabric.md R411-R414). -/

namespace Sys2Proof.Machine

/-- The agent of a thread: its ASID and privilege (R151). -/
def State.agentOf (s : State) (slot : Nat) : Agent := ⟨(s.thread slot).asid, (s.thread slot).priv, slot, []⟩
/-- The thread that runs, as an agent. -/
def State.agent (s : State) : Agent := ⟨s.th.asid, s.th.priv, s.cur, []⟩

/-! ## Reports and counters -/

/-- A report of an asynchronous fault joins the thread's queue of eight, or counts into ALOST (11_traps.md R254). -/
def Thread.report (t : Thread) (r : Report) : Thread :=
  if t.reports.length < 8 then { t with reports := t.reports ++ [r] } else { t with alost := satAdd t.alost 1 }

/-- Elements of an operation complete: c_sn rises, and the operation ends when none is left (07_streams.md R185). -/
def Thread.complete (t : Thread) (op n : Nat) : Thread :=
  match t.ops.find? (fun o => o.id == op) with
  | none => t
  | some o =>
    { t with
      cc := vwrite t.cc o.sn.toNat (vread t.cc o.sn.toNat + BitVec.ofNat 64 n)
      ops := t.ops.filterMap (fun q => if q.id == op then (if q.left ≤ n then none else some { q with left := q.left - n })
        else some q) }

/-- Elements of an operation of a slot's thread complete. -/
def State.complete (s : State) (slot op n : Nat) : State := s.setThread slot ((s.thread slot).complete op n)

/-- n elements counted into ic_sn as part of an operation that is outstanding until they complete (R153, R185). -/
def Thread.issueOp (t : Thread) (sn : BitVec 3) (op n : Nat) : Thread :=
  { t with
    ic := vwrite t.ic sn.toNat (vread t.ic sn.toNat + BitVec.ofNat 64 n)
    ops := if n = 0 then t.ops
      else if t.ops.any (fun o => o.id == op)
        then t.ops.map (fun o => if o.id == op then { o with left := o.left + n } else o)
        else t.ops ++ [⟨op, sn, n⟩]
    nextOp := max t.nextOp (op + 1) }

/-- n elements counted and complete at once. -/
def Thread.countNow (t : Thread) (sn : BitVec 3) (n : Nat) : Thread :=
  { t with
    ic := vwrite t.ic sn.toNat (vread t.ic sn.toNat + BitVec.ofNat 64 n)
    cc := vwrite t.cc sn.toNat (vread t.cc sn.toNat + BitVec.ofNat 64 n) }

/-- An entry of the vector queue frees: the accesses behind it count, and the scalar instructions behind it may commit once no older
entry is left (01_thread.md R27, R28; 07_streams.md R186). -/
def Thread.freeEntry (t : Thread) (id : Nat) : Thread :=
  let older := t.vq.takeWhile (fun q => q.op.id != id)
  match t.vq.drop older.length with
  | [] => t
  | q :: rest =>
    let t := q.counts.foldl (fun t sn => t.countNow sn 1) t
    let t := match older.getLast? with
      | none => { t with vq := rest, window := t.window + q.younger }
      | some o => { t with vq := older.dropLast ++ { o with younger := o.younger + q.younger } :: rest }
    match t.front with
    | n :: _ => { t with feedsArch := n.snap.feeds, tilesArch := n.snap.tiles }
    | [] => { t with feedsArch := t.feeds, tilesArch := t.tiles }

/-- OC of a stream (R185). -/
def Thread.oc (t : Thread) (sn : BitVec 3) : Nat := (t.ops.filter (fun o => o.sn == sn)).length

/-! ## Dormers and seals -/

/-- The Dormer entry of a tag 0xC address at a reader die (13_die_memory.md R319). -/
def dormerOf (d : Die) (asid : BitVec 12) (a : Word) : Option Dormer :=
  d.dormers.find? (fun e => e.didx == (bits a 48 8).toNat && e.asid == asid && decide ((bits a 0 48).toNat < e.len))

/-- Whether an address lies in a sealed region of an ASID at its home (R317). -/
def sealedAt (d : Die) (asid : BitVec 12) (a : Word) (n : Nat) : Bool :=
  d.seals.any (fun e => e.asid == asid && e.chan == chanOf a && e.off < offOf a + n && offOf a < e.off + e.len)

/-- Whether n bytes at a Larder offset overlap a live tile region (10_matrix.md R225). -/
def inRegion (c : Cluster) (off n : Nat) : Bool := c.regions.any (fun r => r.off < off + n && off < r.off + r.size)

/-! ## The checks of R151 -/

/-- Whether an agent's element is held for a page, and if so whether service has been refused to it (13_die_memory.md R306): of a thread its
wait says so, by a clear VALID of its image, of an engine its hold at the home does. -/
def pageHeld (s : State) (ag : Agent) (home : Nat) (img : Word) : Option Bool :=
  match ag.who with
  | [] => match (s.thread ag.slot).wait with
    | some (.service h i) => if h = home && pageName i == pageName img then some (!bit i 63) else none
    | _ => none
  | w => ((s.die home).holds.find? (fun h => h.who == w && h.what == (pageName img).toNat)).map (·.failed)

/-- Whether an engine's request to a node has waited for FABTO (18_fabric.md R414). -/
def nodeLost (s : State) (ag : Agent) (node : Nat) : Bool :=
  !ag.who.isEmpty && s.dies.any (fun d => d.2.lost.any (fun h => h.who == ag.who && h.what == node && h.failed))

/-- The place of a pod address for an agent, by translation and permission at the home (steps 5 and 6, R414). An element that is held for a
page walks again only when the answer is RETRY (13_die_memory.md R306). -/
def podPlace (s : State) (ag : Agent) (write : Bool) (a ea : Word) : Except Stop Nat :=
  let node := slotNode ag.slot
  let home := s.homeOf node a
  if !s.reachable (slotDie ag.slot) (nodeOf a) then
    .error (if nodeLost s ag (nodeOf a) then .trap 0x60 ea else .wait (.unreachable ea (nodeOf a))) else
  if s.migrating home ag.asid a then .error (.wait (.migrating home)) else
  let img := fsImage ag.asid a write (!ag.sys)
  let held := pageHeld s ag home img
  if held == some true then .error (.trap 0x43 ea) else
  if held == some false && (s.die home).fsreqs.any (fun r => pageName r.page == pageName img) then .error (.wait (.service home img)) else
  match walk s home ag.asid a with
  | .absent true => .error (.wait (.service home img))
  | .absent false => .error (.trap 0x21 ea)
  | .bad => .error (.trap 0x21 ea)
  | .poisoned _ => .error (.trap 0x2C ea)
  | .leaf dpa wr user _ =>
    if (write && !wr) || (!ag.sys && !user) then .error (.trap 0x22 ea)
    else if 0x60000000 ≤ dpa % 2 ^ 31 then .error (.fault .noSuchDpa)
    else .ok (podKey home dpa)

/-- The line of a place by its addresses in a span of n bytes of an ASID, as an engine of a die reaches the span: each piece of 64 KiB
by its own translation. -/
def spanLines (s : State) (die : Nat) (asid : BitVec 12) (base : Word) (n key : Nat) : List Word :=
  if n = 0 then [] else
  let lo := base.toNat
  (List.range ((lo + n - 1) / 65536 + 1 - lo / 65536)).filterMap (fun i =>
    let page := (lo / 65536 + i) * 65536
    let home := s.homeOf (die / 8) (BitVec.ofNat 64 page)
    match walk s home asid (BitVec.ofNat 64 page) with
    | .leaf dpa _ _ _ =>
      let frame := podKey home dpa
      let line := (page + (key - frame)) / 128 * 128
      if frame ≤ key && key < frame + 65536 && line < lo + n && lo < line + 128 then some (BitVec.ofNat 64 line) else none
    | _ => none)

/-- Word i of step j of a sequencer's program (12_cluster.md R289). -/
def SeqRun.word (q : SeqRun) (j i : Nat) : Word := q.words.getD (4 + 4 * j + i) 0
/-- KIND of step j. -/
def SeqRun.kind (q : SeqRun) (j : Nat) : Nat := (bits (q.word j 0) 0 3).toNat
/-- NSTEP of a program that has been read. -/
def SeqRun.count (q : SeqRun) : Nat := (bits (q.words.getD 0 0) 0 5).toNat

/-- Whether a copy engine owns the line of a place: a line of the destination of a COPY, or of a COPY step of a sequencer, that is still
to be written (07 R191; 12_cluster.md R290). -/
def ownedByCopy (s : State) (key : Nat) : Bool :=
  let owns (die : Nat) (asid : BitVec 12) (dst size : Word) (copied : Nat) : Bool := tagOf dst == 0 &&
    !(spanLines s die asid (dst + BitVec.ofNat 64 copied) ((bits size 0 40).toNat - copied) key).isEmpty
  s.dies.any (fun p => p.2.copies.any (fun j => owns p.1 j.asid j.dst j.size j.copied))
    || s.clusters.any (fun c => match c.2.seqNow with
      | some q => q.step < q.count && q.kind q.step == 0 && owns (c.1 / 16) q.asid (q.word q.step 1) (q.word q.step 3) q.copied
      | none => false)

/-- Whether a view engine owns the line of a place, for a capture of its own or one posted to the host: a line of a block that is captured
and has not been written (07 R191; 17 R394). -/
def viewOwns (s : State) (posted : Bool) (key : Nat) : Bool :=
  s.dies.any (fun p => p.2.views.any (fun e => e.2.blocks.zipIdx.any (fun k =>
    k.1.capturing && k.1.written.isNone && k.1.host.isSome == posted &&
    let v := e.2
    let lines (q : Word × Nat) : List Word := spanLines s p.1 v.asid q.1 q.2 key
    ((v.scaleSpans k.2).any (fun q => !(lines q).isEmpty)
      || (v.tileSpans k.2).any (fun q => (lines q).any (fun line =>
        (lineCoords v.layout.toNat v.vb v.shape line).any (fun c => c.1 / 16384 == k.2)))))))

/-- Whether a view engine owns the line of a place. -/
def ownedByView (s : State) (key : Nat) : Bool := viewOwns s false key || viewOwns s true key

/-- Whether a relayout engine owns the line of a place, for a conversion of its own or one posted to the host: a line of a tile that is
being converted, or an old line that holds an element of one (14_views_layouts.md R343, R345; 07 R191; 17 R394). -/
def relayOwns (s : State) (posted : Bool) (key : Nat) : Bool :=
  s.dies.any (fun p => p.2.relays.any (fun e =>
    let r := e.2
    let t := hShape r.hand
    let new := hLayout r.hand
    let busy (tile : Nat) : Bool := r.tiles.getD tile .converted == .converting && r.host.any (fun h => h.1 == tile) == posted
    let holds (layout : Nat) (base : Word) (q : Word × Nat) : Bool := (spanLines s p.1 r.asid q.1 q.2 key).any (fun line =>
      (lineCoords layout base t line).any (fun c => busy (storageTile new t c.2)))
    r.tiles.any (· == .converting) && (
      (List.range r.tiles.length).any (fun k => busy k && holds new (hBase r.hand) (tileSpan new (hBase r.hand) t k))
      || (layoutSpans r.oldLayout.toNat r.altBase t).any (holds r.oldLayout.toNat r.altBase))))

/-- Whether a relayout engine owns the line of a place. -/
def ownedByRelay (s : State) (key : Nat) : Bool := relayOwns s false key || relayOwns s true key

/-- Whether an engine of a die owns the line of a place (07 R191). -/
def engineOwned (s : State) (key : Nat) : Bool := ownedByCopy s key || ownedByView s key || ownedByRelay s key

/-- Whether an access of a thread to the line of a place may perform: no engine owns the line, or it is not of pod memory (07 R191). -/
def State.lineFree (s : State) (key : Nat) : Bool := 2 ^ 60 ≤ key || !engineOwned s key

/-- The checks of R151 in their order for one element access of n bytes (align: its natural alignment; elem: its number, for
the EVAL of cause 0x29). -/
def checkPlace (s : State) (ag : Agent) (write : Bool) (n align elem : Nat) (a : Word) : Except Stop Place :=
  let t := s.thread ag.slot
  let misaligned : Bool := a.toNat % align != 0
  match tagOf a with
  | 0x0 =>
    if 127 < nodeOf a then .error (.trap 0x20 a)
    else if misaligned then .error (.trap 0x25 a)
    else match podPlace s ag write a a with
      | .error e => .error e
      | .ok key =>
        if write && sealedAt (s.die (s.homeOf (slotNode ag.slot) a)) ag.asid a n then .error (.trap 0x24 a)
        else .ok (.mem key)
  | 0x8 =>
    if bits a 23 37 != 0 then .error (.trap 0x20 a)
    else if misaligned then .error (.trap 0x25 a)
    else if 2 ^ 23 < (bits a 0 23).toNat + n then .error (.trap 0x20 a)
    else if write && inRegion (s.cluster (slotCluster ag.slot)) (bits a 0 23).toNat n then .error (.trap 0x33 a)
    else .ok (.mem (larderKey (slotCluster ag.slot) (bits a 0 23).toNat))
  | 0x9 =>
    let off := (bits a 0 14).toNat
    let lane := if t.gang then (bits a 14 7).toNat else (bits a 14 6).toNat
    if t.psize.toNat * 1024 < off + n then .error (.trap 0x29 (BitVec.ofNat 64 (elem * 2 ^ 32 + off)))
    else if (if t.gang then bits a 21 39 != 0 else bits a 20 40 != 0) then .error (.trap 0x20 a)
    else if misaligned then .error (.trap 0x25 a)
    else .ok (.mem (pantryKey (slotCore ag.slot + lane / 64) (lane % 64) (t.pbase.toNat * 1024 + off)))
  | 0xC =>
    match dormerOf (s.die (slotDie ag.slot)) ag.asid a with
    | none => .error (.trap 0x20 a)
    | some e =>
      if bits a 56 4 != 0 then .error (.trap 0x20 a)
      else if misaligned then .error (.trap 0x25 a)
      else if write then .error (.trap 0x22 a)
      else if e.dead then .error (.trap 0x60 a)
      else match podPlace s ag false (e.base + (bits a 0 48).zeroExtend 64) a with
        | .error st => .error st
        | .ok key => .ok (.mem key)
  | 0xF =>
    if 127 < nodeOf a then .error (.trap 0x20 a)
    else if misaligned || n != 8 then .error (.trap 0x25 a)
    else if !ag.sys then .error (.trap 0x22 a)
    else .ok (.reg a)
  | _ => .error (.trap 0x20 a)

/-- A thread's access: the checks of R151, then a wait while an engine owns the line of pod memory (07 R191). -/
def checkAccess (s : State) (ag : Agent) (write : Bool) (n align elem : Nat) (a : Word) : Except Stop Place :=
  match checkPlace s ag write n align elem a with
  | .ok (.mem key) => if key < 2 ^ 60 && engineOwned s key then .error (.wait (.recall key)) else .ok (.mem key)
  | r => r

/-- The first place of each line that n bytes at a place touch. -/
def spanKeys (key n : Nat) : List Nat :=
  (List.range (keyLine (key + n - 1) + 1 - keyLine key)).map (fun i => if i = 0 then key else (keyLine key + i) * 128)

/-- An access of n bytes that need not lie in one line, of a thread's frame or of the Distributor: the checks of R151, then a wait while an
engine owns a line of pod memory that it touches. -/
def checkSpan (s : State) (ag : Agent) (write : Bool) (n : Nat) (a : Word) : Except Stop Place :=
  match checkPlace s ag write n 1 0 a with
  | .ok (.mem key) => match (spanKeys key n).find? (fun k => !s.lineFree k) with
    | some k => .error (.wait (.recall k))
    | none => .ok (.mem key)
  | r => r

/-- The uncorrectable word that an access of n bytes at a place would meet, with its cause (R218, R271, R324): a read, or a
write of part of a word in the Larder or a Pantry. -/
def meetsBad (s : State) (ag : Agent) (write : Bool) (key n elem : Nat) (a : Word) : Except Stop Unit :=
  let bad := if write then s.partPoison key n && 2 ^ 60 ≤ key else s.poisoned key n
  if !bad then .ok ()
  else if 2 ^ 61 ≤ key then .error (.pantry (((s.poisonAt key n).getD 0) * 8) (BitVec.ofNat 64
    (elem * 2 ^ 32 + (key % 2 ^ 14 - (s.thread ag.slot).pbase.toNat * 1024))))
  else .error (.trap 0x2C a)

/-- The place of the uncorrectable word that an access of an agent at an address meets: an entry of its page tables, or a word at the
address. -/
def badWordOf (s : State) (ag : Agent) (a : Word) : Option Nat :=
  let entry := if tagOf a = 0 then match walk s (s.homeOf (slotNode ag.slot) a) ag.asid a with
      | .poisoned key => some key
      | _ => none
    else none
  match entry with
  | some key => some key
  | none => match checkPlace s ag false 1 1 0 a with
    | .ok (.mem key) => ((s.poisonAt key 8).orElse (fun _ => s.poisonAt key 128)).map (· * 8)
    | _ => none

/-- The address of the most recent uncorrectable word: in CELERRADDR of its die, whose bit ATTIC is a free value (log 5), or in LERRADDR
of its cluster (R324; 12_cluster.md R271). -/
def noteKey (s : State) (key : Nat) : State :=
  if key < 2 ^ 60 then
    let (w, s) := s.fresh
    s.setDie (keyDie key) { s.die (keyDie key) with
      celerraddr := BitVec.ofNat 64 (key % 2 ^ 37 / 8 * 8 + (bit w 0).toNat * 2 ^ 37 + 2 ^ 63) }
  else if key < 2 ^ 61 then
    let k := (key - 2 ^ 60) / 2 ^ 23
    s.setCluster k { s.cluster k with lerraddr := BitVec.ofNat 24 (key % 2 ^ 23 / 8 * 8 + 2 ^ 23) }
  else s

/-- The same for the word that an access of an agent at an address meets. -/
def noteWord (s : State) (ag : Agent) (a : Word) : State :=
  match badWordOf s ag a with
  | some key => noteKey s key
  | none => s

/-- A report for the thread in a slot, unless the slot has gone to another group since. -/
def State.queueReport (s : State) (slot : Nat) (grp : Option GroupRef) (r : Report) : State :=
  let t := s.thread slot
  if t.slot == .free || t.grp != grp then s else s.setThread slot (t.report r)

/-- The same, with the uncorrectable word at its address noted. -/
def State.report (s : State) (slot : Nat) (grp : Option GroupRef) (r : Report) : State :=
  (if r.cause = 0x2C then noteWord s (s.agentOf slot) r.val else s).queueReport slot grp r

/-! ## The sync-variable table and request counts (13_die_memory.md R299, R314) -/

/-- The scope that takes in a participant, a core of a die or the die's engines: 0 its own core, 1 its cluster, 2 the die, 3 the package,
4 the pod. -/
def scopeOf (e : SyncVar) (home die : Nat) (core : Option Nat) : BitVec 3 :=
  if die != home then (if die / 8 == home / 8 then 3 else 4)
  else match core with
    | none => 2
    | some c => if c == e.core then 0 else if c / 4 == e.core / 4 then 1 else 2

/-- PEAK of a slice raised to an occupancy (R325). -/
def Die.peak (d : Die) (sl n : Nat) : Die :=
  let up (w : Word) (j : Nat) : Word := if (bits w (8 * j) 8).toNat < n then setBits w (8 * j) 8 n else w
  if sl < 8 then { d with atpeak0 := up d.atpeak0 sl } else { d with atpeak1 := up d.atpeak1 (sl - 8) }

/-- A corrected word counts: in CELERR of its die, in LERRCE of its cluster, or in ERRCE.PANT of its core. -/
def countCorrected (s : State) (w : Nat × Bool) : State :=
  let key := w.1 * 8
  if key < 2 ^ 60 then
    let d := s.die (keyDie key)
    s.setDie (keyDie key) (if w.2 then { d with celerrCellar := satAdd d.celerrCellar 1 } else { d with celerrAttic := satAdd d.celerrAttic 1 })
  else if key < 2 ^ 61 then
    let k := (key - 2 ^ 60) / 2 ^ 23
    s.setCluster k { s.cluster k with lerrce := satAdd (s.cluster k).lerrce 1 }
  else
    let k := (key - 2 ^ 61) / 2 ^ 20
    s.setCore k { s.core k with errcePant := satAdd (s.core k).errcePant 1 }

/-- A read of n bytes corrects the single errors of the words that it touches. -/
def State.correct (s : State) (key n : Nat) : State :=
  let hit (w : Nat × Bool) : Bool := w.1 * 8 < key + n && key < w.1 * 8 + 8
  if !s.soft.any hit then s else
  (s.soft.filter hit).foldl countCorrected { s with soft := s.soft.filter (fun w => !hit w) }

/-- The entries that a walk reads, by their places (13_die_memory.md R303, R304). -/
def walkPath (s : State) (die : Nat) (asid : BitVec 12) (a : Word) : List Nat :=
  let e := podKey die ((s.die die).asidtab.toNat + asid.toNat * 16)
  let ka := podKey die ((bits (memWord s.mem e) 9 28).toNat * 512 + (chanOf a).toNat * 8)
  let kb := podKey die (tableOf (memWord s.mem ka) + (offOf a / 2 ^ 31) * 8)
  let kc := podKey die (tableOf (memWord s.mem kb) + (offOf a / 2 ^ 21 % 1024) * 8)
  let kd := podKey die (tableOf (memWord s.mem kc) + (offOf a / 2 ^ 16 % 32) * 8)
  let goes (k : Nat) : Bool := bit (memWord s.mem k) 0 && !bit (memWord s.mem k) 1
  [e, e + 8] ++ (if bit (memWord s.mem e) 0 then ka :: (if goes ka then kb :: (if goes kb then kc :: (if goes kc then [kd] else [])
    else []) else []) else [])

/-- A walk corrects the single errors of the entries that it reads (R324), and its home caches the translation of the address for an ASID,
where the die caches them (R305). -/
def cacheWalk (s : State) (asid : BitVec 12) (home : Nat) (a : Word) : State :=
  if (!s.translating.contains home && s.soft.isEmpty) || tagOf a != 0 then s else
  let d := s.die home
  if d.xlats.any (fun x => x.covers asid a) then s else
  let s := (walkPath s home asid a).foldl (fun s k => s.correct k 8) s
  let d := s.die home
  if !s.translating.contains home then s else
  match walkTables s home asid a with
  | .leaf dpa wr user size =>
    s.setDie home { d with xlats := d.xlats ++ [⟨asid, chanOf a, offOf a / size, dpa - offOf a % size, wr, user, size⟩] }
  | _ => s

/-- A line request is counted in ATACC (R297, R299, R300) where it is served: at the home of the line, or for an address under tag
0xC in the Attic of the die it comes from. The slice's queue holds it and a free number of others (R353; log 5), 64 at most. -/
def countRequest (s : State) (asid : BitVec 12) (die : Nat) (a : Word) (key : Nat) : State :=
  if 2 ^ 60 ≤ key then s else
  let s := cacheWalk s asid (keyDie key) a
  let home := if tagOf a = 0xC then die else keyDie key
  let sl := sliceOf (if tagOf a = 0xC then (bits a 0 48).toNat else key % 2 ^ 37)
  let d := s.die home
  let n := (Config.queued home sl (vread d.atacc sl)).toNat + 1
  s.setDie home ({ d with atacc := vwrite d.atacc sl (vread d.atacc sl + 1) }.peak sl n)

/-- An access of a participant to a line widens the scope of a live sync-variable entry of it, which is then the most recently used one
(R314, R315). -/
def touchFrom (s : State) (die : Nat) (core : Option Nat) (key : Nat) : State :=
  if 2 ^ 60 ≤ key then s else
  let home := keyDie key
  let d := s.die home
  match d.syncVars.find? (fun e => e.line == keyLine key) with
  | none => s
  | some e =>
    let e := { e with scope := BitVec.ofNat 3 (max e.scope.toNat (scopeOf e home die core).toNat)
                      dies := if e.dies.contains die then e.dies else e.dies ++ [die] }
    s.setDie home { d with syncVars := d.syncVars.filter (fun q => q.line != keyLine key) ++ [e] }

/-- An access of a core. -/
def touchLine (s : State) (core key : Nat) : State := touchFrom s (core / 64) (some core) key

/-- A line that a request reaches travels between dies (18_fabric.md R406, R410): the bytes that a write brings, or those that a read
fetches. -/
def travel (s : State) (die : Nat) (a : Word) (key n : Nat) (data : Option (List Byte)) : State :=
  match data with
  | some bs => putData s die a key bs
  | none => fetchData s die a key n

/-! ## Single errors and the scalar data cache (09_core.md R208, R217, R218; 12_cluster.md R271; 13_die_memory.md R310, R311, R324) -/

/-- Before a write of n bytes at an address of pod memory performs, the copies of its lines in scalar data caches and at the companion are
invalidated, and those of its 256-byte blocks in the cores whose registered ranges hold them. -/
def dropCached (s : State) (asid : BitVec 12) (a : Word) (key n : Nat) : State :=
  if 2 ^ 60 ≤ key then s else
  let d := s.die (keyDie key)
  let s := if d.hostLines.any (fun l => l * 128 < key + n && key < l * 128 + 128)
    then s.setDie (keyDie key) { d with hostLines := d.hostLines.filter (fun l => !(l * 128 < key + n && key < l * 128 + 128)) } else s
  if s.cores.all (fun c => c.2.dcache.isEmpty) then s else
  let ranged (core : Nat) (l : DataLine) : Bool := l.asid == asid
    && l.addr.toNat / 256 * 256 < a.toNat + n && a.toNat < l.addr.toNat / 256 * 256 + 256
    && (s.die (core / 64)).ranges.any (fun r => slotCore r.slot == core && (s.thread r.slot).asid == asid
      && r.base.toNat / 256 * 256 < a.toNat + n && a.toNat < r.base.toNat + r.len)
  { s with cores := s.cores.map (fun c => (c.1, { c.2 with
      dcache := c.2.dcache.filter (fun l => !(l.key < key + n && key < l.key + 128) && !ranged c.1 l) })) }

/-- Lines that a test picks leave the scalar caches of a die. -/
def dropLines (s : State) (die : Nat) (pick : DataLine → Bool) : State :=
  if s.cores.all (fun c => c.2.dcache.isEmpty) then s else
  { s with cores := s.cores.map (fun c => if c.1 / 64 != die then c else (c.1, { c.2 with dcache := c.2.dcache.filter (fun l => !pick l) })) }

/-- A Dormer's lines leave the caches of its reader die (R321; 18_fabric.md R415). -/
def dropDormerLines (s : State) (reader : Nat) (e : Dormer) : State :=
  dropLines s reader (fun l => l.asid == e.asid && tagOf l.addr == 0xC && (bits l.addr 48 8).toNat == e.didx)

/-- The lines of a core's instruction cache that a test keeps (09_core.md R209). -/
def keepCode (s : State) (core : Nat) (keep : CodeLine → Bool) : State :=
  let c := s.core core
  if c.icache.all keep then s else s.setCore core { c with icache := c.icache.filter keep }

/-- An invalidation of a core's instruction cache: the lines of an ASID, or all (R209, R216). -/
def invalCode (s : State) (core : Nat) (asid : BitVec 12) (all : Bool) : State :=
  keepCode s core (fun l => !all && l.asid != asid)

/-! ## Writes -/

/-- A store of bytes at a place, as a write event of an ASID at an address: memory, marks, views (R178, R324, 14 R328). A word that it
writes in part is read, and its single error corrected (09_core.md R218). -/
def storeBytes (s : State) (asid : BitVec 12) (a : Word) (key : Nat) (bs : List Byte) : State :=
  let s := ((dropCached s asid a key bs.length).putBytes key bs |>.clearPoison key bs.length).correct key bs.length
  if key < 2 ^ 60 then noteWrite s asid a bs.length false else s

/-- The value of a byte after a 4-bit element is written to it (R150). -/
def nibbleByte (old : Byte) (high : Bool) (v : Nat) : Byte :=
  if high then BitVec.ofNat 8 (old.toNat % 16 + v % 16 * 16) else BitVec.ofNat 8 (old.toNat / 16 * 16 + v % 16)

/-- A store of one element of w bits at a place. -/
def storeElem (s : State) (asid : BitVec 12) (a : Word) (key w : Nat) (high : Bool) (v : Nat) : State :=
  if w = 4 then storeBytes s asid a key [nibbleByte (memGet s.mem key) high v]
  else storeBytes s asid a key (leBytes (w / 8) v)

/-- One element of w bits read at a place. -/
def loadElem (s : State) (key w : Nat) (high : Bool) : Nat :=
  if w = 4 then (if high then (memGet s.mem key).toNat / 16 else (memGet s.mem key).toNat % 16)
  else leNat (memBytes s.mem key (w / 8))

/-- The new value and the old one of a returning atomic (R157, R163): x the operand, y the expected or new value of a
compare and swap. -/
def atomApply (op : AtomOp) (w : Nat) (signed : Bool) (old x y : Nat) : Nat :=
  match op with
  | .add => (old + x) % 2 ^ w
  | .min => if intVal signed w x < intVal signed w old then x else old
  | .max => if intVal signed w old < intVal signed w x then x else old
  | .or => old ||| x
  | .swap => x
  | .cas => if old = y then x else old

/-- A contribution combined with a value (R163, R312). -/
def combApply (op : CombOp) (w : Nat) (signed : Bool) (old x : Nat) : Nat :=
  let f := if w = 64 then fp64 else fp32
  match op with
  | .add => (old + x) % 2 ^ w
  | .min => if intVal signed w x < intVal signed w old then x else old
  | .max => if intVal signed w old < intVal signed w x then x else old
  | .fadd => (f.add .rne old x).1
  | .fmax => (f.minMax true old x).1

/-! ## Combining buffers (R192, R312, R313, R315) -/

/-- Whether a place is the pod memory of a package that the slot's die does not reach (18_fabric.md R401, R414). -/
def keyUnreachable (s : State) (slot key : Nat) : Bool := key < 2 ^ 60 && !s.reachesDie (slotDie slot) (keyDie key)

/-- Whether an entry can merge: its home can be reached (18_fabric.md R414), and no engine owns its line (07 R191). -/
def State.combFree (s : State) (e : Comb) : Bool := s.lineFree e.key && !keyUnreachable s e.slot e.key

/-- An entry merges at the home: each valid element is applied there. A contribution that meets a seal, or an uncorrectable
word, performs nothing and is reported (R317, R324). -/
def mergeComb (s : State) (c : Comb) : State :=
  let t := s.thread c.slot
  let s := countRequest (askHome s (slotDie c.slot) c.line c.key) c.asid (slotDie c.slot) c.line c.key
  c.vals.foldl (fun s p =>
    let key := c.key + p.off
    let a := c.line + BitVec.ofNat 64 p.off
    let fail (s : State) (cause : BitVec 7) : State :=
      p.parts.foldl (fun s q => s.report c.slot t.grp ⟨cause, c.sn, a, q.1, BitVec.ofNat 32 q.2⟩) s
    if sealedAt (s.die (keyDie key)) c.asid a (c.sew / 8) && key < 2 ^ 60 then fail s 0x24
    else if s.poisoned key (c.sew / 8) then fail s 0x2C
    else
      let s := s.correct key (c.sew / 8)
      storeBytes s c.asid a key
        (leBytes (c.sew / 8) (combApply c.op c.sew c.signed (loadElem s key c.sew false) p.val.toNat))) s

/-- The entries of a core that a test picks merge, oldest first; the others stay, and those that cannot merge yet. A withdrawn core merges
nothing (R313). -/
def mergeWhere (s : State) (core : Nat) (pick : Comb → Bool) : State :=
  let c := s.core core
  if c.dead || !c.comb.any pick then s else
  let pick (e : Comb) : Bool := pick e && s.combFree e
  (c.comb.filter pick).foldl mergeComb (s.setCore core { c with comb := c.comb.filter (fun e => !pick e) })

/-- The contributions of a core to lines of a home merge, to which the home of another die sends its flush request (R315; 18_fabric.md
R406). -/
def flushCore (s : State) (home core : Nat) (pick : Comb → Bool) : State :=
  if !(s.core core).comb.any (fun e => pick e && e.key < 2 ^ 60) then mergeWhere s core pick
  else mergeWhere (message s home (core / 64) 0x13 []) core pick

/-- An access reaches a line at its home: every contribution to it merges first (R192, R315). -/
def flushLine (s : State) (key : Nat) : State :=
  s.cores.foldl (fun s p => flushCore s (keyDie key) p.1 (fun e => keyLine e.key == keyLine key)) s

/-- The same for every line that n bytes at a place touch. -/
def flushRange (s : State) (key n : Nat) : State :=
  s.cores.foldl (fun s p => flushCore s (keyDie key) p.1
    (fun e => keyLine key ≤ keyLine e.key && keyLine e.key ≤ keyLine (key + n - 1))) s

/-- n bytes at a place are reached from a die, by a core of it or by an engine, to be read or to be replaced: contributions to their lines
merge first, and a request for each line counts, widens the line's scope, and travels to another die (R192, R299, R314, R315; 18_fabric.md
R410). The manual gives an engine no requests by line; the model's choice (log 106) is one for each element and line. -/
def reachFrom (s : State) (asid : BitVec 12) (die : Nat) (core : Option Nat) (a : Word) (key n : Nat) (data : Option (List Byte)) : State :=
  (spanKeys key n).foldl (fun s k =>
    let at_ := a + BitVec.ofNat 64 (k - key)
    let len := min (key + n) ((keyLine k + 1) * 128) - k
    countRequest (touchFrom (travel s die at_ k len (data.map (fun bs => (bs.drop (k - key)).take len))) die core k) asid die at_ k)
    (flushRange s key n)

/-- An entry for a line when a combining buffer registers it or a returning atomic reaches it, unless it has one, whose scope widens; a
full table of 4,096 replaces its least recently used entry, the first of the list, whose line is flushed first (R314, R315). -/
def registerLine (s : State) (core key : Nat) : State :=
  let home := keyDie key
  let d := s.die home
  if d.syncVars.any (fun e => e.line == keyLine key) then touchLine s core key
  else
    let e : SyncVar := { line := keyLine key, scope := if core / 64 == home then 0 else if core / 512 == home / 8 then 3 else 4,
                         core := core, dies := [core / 64] }
    let s := if d.syncVars.length < 4096 then s else match d.syncVars with
      | old :: _ => flushLine s (old.line * 128)
      | [] => s
    let d := s.die home
    s.setDie home { d with syncVars := (if d.syncVars.length < 4096 then d.syncVars else d.syncVars.drop 1) ++ [e] }

/-- The cores that a thread's elements come from: its own, and in a gang the next one. -/
def State.coresOf (s : State) (slot : Nat) : List Nat :=
  if (s.thread slot).gang then [slotCore slot, slotCore slot + 1] else [slotCore slot]

/-- The core whose lanes hold element i, of w bits, of a group of a slot's thread: in a gang its own or the next one. -/
def elemCore (s : State) (slot w i : Nat) : Nat := slotCore slot + i * w / 8 % ((s.thread slot).rb / 8) / 1024

/-- Whether a core's combining buffer has room, or an entry that can merge to make it (R312). -/
def combRoom (s : State) (core : Nat) : Bool := (s.core core).comb.length < 64 || (s.core core).comb.any s.combFree

/-- A contribution is accepted into a core's combining buffer (R312). -/
def acceptComb (s : State) (core : Nat) (c : Comb) (off : Nat) (v : Word) (part : Word × Nat) : State :=
  let k := s.core core
  let same (e : Comb) : Bool :=
    e.key == c.key && e.op == c.op && e.sew == c.sew && e.signed == c.signed && e.slot == c.slot && e.sn == c.sn
  if k.comb.any same then
    registerLine (s.setCore core { k with comb := k.comb.map (fun e => if same e then
      { e with vals := if e.vals.any (fun p => p.off == off)
          then e.vals.map (fun p => if p.off == off
            then ⟨off, BitVec.ofNat 64 (combApply c.op c.sew c.signed p.val.toNat v.toNat), p.parts ++ [part]⟩ else p)
          else e.vals ++ [⟨off, v, [part]⟩] } else e) }) core c.key
  else
    let s := if k.comb.length < 64 then s else
      match k.comb.find? s.combFree with
      | none => s
      | some e => mergeComb (s.setCore core { k with comb := k.comb.erase e }) e
    let k := s.core core
    registerLine (s.setCore core { k with comb := k.comb ++ [{ c with vals := [⟨off, v, [part]⟩] }] }) core c.key

/-! ## Line writes (18_fabric.md R412, R413) -/

/-- An element of a line write fails with a cause: it is reported. -/
def failElem (s : State) (w : LineWr) (cause : BitVec 7) (e : LineElem) : State :=
  s.report w.slot (s.thread w.slot).grp ⟨cause, w.sn, w.line + BitVec.ofNat 64 e.off, e.pc, BitVec.ofNat 32 e.idx⟩

/-- A line write whose home is unreachable ends (R414): its elements complete, and each failure is reported. -/
def endLine (s : State) (w : LineWr) : State :=
  w.elems.foldl (fun s e => (failElem s w 0x60 e).complete w.slot e.op 1) s

/-- An element of a line write performs at the home; one that covers only part of an uncorrectable word performs nothing and is reported
(R324). -/
def applyElem (s : State) (w : LineWr) (e : LineElem) : State :=
  let key := w.key + e.off
  let a := w.line + BitVec.ofNat 64 e.off
  if s.partPoison key e.data.length then failElem s w 0x2C e
  else match e.nib with
    | none => storeBytes s w.asid a key e.data
    | some high => storeElem s w.asid a key 4 high (let b := (e.data.headD 0).toNat; if high then b / 16 else b % 16)

/-- The home applies an arriving line write at one instant: its elements perform in their order, and complete when it acknowledges it
(R412, R413). -/
def applyLine (s : State) (w : LineWr) : State :=
  let s := flushLine s w.key
  let s := w.elems.foldl (fun s e => applyElem s w e) s
  let s := message s (keyDie w.key) (slotDie w.slot) 0x12 (leBytes 8 w.line.toNat)
  w.elems.foldl (fun s e => s.complete w.slot e.op 1)
    (countRequest (touchLine s (slotCore w.slot) w.key) w.asid (slotDie w.slot) w.line w.key)

/-- The entries of a core's outbound write buffer that a test picks are sent, oldest first; one whose home is not reachable waits
(R412, R414). -/
def sendWhere (s : State) (core : Nat) (pick : LineWr → Bool) : State :=
  let c := s.core core
  if !c.wbuf.any pick then s else
  let go (e : LineWr) : Bool := pick e && !keyUnreachable s e.slot e.key
  (c.wbuf.filter go).foldl (fun s w => sendLine s core w) (s.setCore core { c with wbuf := c.wbuf.filter (fun e => !go e) })

/-- The line write that a notice carries. -/
def NoticeRec.line? (n : NoticeRec) : Option LineWr :=
  match n.what with
  | .line w => some w
  | _ => none

/-- A line write of a slot that a test picks and that has not been applied: in a buffer, on its way, or at its home. -/
def lineOpen (s : State) (pick : LineWr → Bool) : Option LineWr :=
  match s.cores.findSome? (fun c => c.2.wbuf.find? pick) with
  | some w => some w
  | none => s.dies.findSome? (fun d => match d.2.lineWrites.find? pick with
    | some w => some w
    | none => (d.2.notices.filterMap NoticeRec.line?).find? pick)

/-- The bytes of a line that a write's elements cover. -/
def LineWr.full (w : LineWr) : Bool := (List.range 128).all (fun i => w.elems.any (fun e => e.off ≤ i && i < e.off + e.data.length))

/-- Whether n new entries find room in a core's write buffer: it has it, or every entry can be sent to make it (R412, R414). -/
def bufferRoom (s : State) (core n : Nat) : Bool :=
  let b := (s.core core).wbuf
  b.length + n ≤ 32 || b.all (fun e => !keyUnreachable s e.slot e.key)

/-- The core whose write buffer takes a store element of a slot to a line: the one of a gang's two that holds stores of the slot to the
line already, so that they keep their order (R182), or else the one it comes from. -/
def storeCore (s : State) (slot key core : Nat) : Nat :=
  ((s.coresOf slot).find? (fun c => (s.core c).wbuf.any (fun e => e.slot == slot && e.key == key))).getD core

/-- A store element whose home is another die enters its core's outbound write buffer (R412): it joins the entry of its line,
slot and stream or opens one, the oldest entry going first from a full buffer of 32; an entry of another stream of the slot
for the line is sent first, and an entry whose mask is full is sent. -/
def bufferStore (s : State) (core : Nat) (w : LineWr) : State :=
  let core := storeCore s w.slot w.key core
  let s := sendWhere s core (fun e => e.slot == w.slot && e.key == w.key && e.sn != w.sn)
  let c := s.core core
  let same (e : LineWr) : Bool := e.slot == w.slot && e.key == w.key && e.sn == w.sn
  if c.wbuf.any same then
    let s := s.setCore core { c with wbuf := c.wbuf.map (fun e => if same e then { e with elems := e.elems ++ w.elems } else e) }
    sendWhere s core (fun e => same e && e.full)
  else
    let s := if c.wbuf.length < 32 then s else
      match c.wbuf with
      | [] => s
      | e :: _ => sendWhere s core (· == e)
    let c := s.core core
    s.setCore core { c with wbuf := c.wbuf ++ [w] }

/-- The line writes of a slot that a test picks reach their homes at once, behind those that reached the lines before, and are applied, but
on a line that an engine owns (R410, R412, R413; 07 R191). -/
def landLines (s : State) (slot : Nat) (pick : LineWr → Bool) : State :=
  let pick (w : LineWr) : Bool := w.slot == slot && pick w
  let s := (s.coresOf slot).foldl (fun s c => sendWhere s c pick) s
  let src := slotDie slot
  s.dies.foldl (fun s p =>
    let die := p.1
    let mine (n : NoticeRec) : Bool := n.line?.any pick
    let s := if (s.die die).notices.any mine then flushLink (flushLink s src die false) src die true else s
    let d := s.die die
    let due (n : NoticeRec) : Bool := n.src == src && n.line?.isSome && n.due s die
    let arrived := d.lineWrites ++ (d.notices.filter due).filterMap NoticeRec.line?
    let go (w : LineWr) : Bool := s.lineFree w.key && arrived.any (fun q => pick q && keyLine q.key == keyLine w.key)
    if !arrived.any go then s else
    (arrived.filter go).foldl applyLine
      (s.setDie die { d with notices := d.notices.filter (fun n => !due n), lineWrites := arrived.filter (fun w => !go w) })) s

/-! ## Pending elements (06_memory_isa.md R154, R155) -/

/-- LCLR's action: every line that holds a byte of the range becomes EMPTY (12_cluster.md R273). -/
def clearLines (s : State) (cluster off len : Nat) : State :=
  if len = 0 then s else
  let c := s.cluster cluster
  s.setCluster cluster { c with full := c.full.filter (fun l => l < off / 128 || (off + len - 1) / 128 < l) }

/-- Whether a place is pod memory of another die than the thread's (18_fabric.md R412). -/
def remoteKey (slot key : Nat) : Bool := key < 2 ^ 60 && keyDie key != slotDie slot

/-- A failure of a pending element is reported. -/
def failPend (s : State) (slot : Nat) (p : Pend) (cause : BitVec 7) : State :=
  s.report slot (s.thread slot).grp ⟨cause, p.sn, p.addr, p.pc, BitVec.ofNat 32 p.idx⟩

/-- The value of a pending element is written into its register element. -/
def returnPend (s : State) (slot : Nat) (p : Pend) (v : Nat) : State :=
  s.setThread slot ((s.thread slot).setElem p.dst.toNat p.sew p.idx v)

/-- A pending element whose home is not reached ends (18_fabric.md R414): it counts complete, a returned value is all ones, and the
failure is reported. -/
def endPend (s : State) (slot : Nat) (p : Pend) : State :=
  (failPend (match p.kind with
    | .load => returnPend s slot p (2 ^ p.sew - 1)
    | .atom _ => returnPend s slot p (2 ^ p.sew - 1)
    | _ => s) slot p 0x60).complete slot p.op 1

/-- The data of a load has come (R410): its value is written, and it completes. -/
def arrivePend (s : State) (slot : Nat) (p : Pend) (v : Word) (bad : Bool) : State :=
  let s := returnPend s slot p v.toNat
  (if bad then failPend s slot p 0x2C else s).complete slot p.op 1

/-- The home of a load on another die reads its element, and sends the data (R410). -/
def answerLoad (s : State) (slot : Nat) (p : Pend) (bad : Bool) : State :=
  let v := if bad then 2 ^ p.sew - 1 else loadElem s p.key p.sew p.high
  let s := touchLine s (elemCore s slot p.sew p.idx) p.key
  let t := s.thread slot
  let s := s.setThread slot { t with pend := t.pend ++ [{ p with got := some (BitVec.ofNat 64 v, bad) }] }
  startTransfer s (keyDie p.key) (slotDie slot) 2 (dataFlits (BitVec.ofNat 64 p.op) (leBytes 8 v)) (.data slot p.op p.idx)

/-- A contribution of a slot with the element that carries it (13_die_memory.md R312). -/
def Pend.contribution (p : Pend) (slot : Nat) (op : CombOp) : Comb :=
  let off := p.key % 128
  { slot := slot, sn := p.sn, asid := p.asid, line := p.addr - BitVec.ofNat 64 off, key := p.key - off, op := op,
    sew := p.sew, signed := p.signed, vals := [⟨off, p.data, [(p.pc, p.idx)]⟩] }

/-- A contribution (06 R164; 13_die_memory.md R312): accepted into the combining buffer of its core, or, outside pod memory, applied
where it goes. -/
def contributeElem (s : State) (slot : Nat) (p : Pend) (op : CombOp) : State :=
  let c := p.contribution slot op
  if p.key < 2 ^ 60 then acceptComb s (elemCore s slot p.sew p.idx) c (p.key % 128) p.data (p.pc, p.idx) else mergeComb s c

/-- A pending element performs: a load writes its register element, a store its bytes, an atomic both, and a contribution is accepted. A
load that meets an uncorrectable word receives all ones and is reported; a store that covers part of one performs nothing (R324). -/
def performPend (s : State) (slot : Nat) (p : Pend) : State :=
  match p.kind with
  | .comb op => (contributeElem s slot p op).complete slot p.op 1
  | _ =>
  let n := max 1 (p.sew / 8)
  let s := flushLine s p.key
  let s := if p.kind = .store then s else s.correct p.key n
  let fail (s : State) : State := failPend s slot p 0x2C
  let setReg (s : State) (v : Nat) : State := returnPend s slot p v
  if p.kind = .load && remoteKey slot p.key then answerLoad s slot p (s.poisoned p.key n) else
  let s := match p.kind with
    | .load =>
      if s.poisoned p.key n then fail (setReg s (2 ^ p.sew - 1)) else setReg s (loadElem s p.key p.sew p.high)
    | .store =>
      if s.partPoison p.key n then fail s else storeElem s p.asid p.addr p.key p.sew p.high p.data.toNat
    | .atom op =>
      if s.poisoned p.key n then fail (setReg s (2 ^ p.sew - 1)) else
        let old := loadElem s p.key p.sew false
        let s := storeElem s p.asid p.addr p.key p.sew false (atomApply op p.sew p.signed old p.data.toNat p.data2.toNat)
        setReg (if remoteKey slot p.key then message s (keyDie p.key) (slotDie slot) 0x12 (leBytes 8 old) else s) old
    | .comb _ => s
    | .lclr => clearLines s (slotCluster slot) (p.key % 2 ^ 23) p.data.toNat
  (touchLine s (elemCore s slot p.sew p.idx) p.key).complete slot p.op 1

/-- The pending elements that a test picks, each with those before it of its thread to the same line of pod memory: requests of one thread
to one line keep their order (13_die_memory.md R301). -/
def linePicked (pick : Pend → Bool) : List Pend → List (Pend × Bool)
  | [] => []
  | p :: r => (p, pick p || (p.key < 2 ^ 60 && r.any (fun q => pick q && keyLine q.key == keyLine p.key))) :: linePicked pick r

/-- Whether a pending element of a slot may perform: its data is not on its way already, no engine owns its line (07 R191), its home,
where that is another die, is reachable and has the thread's own line writes to the line (R182; 18_fabric.md R412, R414), and a
contribution finds room (13_die_memory.md R312). -/
def elemReady (s : State) (slot : Nat) (p : Pend) : Bool :=
  let room := match p.kind with
    | .comb _ => combRoom s (elemCore s slot p.sew p.idx)
    | _ => true
  p.got.isNone && s.lineFree p.key && room && (!remoteKey slot p.key
    || (!keyUnreachable s slot p.key && (lineOpen s (fun w => w.slot == slot && keyLine w.key == keyLine p.key)).isNone))

/-- The pending elements of a slot that a test picks and that may perform do, in their order; the others wait. -/
def performWhere (s : State) (slot : Nat) (pick : Pend → Bool) : State :=
  let t := s.thread slot
  if !t.pend.any pick then s else
  let ps := (linePicked pick t.pend).map (fun q => (q.1, q.2 && elemReady s slot q.1))
  (ps.filter (·.2)).foldl (fun s p => performPend s slot p.1)
    (s.setThread slot { t with pend := (ps.filter (fun q => !q.2)).map (·.1) })

/-- Everything of a thread that a test on streams picks completes as far as it can by itself: pending elements and combining-buffer
entries perform, and buffered line writes are sent (07_streams.md R179, R189, R192; 18_fabric.md R412). -/
def forceStreams (s : State) (slot : Nat) (pick : BitVec 3 → Bool) : State :=
  let s := performWhere s slot (fun p => pick p.sn)
  let s := (s.coresOf slot).foldl (fun s c => sendWhere s c (fun e => e.slot == slot && pick e.sn)) s
  (s.coresOf slot).foldl (fun s c => mergeWhere s c (fun e => e.slot == slot && pick e.sn)) s

/-- The edge wait of an operation (R179): what the mask names completes; an operation that is still outstanding, and a contribution that
cannot merge yet, is waited for. -/
def edgeOrder (s : State) (mask : BitVec 8) : Except Stop State :=
  if mask = 0 then .ok s else
  let s := forceStreams s s.cur (fun sn => mask.getLsbD sn.toNat)
  match s.th.ops.find? (fun o => mask.getLsbD o.sn.toNat) with
  | some o => .error (.wait (.edge o.id))
  | none =>
    if (s.coresOf s.cur).any (fun c => !(s.core c).dead && (s.core c).comb.any (fun e => e.slot == s.cur && mask.getLsbD e.sn.toNat))
    then .error (.wait .queue) else .ok s

/-- Whether an access to n bytes at a place comes behind a pending one of the thread: to the same line of pod memory (13_die_memory.md R301),
or to the same bytes elsewhere (R182). -/
def Pend.before (p : Pend) (key n : Nat) : Bool :=
  if key < 2 ^ 60 then keyLine key ≤ keyLine p.key && keyLine p.key ≤ keyLine (key + n - 1)
  else p.kind != .lclr && p.key < key + n && key < p.key + max 1 (p.sew / 8)

/-- An access of a thread to bytes or a line that it has a pending access to itself: the earlier one performs first (R182, R301). -/
def forceOverlap (s : State) (slot key n : Nat) : State := performWhere s slot (fun p => p.before key n)

/-- An operation of the thread that still has an access to lines of n bytes at a place in front of it: a pending element, or a line write on
its way (R182; 18_fabric.md R412). -/
def ownOpen (s : State) (slot key n : Nat) : Option Nat :=
  match (s.thread slot).pend.find? (fun p => p.got.isNone && p.before key n) with
  | some p => some p.op
  | none => (lineOpen s (fun w => w.slot == slot && keyLine key ≤ keyLine w.key && keyLine w.key ≤ keyLine (key + n - 1))).map
      (fun w => (w.elems.head?.map (·.op)).getD 0)

/-- n bytes at a place are reached by the thread of a slot, behind its own earlier accesses to their lines. -/
def reachOwn (s : State) (slot : Nat) (a : Word) (key n : Nat) (data : Option (List Byte)) : State :=
  reachFrom (forceOverlap s slot key n) (s.thread slot).asid (slotDie slot) (some (slotCore slot)) a key n data

/-- n bytes at a place, of the head or the body of a frame, are reached and written by the thread of a slot. -/
def writeOwn (s : State) (slot : Nat) (a : Word) (key : Nat) (bs : List Byte) : State :=
  storeBytes (reachOwn s slot a key bs.length (some bs)) (s.thread slot).asid a key bs

/-- A store to a line of another die waits while a load or an atomic of the thread to the line is held behind an older line write: it must
not read the younger store (R182). -/
def heldReads (s : State) (slot key : Nat) : Except Stop Unit :=
  match (s.thread slot).pend.find? (fun p => p.got.isNone && keyLine p.key == keyLine key && !elemReady s slot p) with
  | some p => .error (.wait (.edge p.op))
  | none => .ok ()

/-- A read of a line of another die waits for the thread's own line writes to it (R182; 18_fabric.md R412). -/
def ownWrites (s : State) (slot key : Nat) : Except Stop Unit :=
  match lineOpen s (fun w => w.slot == slot && keyLine w.key == keyLine key) with
  | some w => .error (.wait (.edge ((w.elems.head?.map (·.op)).getD 0)))
  | none => .ok ()

/-- Whether a pending element returns a value. -/
def Pend.returns (p : Pend) : Bool :=
  match p.kind with
  | .load => true
  | .atom _ => true
  | _ => false

/-- Returned values of the thread's non-blocking operations are written (R155). -/
def writeReturned (s : State) (slot : Nat) : State := performWhere s slot Pend.returns

/-- Whether a pending element returns its value to one of n registers from a base on. -/
def Pend.returnsTo (p : Pend) (t : Thread) (base n : Nat) : Bool :=
  p.returns && (let r := p.dst.toNat + p.idx * p.sew / t.rb; base ≤ r && r < base + n)

/-- A younger instruction that writes registers of a non-blocking operation waits for its values (R154). -/
def writeReturnedTo (s : State) (slot base n : Nat) : State := performWhere s slot (fun p => p.returnsTo (s.thread slot) base n)

/-- Everything that a thread has outstanding and that can complete by itself completes. -/
def forceAll (s : State) (slot : Nat) : State := forceStreams s slot (fun _ => true)

/-- An operation that would take OC above 256 waits (R185). -/
def checkExhausted (s : State) (sn : BitVec 3) (n : Nat) : Except Stop Unit :=
  if n != 0 && 256 ≤ s.th.oc sn then .error (.wait (.exhausted sn)) else .ok ()

/-- Whether values that a thread's operations return are still on their way (R154, R155). -/
def Thread.returning (t : Thread) (pick : Pend → Bool) : Bool := t.pend.any (fun p => p.returns && pick p)

/-! ## Engine elements (13_die_memory.md R440) -/

/-- Where an engine's element with an alignment goes, on behalf of an agent: the checks of R151 with the agent's ASID and privilege, and the
marks of uncorrectable words, which a write of part of one meets too (R324). An element that is held waits. -/
def engineAt (s : State) (ag : Agent) (write : Bool) (n align : Nat) (a : Word) : Except Stop Nat :=
  match checkPlace s ag write n align 0 a with
  | .ok (.mem key) =>
    match meetsBad s ag write key n 0 a with
    | .ok _ => if write && s.partPoison key n then .error (.trap 0x2C a) else .ok key
    | .error (.pantry _ v) => .error (.trap 0x2A v)
    | .error e => .error e
  | .ok (.reg _) => .error (.trap 0x22 a)
  | .error e => .error e

/-- Where an engine's element without an alignment goes. -/
def enginePlace (s : State) (ag : Agent) (write : Bool) (n : Nat) (a : Word) : Except Stop Nat := engineAt s ag write n 1 a

/-- An access to n bytes that an engine makes for an agent to lines that it does not own itself, to read them or to replace them: its checks,
a wait while an engine owns one of the lines (07 R191), and its requests; a read corrects the single errors that it meets. -/
def engineReach (s : State) (ag : Agent) (n align : Nat) (a : Word) (data : Option (List Byte)) : Except Stop (Nat × State) := do
  let key ← engineAt s ag data.isSome n align a
  match (spanKeys key n).find? (fun k => !s.lineFree k) with
  | some k => throw (.wait (.recall k))
  | none => pure ()
  let s := reachFrom s ag.asid (slotDie ag.slot) none a key n data
  return (key, if data.isSome then s else s.correct key n)

/-- Bytes that an engine writes for an agent. -/
def engineStore (s : State) (ag : Agent) (align : Nat) (a : Word) (bs : List Byte) : Except Stop State := do
  let (key, s) ← engineReach s ag bs.length align a (some bs)
  return storeBytes s ag.asid a key bs

/-- An element of an engine whose place is known is read: its requests, and the single errors that it meets (R299, R324). -/
def engineRead (s : State) (ag : Agent) (a : Word) (key n : Nat) : State :=
  (reachFrom s ag.asid (slotDie ag.slot) none a key n none).correct key n

/-- The place of an element of an engine is reached, to be written with bytes. -/
def engineTouch (s : State) (ag : Agent) (a : Word) (key : Nat) (bs : List Byte) : State :=
  reachFrom s ag.asid (slotDie ag.slot) none a key bs.length (some bs)

/-- The holds of engines that a test picks are gone with what they were for (13_die_memory.md R306; 18_fabric.md R414). -/
def dropHolds (s : State) (pick : List Nat → Bool) : State :=
  if s.dies.all (fun d => !(d.2.holds.any (fun h => pick h.who) || d.2.lost.any (fun h => pick h.who))) then s else
  { s with dies := s.dies.map (fun d => (d.1, { d.2 with holds := d.2.holds.filter (fun h => !pick h.who)
                                                         lost := d.2.lost.filter (fun h => !pick h.who) })) }

end Sys2Proof.Machine
end

