-- ==== Sys2Proof/Machine/Array.lean ====
section
/-! DEFINITION. The matrix unit's arithmetic: tile regions, the values they store, and the steps that accumulate rows (10_matrix.md
R224-R230, R237-R241; 03_numbers.md R83, R91). -/

namespace Sys2Proof.Machine

/-- A word of an array in the form of ERRADDR (09_core.md R216). Its lane is that of R202 for a v register; for the other arrays the
manual names none, and it is a free value (log 5). -/
def regErraddr (slot arr reg w : Nat) (free : Word) : Nat :=
  8 * w + (if arr = 1 then w % 64 else (bits free 0 6).toNat) * 2 ^ 14 + reg % 32 * 2 ^ 20 + arr * 2 ^ 25 + slot % 4 * 2 ^ 27

/-- The core whose lanes hold a register word of the thread that runs: in a gang the next one for the upper half (R202). -/
def wordCore (s : State) (arr w : Nat) : Nat := s.coreKey + (s.th.gang && arr != 3 && 128 ≤ w).toNat

/-- The uncorrectable register word behind a trap is noted where its core keeps it (09_core.md R220). -/
def noteBad (s : State) (cause : BitVec 7) (val : Word) : State :=
  if cause != 0x2B then s else
  let arr := (bits val 8 2).toNat
  let w := (bits val 16 14).toNat / 8
  let (f, s) := if arr = 1 then (0, s) else s.fresh
  let c := s.core (wordCore s arr w)
  s.setCore (wordCore s arr w) { c with
    errue := c.errue ||| 2, erraddr := BitVec.ofNat 64 (regErraddr s.cur arr (bits val 0 5).toNat w f) }

/-- An uncorrectable word of a Pantry is noted by its core, with the slot whose window holds it, or slot 0 (R216, R218, R219). -/
def notePantry (s : State) (key : Nat) : State :=
  let core := (key - 2 ^ 61) / 2 ^ 20
  let off := key % 2 ^ 14
  let owner := (List.range 4).find? (fun i =>
    let t := s.thread (core * 4 + i)
    t.slot != .free && t.pbase.toNat * 1024 ≤ off && off < (t.pbase.toNat + t.psize.toNat) * 1024)
  let c := s.core core
  s.setCore core { c with errue := c.errue ||| 1, erraddr := BitVec.ofNat 64 (key % 2 ^ 20 + owner.getD 0 * 2 ^ 27) }

/-! ## Single errors in registers (09_core.md R220) -/

/-- A corrected register word counts at the core that holds it. -/
def countReg (s : State) (p : Nat × Nat × Nat) : State :=
  let k := wordCore s p.1 p.2.2
  s.setCore k { s.core k with errceRegf := satAdd (s.core k).errceRegf 1 }

/-- The register words with a single error that a test picks are read: they are corrected and count. -/
def State.correctRegs (s : State) (reads : Nat × Nat × Nat → Bool) : State :=
  if s.th.softRegs.isEmpty then s else
  (s.th.softRegs.filter reads).foldl countReg { s with th := { s.th with softRegs := s.th.softRegs.filter (fun p => !reads p) } }

/-- The thread with one uncorrectable word. -/
abbrev Thread.withBad (t : Thread) (p : Nat × Nat × Nat) : Thread := { t with badRegs := [p] }

/-- A step of an instruction with the single errors that it meets: a word is read where the step would trap if it could not be corrected,
and is good again where the step would have made it so. -/
def withSoft (f : State → Except Stop State) (s : State) : Except Stop State :=
  if s.th.softRegs.isEmpty then f s else
  let reads (p : Nat × Nat × Nat) : Bool := match f { s with th := s.th.withBad p } with
    | .error (.trap c _) => c == 0x2B
    | _ => false
  let stays (p : Nat × Nat × Nat) : Bool := match f { s with th := s.th.withBad p } with
    | .ok s' => s'.th.badRegs.contains p
    | .error _ => true
  (f s).map (fun s' =>
    let s' := s'.correctRegs (fun p => reads p && s.th.softRegs.contains p)
    { s' with th := { s'.th with softRegs := s'.th.softRegs.filter (fun p => !s.th.softRegs.contains p || stays p) } })

/-! ## Shapes and regions (R224, R226, 02_encoding.md R51) -/

/-- The planes that a plane code names; 0 for the code that names all held planes. -/
def planeCount (p : BitVec 4) : Nat :=
  match p.toNat with
  | 9 => 10
  | 10 => 12
  | 11 => 16
  | 12 => 20
  | 13 => 24
  | 14 => 28
  | 15 => 32
  | n => n

/-- K of a shape descriptor. -/
abbrev dK (d : Word) : Nat := (bits d 0 8).toNat + 1
/-- N. -/
abbrev dN (d : Word) : Nat := (bits d 8 8).toNat + 1
/-- FMT. -/
abbrev dFmt (d : Word) : Nat := (bits d 16 4).toNat
/-- The SEW code. -/
abbrev dSew (d : Word) : Nat := (bits d 20 3).toNat
/-- RS. -/
abbrev dRs (d : Word) : Nat := (bits d 24 24).toNat
/-- The Larder offset of the region. -/
abbrev dOff (d : Word) : Nat := (bits d 48 16).toNat * 128
/-- Whether the format is NQ4. -/
abbrev dNq4 (d : Word) : Bool := dFmt d == 6
/-- KB. -/
abbrev dKb (d : Word) : Nat := ceilDiv (dK d) 32
/-- Where the super-scales of an NQ4 header start: A. -/
abbrev dScales (d : Word) : Nat := (dK d / 64 * dN d + 3) / 4 * 4
/-- H: the header, in whole lines. -/
def dHeader (d : Word) : Nat := ceilDiv (if dNq4 d then dScales d + 4 * dN d else 2 * dKb d * dN d) 128 * 128
/-- The region's size for PH planes. -/
def dSize (d : Word) (ph : Nat) : Nat := dHeader d + ph * dN d * (4 * dKb d)
/-- The offset in the region of the four bytes that hold plane j of column n for K step s. -/
def planeAt (d : Word) (j n step : Nat) : Nat := dHeader d + (j * dN d + n) * (4 * dKb d) + 4 * step

/-- A little-endian number in a cluster's Larder. -/
def larderNat (s : State) (cluster off n : Nat) : Nat := leNat (memBytes s.mem (larderKey cluster off) n)

/-! ## The values of a stored column (R229, R230) -/

/-- 2^e as a fraction times an integer. -/
def intScaled (q : Int) (e : Int) : FVal := let (n, d) := scale2 q.natAbs 1 e; .fin (decide (q < 0)) n d

/-- bval(k, n, P) for the 32 elements of K step s of a column, of those below K, and whether each is invalid (R229, R230, R83). -/
def columnVals (s : State) (cluster : Nat) (d : Word) (ph p n step : Nat) : List (FVal × Bool) :=
  let base := dOff d
  let planes := (List.range p).map (fun i => larderNat s cluster (base + planeAt d (ph - p + i) n step) 4)
  let raw (k : Nat) : Nat := ((planes.zipIdx).map (fun q => q.1 / 2 ^ k % 2 * 2 ^ q.2)).foldl (· + ·) 0
  let ks := List.range (min 32 (dK d - 32 * step))
  if dNq4 d then
    let S := fp32.decode (larderNat s cluster (base + dScales d + 4 * n) 4)
    let c := larderNat s cluster (base + step / 2 * dN d + n) 1
    ks.map (fun k => nq4Value (raw k) c S)
  else
    let e := larderNat s cluster (base + 2 * (step * dN d + n)) 2
    if e = 0x8000 then ks.map (fun _ => (.nan false, false))
    else ks.map (fun k => (intScaled (intVal true p (raw k)) (intVal true 16 e - p + 2), false))

/-- The value of an A element (R236). -/
def aVal (fmt sew x : Nat) : FVal :=
  if fmt ≤ 1 then intScaled (intVal (fmt == 0) (sewBits sew) x) 0 else sourceVal fmt sew x

/-! ## Steps (R237, R238) -/

/-- The exact group sum of a step for one column and its flags (R91). -/
def groupSum (as : List FVal) (bs : List (FVal × Bool)) : FVal × Word :=
  let ps := (as.zip bs).map (fun q => FVal.mul q.1 q.2.1)
  let nv := as.any FVal.snan || bs.any (·.2) || ps.any (·.2)
  let vs := ps.map (·.1)
  if vs.any FVal.isNan then (.nan false, if nv then flagNV else 0)
  else match exactSum vs with
    | .nan _ => (.nan false, flagNV)
    | g => (g, if nv then flagNV else 0)

/-- A column of an accumulator. -/
abbrev accCol (a : BitVec 8192) (n : Nat) : Nat := (a.extractLsb' (32 * n) 32).toNat

/-- The accumulator words that are uncorrectable (09_core.md R220). -/
def Thread.badAccWords (t : Thread) (acc : Nat) : List Nat := (t.badRegs.filter (fun p => p.1 == 3 && p.2.1 == acc)).map (·.2.2)

/-- The accumulator's words that are good again. -/
def Thread.mendAcc (t : Thread) (acc : Nat) (pick : Nat → Bool) : Thread :=
  { t with badRegs := t.badRegs.filter (fun p => !(p.1 == 3 && p.2.1 == acc && pick p.2.2)) }

/-- The bytes of a region that a step reads for a column, as (offset, bytes): its planes, and what its header holds for it. -/
def columnReads (d : Word) (ph p n step : Nat) : List (Nat × Nat) :=
  (List.range p).map (fun i => (planeAt d (ph - p + i) n step, 4))
    ++ (if dNq4 d then [(dScales d + 4 * n, 4), (step / 2 * dN d + n, 1)] else [(2 * (step * dN d + n), 2)])

/-- The first uncorrectable Larder word in what a step reads for a column. R238 speaks of the planes; the manual does not say what an
uncorrectable word of the header does, and the model takes it as one of the planes (DESIGN CHOICE; log 130). -/
def badPlaneWord (s : State) (cluster : Nat) (d : Word) (ph p n step : Nat) : Option Nat :=
  if s.poison.isEmpty then none else
  (columnReads d ph p n step).findSome? (fun q => s.poisonAt (larderKey cluster (dOff d + q.1)) q.2)

/-- How an MROW keeps its operands: the slot's descriptor, PH and P, and the accumulator. -/
abbrev VOp.tileDesc (op : VOp) : Word := op.xa
/-- PH of the tile. -/
abbrev VOp.tilePh (op : VOp) : Nat := op.xb.toNat
/-- P of the instruction. -/
abbrev VOp.planes (op : VOp) : Nat := op.xt.toNat
/-- The accumulator. -/
abbrev VOp.acc (op : VOp) : Nat := op.sel.toNat

/-- One step of an MROW (R237, R238): the whole row of acc changes at once. MROWZ's clearing is part of its step 0, so ACCRD sees the old
accumulator before that step, and a column that takes the canonical NaN for an uncorrectable word raises no flag; the manual gives
neither (DESIGN CHOICE; log 130). -/
def mrowStep (s : State) (r : MRow) : State × MRow :=
  let op := r.op
  let d := op.tileDesc
  let k := op.acc
  let zero := r.step = 0 && op.kind == .mrow true
  let t := if zero then s.th.mendAcc k (fun _ => true) else s.th
  let old : BitVec 8192 := if zero then 0 else vread t.acc k
  let bad := t.badAccWords k
  let as := (List.range (min 32 (dK d - 32 * r.step))).map (fun j =>
    match r.a[32 * r.step + j]? with
    | some x => aVal (vtFmt op.vtype) (vtSew op.vtype) x
    | none => .fin false 0 1)
  let cols := (List.range 256).map (fun n =>
    let plane := if dN d ≤ n then none else badPlaneWord s s.clusterKey d op.tilePh op.planes n r.step
    if bad.contains (n / 2) then (fp32.nanBits, (0 : Word), plane)
    else if dN d ≤ n then (accCol old n, (0 : Word), none)
    else match plane with
      | some w => (fp32.nanBits, (0 : Word), some w)
      | none =>
        let (g, fl) := groupSum as (columnVals s s.clusterKey d op.tilePh op.planes n r.step)
        let a := fp32.decode (accCol old n)
        let (v, inv) := FVal.add .rne a g
        let (b, fl') := fp32.deliver .rne .ieee v (inv || a.snan)
        (b, fl ||| fl', none))
  let s := s.correctRegs (fun p => !zero && p.1 == 3 && p.2.1 == k)
  let t := { t with softRegs := s.th.softRegs.filter (fun p => !(p.1 == 3 && p.2.1 == k)) }
  let s := if s.soft.isEmpty then s else
    (List.range (dN d)).foldl (fun s n => (columnReads d op.tilePh op.planes n r.step).foldl (fun s q =>
      s.correct (larderKey s.clusterKey (dOff d + q.1)) q.2) s) s
  let row := BitVec.ofNat 8192 (((cols.zipIdx).map (fun c => c.1.1 * 2 ^ (32 * c.2))).foldl (· + ·) 0)
  let s := { s with th := { t.mendAcc k (fun _ => true) with acc := vwrite t.acc k row } }
  let s := match bad with
    | [] => s
    | w :: _ => if r.badAcc then s else
      let v := badWordVal 3 k w
      (noteBad s 0x2B v).report s.cur s.th.grp ⟨0x2B, 0, v, op.addr, 0⟩
  let plane := cols.findSome? (fun c => c.2.2)
  let s := match plane with
    | none => s
    | some w => if r.badPlane then s else
      let off : Word := BitVec.ofNat 64 (w * 8 - larderKey s.clusterKey 0)
      (noteKey s (w * 8)).report s.cur s.th.grp ⟨0x34, 0, off, op.addr, 0⟩
  (s, { r with step := r.step + 1, flags := r.flags ||| orFlags (cols.map (·.2.1)),
               badPlane := r.badPlane || plane.isSome, badAcc := r.badAcc || !bad.isEmpty })

/-- How many steps an instruction of the pipe takes. -/
def MRow.steps (r : MRow) : Nat :=
  match r.op.kind with
  | .mrow _ => dKb r.op.tileDesc
  | _ => 1

/-- ACCWR's step: the columns that it writes, and the words that it writes whole (R241). -/
def accWriteStep (t : Thread) (r : MRow) : Thread :=
  let k := r.op.acc
  let row := (r.a.zipIdx).foldl (fun a c => setBits a (32 * c.2) 32 c.1) (vread t.acc k)
  { t.mendAcc k (fun w => 2 * w + 1 < r.a.length) with acc := vwrite t.acc k row }

/-- The regions of the thread's cluster replaced. -/
def State.setRegions (s : State) (rs : List Region) : State := s.setCluster s.clusterKey { s.cluster s.clusterKey with regions := rs }

/-- The region of a load. -/
def tileRegion (s : State) (op : VOp) (loading : Bool) : Region :=
  let d := op.xb
  let ph := planeCount (bits op.xt 0 4)
  { slot := some s.cur, grp := s.th.grp, asid := s.th.asid, tile := bits op.sel 0 2, off := dOff d, size := dSize d ph, desc := d, ph := ph,
    loading := loading, op := op.id }

/-- A load past its fault point writes its image, and its region is no longer loading (R225, R233). -/
def writeTile (s : State) (op : VOp) (image : List Byte) : State :=
  let key := larderKey s.clusterKey (dOff op.xb)
  let s := (s.putBytes key image).clearPoison key image.length
  s.setRegions ((s.cluster s.clusterKey).regions.map (fun r =>
    if r == tileRegion s op true then { r with loading := false } else r))

/-- The region that a load of the thread's slot filled is released (R243). -/
def releaseTile (s : State) (tile : BitVec 2) (frees : Option Nat) : State :=
  match frees with
  | none => s
  | some id => s.setRegions ((s.cluster s.clusterKey).regions.filter (fun r =>
      !(r.op == id && r.slot == some s.cur && r.grp == s.th.grp && r.tile == tile)))

/-- One step of the oldest incomplete instruction of the pipe; its flags become visible, and its entry of the queue frees, when it is
complete. -/
def matrixStep (s : State) : State :=
  match s.th.rows with
  | [] => s
  | r :: rest =>
    let (s, r) := match r.op.kind with
      | .mrow _ => mrowStep s r
      | .accWrite => ({ s with th := accWriteStep s.th r }, { r with step := r.step + 1 })
      | .tileLoad _ =>
        let s := writeTile s r.op r.image
        ({ s with th := s.th.complete r.op.id 1 }, { r with step := r.step + 1 })
      | .tileFree => (releaseTile s (bits r.op.sel 0 2) r.frees, { r with step := r.step + 1 })
      | _ => ({ s with th := { s.th.mendAcc r.op.acc (fun _ => true) with acc := vwrite s.th.acc r.op.acc 0 } },
              { r with step := r.step + 1 })
    if r.steps ≤ r.step then { s with th := { (s.th.raise r.flags).freeEntry r.op.id with rows := rest } }
    else { s with th := { s.th with rows := r :: rest } }

/-- n steps of the pipe. -/
def matrixSteps : Nat → State → State
  | 0, s => s
  | n + 1, s => matrixSteps n (matrixStep s)

/-- Everything in the pipe completes. -/
def finishRows (s : State) : State :=
  if s.th.rows.isEmpty then s else
  matrixSteps ((s.th.rows.map (fun r => r.steps - r.step)).foldl (· + ·) 0) s

end Sys2Proof.Machine
end

