-- ==== Sys2Proof/Machine/Group.lean ====
section
/-! DEFINITION. Groups, their ranges and their end: stage descriptors, conflicts, freeing a slot, and what the Distributor does
with a faulted group (16_package_scheduling.md R356-R363, R372, R373, R378). -/

namespace Sys2Proof.Machine

/-! ## Stage descriptors (R357) -/

/-- A word of a stage descriptor by its offset. -/
def Stage.at (st : Stage) (off : Nat) : Word := st.words.getD (off / 8) 0
/-- Loop-table levels. -/
def Stage.levels (st : Stage) : Nat := (bits (st.at 0x10) 0 2).toNat + 1
/-- KIND of level l: 0 T, 1 C, 2 D. -/
def Stage.kind (st : Stage) (l : Nat) : Nat := (bits (st.at 0x10) (2 + 2 * l) 2).toNat
/-- COUNT of level l. -/
def Stage.count (st : Stage) (l : Nat) : Nat := (bits (st.at (0x20 + 4 * l)) (32 * (l % 2)) 32).toNat
/-- The GANG flag. -/
def Stage.gang (st : Stage) : Bool := bit (st.at 0x10) 10
/-- The SYS flag. -/
def Stage.sys (st : Stage) : Bool := bit (st.at 0x10) 11
/-- The depth of the output queue. -/
def Stage.depth (st : Stage) : Nat := (bits (st.at 0x10) 12 8).toNat + 1
/-- PSIZE. -/
def Stage.psize (st : Stage) : BitVec 5 := bits (st.at 0x10) 20 5
/-- NRD. -/
def Stage.nrd (st : Stage) : Nat := (bits (st.at 0x10) 25 3).toNat
/-- NWR. -/
def Stage.nwr (st : Stage) : Nat := (bits (st.at 0x10) 28 3).toNat
/-- GMAX. -/
def Stage.gmax (st : Stage) : Nat := (st.at 0x30).toNat

/-- The C and D levels, outermost first, as (kind, count) (R359). -/
def Stage.digitsLevels (st : Stage) : List (Nat × Nat) :=
  ((List.range st.levels).map (fun l => (st.kind l, st.count l))).filter (fun p => p.1 != 0)

/-- The initial group count GC (R359). -/
def Stage.gc0 (st : Stage) : Nat := st.digitsLevels.foldl (fun n p => n * p.2) 1

/-- The digits of a linear index, outermost first; the outermost takes what is left (R359, R376). -/
def mixedDigits : List Nat → Nat → List Nat
  | [], _ => []
  | [_], x => [x]
  | _ :: r, x => (x / r.foldl (· * ·) 1) :: mixedDigits r (x % r.foldl (· * ·) 1)

/-- The digits of a group of a stage. -/
def Stage.digits (st : Stage) (x : Nat) : List Nat := mixedDigits (st.digitsLevels.map (·.2)) x

/-- The die index q of a group: its D digits taken together (R359); none without a D level. -/
def Stage.dieIndex (st : Stage) (x : Nat) : Option Nat :=
  let ds := (st.digitsLevels.zip (st.digits x)).filter (fun p => p.1.1 == 2)
  if ds.isEmpty then none else some (ds.foldl (fun q p => q * p.1.2 + p.2) 0)

/-- A span of addresses, from one address for a number of bytes modulo 2^64. -/
structure Span where
  write : Bool
  lo : Word
  len : Nat
  deriving DecidableEq, Repr

/-- Range r of a group, rounded outwards to 256-byte boundaries (R361). -/
def Stage.range (st : Stage) (x r : Nat) : Span :=
  let b := 0x40 + 48 * r
  let lo := ((st.digits x).zipIdx).foldl
    (fun a p => a + st.at (b + 16 + 8 * p.2) * BitVec.ofNat 64 p.1) (st.at b)
  let first := lo.toNat / 256 * 256
  ⟨4 ≤ r, BitVec.ofNat 64 first, min (2 ^ 64) ((lo.toNat + (st.at (b + 8)).toNat + 255) / 256 * 256 - first)⟩

/-- The ranges of a group. -/
def Stage.ranges (st : Stage) (x : Nat) : List Span :=
  (List.range st.nrd).map (st.range x) ++ (List.range st.nwr).map (fun r => st.range x (4 + r))

/-- Whether two spans share an address. -/
def Span.overlaps (a b : Span) : Bool := (b.lo - a.lo).toNat < a.len || (a.lo - b.lo).toNat < b.len

/-- Two groups conflict when a write range of either overlaps any range of the other (R361). -/
def conflicts (sa : Stage) (xa : Nat) (sb : Stage) (xb : Nat) : Bool :=
  (sa.ranges xa).any (fun a => (sb.ranges xb).any (fun b => (a.write || b.write) && a.overlaps b))

/-- Whether a group of a stage is complete (R362). -/
def Stage.isComplete (st : Stage) (x : Nat) : Bool :=
  x < st.next && !st.back.contains x && !(st.queue.any (fun q => q.index == x && !q.complete))

/-! ## Runs of a package -/

/-- A live run of a package. -/
def State.run? (s : State) (node r : Nat) : Option Run := (s.pkg node).runs.entry r
/-- A live run replaced. -/
def State.setRun (s : State) (node r : Nat) (u : Run) : State :=
  let p := s.pkg node
  s.setPkg node { p with runs := p.runs.put r u }
/-- The run of the group that a thread runs. -/
def State.runOf (s : State) (slot : Nat) : Option Run :=
  match (s.thread slot).grp with
  | none => none
  | some g => match s.run? (slotNode slot) g.run with
    | some u => if u.gen == g.gen then some u else none
    | none => none

/-- The slots of a package whose threads belong to a run, the upper halves of gangs left out. -/
def State.runSlots (s : State) (node r : Nat) : List Nat :=
  s.slots.filter (fun k => slotNode k == node && !(s.thread k).gangHigh && match (s.thread k).grp with
    | some g => g.run == r
    | none => false)

/-- A stage of a run changed. -/
def Run.mapStage (u : Run) (i : Nat) (f : Stage → Stage) : Run :=
  { u with stages := (u.stages.zipIdx).map (fun p => if p.2 = i then f p.1 else p.1) }

/-- A completion word (R378). -/
def doneWord (status cause index : Nat) : Word := BitVec.ofNat 64 (status + cause * 2 ^ 8 + index % 2 ^ 48 * 2 ^ 16)

/-- A package's Distributor as an agent that writes at an address for an ASID, at system privilege. -/
def writerAgent (node : Nat) (asid : BitVec 12) (a : Word) : Agent := ⟨asid, true, node * 2048, [7, node, a.toNat]⟩

/-- A word written on behalf of an ASID at system privilege (completion words, R378): held where its page or its home is waited for,
dropped where a check fails. -/
def writeAs (s : State) (node : Nat) (asid : BitVec 12) (a : Word) (bs : List Byte) : State :=
  match checkSpan s (writerAgent node asid a) true bs.length a with
  | .ok (.mem key) => storeBytes (reachFrom s asid (node * 8) none a key bs.length (some bs)) asid a key bs
  | .error (.wait _) => let p := s.pkg node; s.setPkg node { p with writes := p.writes ++ [⟨asid, true, none, a, bs.length, some bs, none, none⟩] }
  | _ => s

/-- The completion word of a run, when it has one. -/
def writeDone (s : State) (node : Nat) (u : Run) (w : Word) : State :=
  if u.done = 0 then s else writeAs s node u.asid u.done (leBytes 8 w.toNat)

/-! ## A slot becomes free -/

/-- The causes that R249 assigns. -/
def causeAssigned (c : Nat) : Bool :=
  c ≤ 0x0E || (0x20 ≤ c && c ≤ 0x2C) || (0x30 ≤ c && c ≤ 0x34) || (0x38 ≤ c && c ≤ 0x3D) || (0x40 ≤ c && c ≤ 0x43)
    || (0x50 ≤ c && c ≤ 0x53) || (0x60 ≤ c && c ≤ 0x62) || (0x68 ≤ c && c ≤ 0x6B) || c == 0x7F

/-- The slot and its range records are freed; in a gang, the slot on the higher core too (R311, 12_cluster.md R267). -/
def freeSlot (s : State) (k : Nat) : State :=
  let t := s.thread k
  let d := s.die (slotDie k)
  let s := s.setDie (slotDie k) { d with ranges := d.ranges.filter (fun r => r.slot != k) }
  let s := dropHolds (s.setThread k {}) (fun w => [1, 4, 8].any (fun n => w.take 2 == [n, k]))
  if t.gang then s.setThread (k + 4) {} else s

/-- The tile regions of a group are released (10_matrix.md R225). -/
def releaseRegions (s : State) (k : Nat) (grp : Option GroupRef) : State :=
  let c := s.cluster (slotCluster k)
  s.setCluster (slotCluster k) { c with regions := c.regions.filter (fun r => !(r.grp == grp && (grp.isSome || r.slot == some k))) }

/-- A saved or held context is thrown away with its regions. -/
def discardCtx (s : State) (node : Nat) (pick : SavedCtx → Bool) : State :=
  let p := s.pkg node
  let gone := p.saved.filter pick
  let s := s.setPkg node { p with saved := p.saved.filter (fun c => !pick c) }
  gone.foldl (fun s c => match c.cluster with
    | some k =>
      let cl := s.cluster k
      s.setCluster k { cl with regions := cl.regions.filter (fun r => r.grp != some c.grp) }
    | none => s) s

/-- A thread is brought to a landing point and drains without a frame (R372 END, R253): its queue is dropped. -/
def Thread.endHere (t : Thread) (cause : Option (BitVec 7)) : Thread :=
  let t := t.discardYounger
  { t with slot := .draining, drain := some (.ended cause), vq := [], window := 0, feeds := t.feedsArch, tiles := t.tilesArch,
           wait := none }

/-- END of R372: no further group is issued, running groups are brought to a landing point, saved contexts and preloads are discarded, and
the frames of groups that will not be issued again are free (17 R389); the completion word follows when the last group has left. -/
def endRun (s : State) (node r : Nat) (cause : BitVec 7) (index : Nat) : State :=
  match s.run? node r with
  | none => s
  | some u =>
    let s := if u.ending then s else
      s.setRun node r { u with ending := true, endCause := cause, endIndex := index, status := 2, holding := false, held := [], frames := [] }
    let s := discardCtx s node (fun c => c.grp.run == r)
    (s.runSlots node r).foldl (fun s k =>
      match (s.thread k).slot with
      | .loading => freeSlot s k
      | .running => s.setThread k { s.thread k with ppend := true }
      | _ => s) s

/-- The index of a group is pending again (R372, R373). -/
def repend (s : State) (node : Nat) (g : GroupRef) : State :=
  match s.run? node g.run with
  | none => s
  | some u => s.setRun node g.run (u.mapStage g.stage (fun st =>
      if st.back.contains g.index then st else { st with back := st.back ++ [g.index] }))

/-- What the Distributor does with a group that an external cause other than 0x00 and 0x6A has ended, or that a withdrawn core
or a failed preload has left without a context (R372). -/
def groupFault (s : State) (node : Nat) (g : GroupRef) (cause : BitVec 7) (saved : Bool) (frame : Option Nat) : State :=
  match s.run? node g.run with
  | none => s
  | some u =>
    if u.gen != g.gen || u.ending then discardCtx s node (fun c => c.grp == g)
    else if u.fpol = 0 || u.fpol = 3 || (u.fpol = 1 && u.retry = 0) || (u.fpol = 2 && cause = 0x7F)
      then endRun s node g.run cause g.index
    else
    let keep := match frame with
      | some i => [(g.stage, g.index, i)]
      | none => []
    if u.fpol = 1 then
      let s := discardCtx s node (fun c => c.grp == g)
      repend (s.setRun node g.run { u with retry := u.retry - 1, frames := u.frames ++ keep }) node g
    else
      let p := s.pkg node
      let s := s.setPkg node { p with saved := p.saved.map (fun c => if c.grp == g then { c with held := true } else c) }
      let s := if u.holding then s else writeDone s node u (doneWord 4 cause.toNat g.index)
      s.setRun node g.run (if saved then { u with holding := true }
        else { u with holding := true, held := u.held ++ [(g.stage, g.index)], frames := u.frames ++ keep })

/-! ## Requests to the host (17_package_system.md R394) -/

/-- Whether the request ring takes another record. -/
def Package.ringOpen (p : Package) : Bool :=
  4 ≤ p.logn.toNat && p.logn.toNat ≤ 12 && (p.hrwr - p.hrrd).toNat < 2 ^ p.logn.toNat

/-- A record is written to companion memory at its place in the ring, with its tag, and its answer is awaited. -/
def Package.write (p : Package) (r : Post) : Package :=
  let at_ := p.hrbase.toNat + 32 * (p.hrwr.toNat % 2 ^ p.logn.toNat)
  let w0 := BitVec.ofNat 64 (r.func.toNat + r.kind.toNat * 2 ^ 8 + p.hrwr.toNat * 2 ^ 16)
  { p with
    companion := p.companion.filter (fun c => c.1 < at_ || at_ + 32 ≤ c.1)
      ++ [(at_, w0), (at_ + 8, r.w1), (at_ + 16, r.w2), (at_ + 24, r.w3)]
    asked := if r.func = 7 then p.asked else p.asked ++ [⟨r.func, p.hrwr, r.w1, r.w2⟩]
    hrwr := p.hrwr + 1 }

/-- Waiting requests are posted as far as the ring takes them. -/
def Package.flushPosts (p : Package) : List Post → Package
  | [] => { p with posts := [] }
  | r :: rest => if p.ringOpen then (p.write r).flushPosts rest else { p with posts := r :: rest }

/-- A request is posted, or waits for the ring behind the requests before it; the tag it gets when it is posted at once. -/
def State.post (s : State) (node : Nat) (r : Post) : State :=
  let p := s.pkg node
  s.setPkg node (p.flushPosts (p.posts ++ [r]))

/-- Requests that a test picks have ended: they are not awaited, and those that wait for the ring are not posted. -/
def State.unpost (s : State) (node : Nat) (asked : Asked → Bool) (post : Post → Bool) : State :=
  let p := s.pkg node
  s.setPkg node { p with asked := p.asked.filter (fun a => !asked a), posts := p.posts.filter (fun r => !post r) }

/-- The tag that the next posted record gets, when it is posted at once. -/
def State.nextTag (s : State) (node : Nat) : Option (BitVec 16) :=
  let p := s.pkg node
  if p.ringOpen && p.posts.isEmpty then some p.hrwr else none

/-- The Strongroom rings are extracted after boot step 31 and on an event of cause 0x7F: copied by the base-die firmware, or
offered to the host (R399, R394). -/
def extractRings (s : State) (node : Nat) : State :=
  let p := s.pkg node
  if p.split.getLsbD 6 then
    let s := s.setPkg node { p with offered := p.offered ++ [p.rings] }
    s.post node ⟨6, 0, BitVec.ofNat 64 (p.rings.foldl (fun n r => if r.2.isEmpty || p.bbox.look [] r.1 == r.2 then n else n + 2 ^ r.1) 0), 0, 0⟩
  else s.setPkg node { p with bbox := p.rings }

end Sys2Proof.Machine
end

