-- ==== Sys2Proof/Machine/Ops.lean ====
section
/-! DEFINITION. The shared operations of a thread: committing an instruction, waiting, taking an exception and returning from
one, saving and restoring a context (01_thread.md R28-R33, 04_scalar_control.md R110, 11_traps.md R247-R263). -/

namespace Sys2Proof.Machine

open Host (Outcome)

/-! ## Commit (R110, R111) -/

/-- The loop-end check of an instruction at address A, over the levels that are active. -/
def loopEnd (t : Thread) (a : Word) : Nat → Word × Thread
  | 0 => (a + 4, t)
  | n + 1 =>
    if a.toNat != (vread t.le n).toNat then (a + 4, t)
    else if 1 < (vread t.lc n).toNat then
      ((vread t.ls n).zeroExtend 64, { t with lc := vwrite t.lc n (vread t.lc n - 1) })
    else loopEnd { t with lc := vwrite t.lc n 0, ldepth := BitVec.ofNat 2 n } a n

/-- Bookkeeping of a commit: the resume point and the wait are gone, and the program-order copies of feeds and tile slots
become the architectural ones, unless older vector instructions are still queued (R28, R170, R223). -/
def Thread.settle (t : Thread) : Thread :=
  match t.vq with
  | [] => { t with gsuf := 0, gv := false, wait := none, feedsArch := t.feeds, tilesArch := t.tiles }
  | _ => { t with gsuf := 0, gv := false, wait := none,
                  vq := (t.vq.zipIdx).map (fun p => if p.2 + 1 = t.vq.length then { p.1 with younger := p.1.younger + 1 }
                    else p.1) }

/-- The thread commits an instruction that makes no taken transfer: the loop-end check gives the next address (R110). -/
def Thread.advance (t : Thread) : Thread :=
  let (next, t) := loopEnd t t.pc t.ldepth.toNat
  { t with pc := next }.settle

/-- The thread commits a taken transfer to a target (R111). -/
def Thread.jump (t : Thread) (target : Word) : Thread := { t with pc := target }.settle

/-- The thread that runs commits. -/
def State.advance (s : State) : State := { s with th := s.th.advance }

/-- The thread that runs writes a scalar register and commits. -/
def State.ret (s : State) (d : BitVec 5) (v : Word) : State := (s.wx d v).advance

/-- Completed scalar instructions that wait to commit (R28). -/
def Thread.waiting (t : Thread) : Nat := t.vq.foldl (fun n q => n + q.younger) t.window

/-! ## Waiting (R257) -/

/-- A request for a missing page joins those pending at its home (13_die_memory.md R306); with SPLIT.PFSVC it is posted. -/
def requestPage (s : State) (die : Nat) (img : Word) : State :=
  let d := s.die die
  if d.fsreqs.any (fun r => pageName r.page == pageName img) then s
  else
    let node := die / 8
    let host := (s.pkg node).split.getLsbD 0
    let s := s.setDie die { d with fsreqs := d.fsreqs ++ [{ page := img, host := host }] }
    if host then s.post node ⟨0, 0, img, BitVec.ofNat 64 (die % 8), 0⟩ else s

/-- A STALL read asks for a block of a view: its capture goes first while the block is stale (14_views_layouts.md R333, R335). -/
def wantBlock (s : State) (die view block : Nat) : State :=
  let d := s.die die
  match d.views.entry view with
  | none => s
  | some v =>
    let bs := (v.blocks.zipIdx).map (fun p => if p.2 = block then { p.1 with wanted := true } else p.1)
    s.setDie die { d with views := d.views.put view { v with blocks := bs } }

/-- SRV of a view set (14 R335). -/
def setServed (s : State) (die view : Nat) : State :=
  let d := s.die die
  match d.views.entry view with
  | none => s
  | some v => s.setDie die { d with views := d.views.put view { v with srv := true } }

/-- The thread waits at the instruction it is at, at a granule when one is given; it tries again when something has changed. The scalar
part behind a queued element that is held for fault service does not forget that hold. -/
def State.enterWait (s : State) (w : Wait) (gran : Option Nat) : State :=
  let t := s.th
  let held := match t.wait, w with
    | some (.service die img), .queue => Wait.service die img
    | _, _ => w
  let s := { s with th := { t with wait := some held, stalled := true,
                                   gsuf := BitVec.ofNat 5 (gran.getD t.gsuf.toNat), gv := gran.isSome || t.gv } }
  match w with
  | .service die img => requestPage s die img
  | .stall die view block n =>
    wantBlock { s with th := { s.th with stalls := s.th.stalls.filter (fun q => !(q.1 == die && q.2.1 == view && q.2.2.1 == block))
      ++ [(die, view, block, n)] } } die view block
  | _ => s

/-! ## Taking an exception (R248, R253) -/

/-- EPC (01_thread.md R42): ADDR holds bits 47 to 2 of the address. Whether PC wraps behind code address 0xFFFF_FFFF_FFFC the manual does not
say; the model's pc becomes 2^48 there, which EVAL shows and ADDR does not (DESIGN CHOICE; log 100). -/
def epcWord (pc : Word) (gran : Option Nat) : Word :=
  (pc &&& 0xFFFFFFFFFFFC#64) ||| match gran with
  | some g => BitVec.ofNat 64 (g * 2 ^ 48 + 2 ^ 53)
  | none => 0

/-- R248: whether a cause is routed external. -/
def Thread.external (t : Thread) (cause : BitVec 7) : Bool :=
  cause = 0 || cause = 0x6A || cause = 0x6B || cause = 0x7F || t.tvec = 0 ||
    (if cause.toNat < 64 then bit t.troute0 cause.toNat else bit t.troute1 (cause.toNat - 64))

/-- ESTAT (R251). -/
def estatWord (ppriv body pant gang : Bool) (nasync : Nat) (alost : BitVec 16) (ext : Bool) (psize : BitVec 5) : Word :=
  BitVec.ofNat 64 (ppriv.toNat + body.toNat * 2 + pant.toNat * 4 + gang.toNat * 8 + nasync * 2 ^ 4 + alost.toNat * 2 ^ 8
    + ext.toNat * 2 ^ 24 + psize.toNat * 2 ^ 25)

/-- Bytes gathered into one word, the first lowest. -/
def packBytes (bs : List Nat) : Word := BitVec.ofNat 64 (leNat (bs.map (BitVec.ofNat 8)))

/-- Word 2 of a stream record (07_streams.md R196). -/
def streamWord (t : Thread) (sn : Nat) : Word :=
  let oc := t.oc (BitVec.ofNat 3 sn)
  BitVec.ofNat 64 (oc + (if oc = 0 then 2 ^ 9 else 0)
    + (if t.exh == some (BitVec.ofNat 3 sn) then 2 ^ 10 else 0))

/-- The stream at whose exhausted operation a trap lands (R185, R196): that of the waiting instruction, or of the queue's oldest one,
whose operation has not begun while 256 are outstanding. -/
def Thread.exhaustedAt (t : Thread) : Option (BitVec 3) :=
  match t.front with
  | [] => match t.wait with
    | some (.exhausted sn) => some sn
    | _ => none
  | q :: _ => if q.op.counts && 256 ≤ t.oc q.op.sn && !t.ops.any (fun o => o.id == q.op.id) then some q.op.sn else none

/-- The four words of an asynchronous record (R252). -/
def reportWords (r : Report) : List Word :=
  [r.cause.zeroExtend 64 ||| (r.sn.zeroExtend 64 <<< 8), r.val, r.pc, r.elem.zeroExtend 64]

/-- The 204 words of a frame head, in the order of R250. -/
def headWords (t : Thread) (epc ecause val estat : Word) (badCount badFirst : Nat) : List Word :=
  [epc, ecause, val, estat]
  ++ (t.x.toList.drop 1)
  ++ [t.vl.zeroExtend 64, t.vtype, t.cols.zeroExtend 64, t.fcs, t.srnd.zeroExtend 64]
  ++ [packBytes (0 :: (t.e.toList.drop 1).map (·.toNat))]
  ++ (List.range 4).map (fun j => packBytes ((List.range 8).map (fun i => (vread t.prog (8 * j + i)).toNat)))
  ++ [t.msdepth.zeroExtend 64, t.ldepth.zeroExtend 64]
  ++ t.lc.toList.map (·.zeroExtend 64) ++ t.ls.toList.map (·.zeroExtend 64) ++ t.le.toList.map (·.zeroExtend 64)
  ++ (List.range 8).flatMap (fun sn => [vread t.ic sn, vread t.cc sn, streamWord t sn])
  ++ t.feedsArch.toList.flatMap (fun f => [f.base, f.last, f.pos, flag f.bound])
  ++ t.h.toList.flatMap (fun h => [hWord h 0, hWord h 1, hWord h 2, hWord h 3])
  ++ t.tilesArch.toList.flatMap (fun u => [u.desc, BitVec.ofNat 64 (u.ready.toNat + u.ph.toNat * 2 ^ 8)])
  ++ (t.reports.flatMap reportWords ++ List.replicate 32 0).take 32
  ++ [BitVec.ofNat 64 (badCount + badFirst * 2 ^ 16), t.tvec, t.troute0, t.troute1]

/-- Where a head lies for a thread, at system privilege: FRAMEP under tag 0x0, translated and writable, once no engine owns its lines
(07_streams.md R191). A group without a frame has no head: that a write of EPC, ECAUSE, EVAL or ESTAT takes cause 0x21 there is the model's
choice (DESIGN CHOICE; log 97). -/
def framePlace (s : State) (slot : Nat) (write : Bool) (a : Word) (n : Nat) : Except Stop Nat :=
  let t := s.thread slot
  if t.framep = 0 && t.frame.isNone then .error (.trap 0x21 a)
  else if tagOf a != 0 then .error (.trap 0x20 a)
  else match checkSpan s ⟨t.asid, true, slot, []⟩ write n a with
    | .ok (.mem key) => .ok key
    | .ok (.reg _) => .error (.trap 0x20 a)
    | .error e => .error e

/-- The slot on the higher core, as a gang's thread holds it (12_cluster.md R266). -/
def upperSlot (t : Thread) : Thread :=
  { slot := t.slot, sys := t.sys, asid := t.asid, pbase := t.pbase, psize := t.psize, gang := true, gangHigh := true, grp := t.grp }

/-- A gang's slot on the higher core is in the state of the slot on the lower one. -/
def syncUpper (s : State) (slot : Nat) : State :=
  let t := s.thread slot
  if t.gang && !t.gangHigh then s.setThread (slot + 4) (upperSlot t) else s

/-- An event of the thread that runs enters the Strongroom ring of its die (17 R398). -/
def State.recordThread (s : State) (cause : BitVec 7) (epc val : Word) : State :=
  s.record s.nodeKey (s.dieKey % 8)
    (eventWord cause.toNat 0 s.th.asid.toNat (s.dieKey % 8) (s.coreKey % 64) (s.cur % 4)) epc val

/-- A group ends with cause 0x7F (R253): the Strongroom records EPC, the inner cause and its EVAL, as an event of the inner cause and one
of cause 0x7F, whose EVAL is the inner cause (R249; log 98), and the Distributor treats the group as faulted once it has drained. -/
def doubleFault (s : State) (cause : BitVec 7) (val epc : Word) : State :=
  let s := (s.recordThread cause epc val).recordThread 0x7F epc (cause.zeroExtend 64)
  let s := extractRings s s.nodeKey
  syncUpper { s with th := s.th.endHere (some 0x7F) } s.cur

/-- The region of a load that has not passed its fault point is released (10_matrix.md R225). -/
def dropLoading (s : State) : State :=
  let c := s.cluster s.clusterKey
  if c.regions.any (fun r => r.loading && r.slot == some s.cur)
  then s.setCluster s.clusterKey { c with regions := c.regions.filter (fun r => !(r.loading && r.slot == some s.cur)) }
  else s

/-- A granule of the thread waits on full/empty bits no longer (12_cluster.md R274). -/
def dropLineWait (s : State) : State :=
  let c := s.cluster s.clusterKey
  if c.lineWaits.any (fun w => w.slot == s.cur)
  then s.setCluster s.clusterKey { c with lineWaits := c.lineWaits.filter (fun w => w.slot != s.cur) }
  else s

/-- The landing of a MACRO (12_cluster.md R291): the sequencer writes STEP and DONE, and leaves the thread's program; one that waits
for the sequencer leaves its queue. A write that is held is waited for. -/
def parkMacro (s : State) : Except Wait State :=
  let c := s.cluster s.clusterKey
  let mine (q : SeqRun) : Bool := q.slot == s.cur && !q.byTarget
  let s := if c.seqQueue.any mine
    then s.setCluster s.clusterKey { c with seqQueue := c.seqQueue.filter (fun q => !mine q) } else s
  match c.seqNow with
  | none => .ok s
  | some q =>
    if !mine q then .ok s else
    let s := dropHolds (s.setCluster s.clusterKey { s.cluster s.clusterKey with seqNow := none }) (· == [3, s.clusterKey])
    let word : Word := BitVec.ofNat 64 (q.step + q.copied / 65536 * 65536 * 2 ^ 8)
    match checkSpan s ⟨q.asid, q.priv, s.cur, []⟩ true 8 (q.desc + 8) with
    | .ok (.mem key) => .ok (storeBytes (reachFrom s q.asid s.dieKey none (q.desc + 8) key 8 (some (leBytes 8 word.toNat))) q.asid (q.desc + 8) key
        (leBytes 8 word.toNat))
    | .error (.wait w) => .error w
    | _ => .ok s

/-- Taking an exception at a landing point (R253): the cause, its EVAL, the address EPC names and the granule when it is one.
Returned values are written, younger work is discarded, and then the group ends (an inhibited trap, or a head that cannot be
written), the context is saved (an external cause), or the head is written and the handler runs at system privilege. Values on
their way (06_memory_isa.md R155), and a head or a macro's progress whose page is on its way, are waited for. -/
def takeTrap (s : State) (cause : BitVec 7) (val pc : Word) (gran : Option Nat) (async : Bool) : State :=
  let s0 := s
  let s := if cause = 0x2C && !async then noteWord s s.agent val else s
  let at_ := if s0.th.front.isEmpty then gran else none
  let s := writeReturned (noteBad (dropLineWait (dropLoading (finishRows s))) cause val) s.cur
  if s.th.returning (fun _ => true) then (writeReturned s0 s0.cur).enterWait .returned at_ else
  match parkMacro s with
  | .error w => s0.enterWait w at_
  | .ok s =>
  let exh := s.th.exhaustedAt
  let t := s.th.discardYounger
  let t := { t with vq := [], window := 0, exh := exh, feeds := t.feedsArch, tiles := t.tilesArch, pc := pc, nextOp := t.nextOp + 1,
                    stalls := [] }
  let ecause : Word := cause.zeroExtend 64 ||| (flag async <<< 8)
  if t.inh then doubleFault { s with th := t } cause val (epcWord pc gran) else
  match framePlace { s with th := t } s.cur true t.framep 4096 with
  | .error (.wait (.service die img)) => s0.enterWait (.service die img) at_
  | .error (.wait (.migrating die)) => s0.enterWait (.migrating die) at_
  | .error (.wait (.recall key)) => s0.enterWait (.recall key) at_
  | .error _ => doubleFault { s with th := t } cause val (epcWord pc gran)
  | .ok key =>
    if t.external cause then
      let t := { t with
        slot := .draining, drain := some (.save (bits ecause 0 9) val), wait := none, stalled := false,
        ppend := false, overrun := false, gsuf := BitVec.ofNat 5 (gran.getD 0), gv := gran.isSome }
      syncUpper { s with th := t } s.cur
    else
      let estat := estatWord t.priv false false t.gang t.reports.length t.alost false t.psize
      let head := wordsBytes (headWords t (epcWord pc gran) ecause val estat 0 0) ++ List.replicate 2464 0
      let s := writeOwn s s.cur t.framep key head
      { s with th := { t with
          pc := t.tvec, priv := true, inh := true, gsuf := 0, gv := false, wait := none, stalled := false, exh := none,
          reports := [], alost := 0 } }

/-- A fault of the instruction that runs, at a scalar faulting point or at a granule (R32): behind older vector instructions
it waits for them. -/
def trapAt (s : State) (cause : BitVec 7) (val : Word) (gran : Option Nat) : State :=
  match s.th.front with
  | [] => takeTrap s cause val s.th.pc gran false
  | _ => s.enterWait .queue none

/-- What a stop makes of the state before the instruction. -/
def stopAt (s : State) (st : Stop) (gran : Option Nat) : Outcome State Fault Refusal :=
  match st with
  | .trap c v => .next (trapAt s c v gran)
  | .served die view v => .next (trapAt (if s.th.front.isEmpty then setServed s die view else s) 0x51 v gran)
  | .pantry key v => .next (trapAt (if s.th.front.isEmpty then notePantry s key else s) 0x2A v gran)
  | .wait w => .next (s.enterWait w gran)
  | .fault f => .fault f

/-- The outcome of a scalar instruction: its next state, or its stop at a scalar faulting point with no effect (R32). -/
def scalarOut (s : State) (r : Except Stop State) : Outcome State Fault Refusal :=
  match r with
  | .ok s' => .next s'
  | .error st => stopAt s st none

/-- R29: a serialising instruction waits until the vector queue is empty and every completed scalar instruction committed. -/
def serialise (s : State) (k : State → Outcome State Fault Refusal) : Outcome State Fault Refusal :=
  match s.th.vq with
  | [] => let s := finishRows s; k { s with th := { s.th with window := 0 } }
  | _ => .next (s.enterWait .queue none)

/-- R60: a privileged instruction at user privilege takes cause 0x04 with the word as EVAL. -/
def privileged (s : State) (word : Word) (k : State → Outcome State Fault Refusal) : Outcome State Fault Refusal :=
  if s.th.priv then k s else .next (trapAt s 0x04 word none)

/-! ## ERET (R256) -/

/-- Words of a head in memory, with its offset. -/
abbrev headAt (s : State) (key off : Nat) : Word := memWord s.mem (key + off)

/-- Byte n of a head. -/
abbrev headByte (s : State) (key off : Nat) : Byte := memGet s.mem (key + off)

/-- The checks of cause 0x0D on a head, as the offsets of the words that fail, lowest first (R256). -/
def headFails (s : State) (t : Thread) (key : Nat) (regionHeld : Nat → Bool) : List Nat :=
  let epc := headAt s key 0
  let estat := headAt s key 0x18
  (if bits epc 0 2 != 0 || bits epc 54 10 != 0 || (!bit epc 53 && bits epc 48 5 != 0) then [0] else [])
  ++ (if bits estat 30 34 != 0 || 8 < (bits estat 4 4).toNat || bit estat 3 != t.gang then [0x18] else [])
  ++ (List.range 4).filterMap (fun j =>
      if (List.range 8).any (fun i => t.fullIndex.toNat < (headByte s key (0x148 + 8 * j + i)).toNat)
      then some (0x148 + 8 * j) else none)
  ++ (if 8 < (headAt s key 0x168).toNat then [0x168] else [])
  ++ (if 3 < (headAt s key 0x170).toNat then [0x170] else [])
  ++ (List.range 4).filterMap (fun j =>
      if bit (headAt s key (0x508 + 16 * j)) 0 && !regionHeld j then some (0x500 + 16 * j) else none)

/-- The thread with everything that ERET restores from a head (R256): the registers, feeds and tile slots in both copies, the
routing state; the privilege is the caller's. -/
def restoreHead (s : State) (t : Thread) (key : Nat) : Thread :=
  let w (off : Nat) := headAt s key off
  let feed (i : Nat) : Feed := ⟨w (0x280 + 32 * i), w (0x288 + 32 * i), w (0x290 + 32 * i), bit (w (0x298 + 32 * i)) 0⟩
  let tile (i : Nat) : Tile := ⟨bit (w (0x508 + 16 * i)) 0, w (0x500 + 16 * i) &&& ~~~0x800000#64, bits (w (0x508 + 16 * i)) 8 6⟩
  let feeds := Vector.ofFn (fun i : Fin 4 => feed i)
  let tiles := Vector.ofFn (fun i : Fin 4 => tile i)
  let vtype := w 0x120
  let maxvl := vlmax vtype t.gang
  { t with
    x := Vector.ofFn (fun i : Fin 32 => if i.val = 0 then 0 else w (0x20 + 8 * (i.val - 1)))
    vl := if maxvl < (bits (w 0x118) 0 15).toNat then BitVec.ofNat 15 maxvl else bits (w 0x118) 0 15
    vtype := vtype
    cols := bits (w 0x128) 0 15
    fcs := fcsWrite t.fcs (w 0x130)
    srnd := if bits (w 0x138) 0 32 = 0 then 1 else bits (w 0x138) 0 32
    e := Vector.ofFn (fun i : Fin 8 => if i.val = 0 then 0 else headByte s key (0x140 + i.val))
    prog := Vector.ofFn (fun i : Fin 32 => (headByte s key (0x148 + i.val)).setWidth 3)
    msdepth := bits (w 0x168) 0 4
    ldepth := bits (w 0x170) 0 2
    lc := Vector.ofFn (fun i : Fin 3 => bits (w (0x178 + 8 * i.val)) 0 32)
    ls := Vector.ofFn (fun i : Fin 3 => bits (w (0x190 + 8 * i.val)) 0 48 &&& 0xFFFFFFFFFFFC#48)
    le := Vector.ofFn (fun i : Fin 3 => bits (w (0x1A8 + 8 * i.val)) 0 48 &&& 0xFFFFFFFFFFFC#48)
    h := Vector.ofFn (fun i : Fin 16 => hClean
      (hOfWords (w (0x300 + 32 * i.val)) (w (0x308 + 32 * i.val)) (w (0x310 + 32 * i.val)) (w (0x318 + 32 * i.val))))
    feeds := feeds, feedsArch := feeds, tiles := tiles, tilesArch := tiles
    tvec := w 0x648 &&& 0xFFFFFFFFFFFC#64, troute0 := w 0x650, troute1 := w 0x658 }

/-- The bytes of a register image of n bytes. -/
def imageBytes {n : Nat} (v : BitVec n) (count : Nat) : List Byte := (List.range count).map (fun i => v.extractLsb' (8 * i) 8)

/-- A register image read from memory. -/
def imageAt (s : State) (key count n : Nat) : BitVec n := BitVec.ofNat n (leNat (memBytes s.mem key count))

/-- RB of a frame in bytes (R252). -/
abbrev frameRb (gang : Bool) : Nat := if gang then 2048 else 1024

/-- The lanes of a thread (R252). -/
abbrev Thread.lanes (t : Thread) : Nat := if t.gang then 128 else 64

/-- The 4 KiB pages of a frame that hold its body and its Pantry section (R250, R252). -/
def bodyPages (t : Thread) : List Nat := (List.range (if t.gang then 30 else 22)).map (· + 1)
/-- The pages of the Pantry section. -/
def pantryPages (t : Thread) : List Nat := (List.range (t.lanes * t.psize.toNat / 4)).map (· + 32)

/-- The places of pages of a frame, at system privilege: each with its number. A read meets uncorrectable words (R324). -/
def framePages (s : State) (slot : Nat) (write : Bool) : List Nat → Except Stop (List (Nat × Nat))
  | [] => .ok []
  | i :: r => do
    let a := (s.thread slot).framep + BitVec.ofNat 64 (4096 * i)
    let key ← framePlace s slot write a 4096
    match s.poisonAt key 4096 with
    | some w => if !write then throw (.trap 0x2C (a + BitVec.ofNat 64 (w * 8 - key)))
    | none => pure ()
    return (i, key) :: (← framePages s slot write r)

/-- Pages of a frame reached by the accesses of the slot's thread: its own pending accesses to them, and its line writes on their way,
perform first (07_streams.md R182). -/
def reachPages (s : State) (slot : Nat) (ps : List (Nat × Nat)) : Except Stop State := do
  let s := ps.foldl (fun s p => reachOwn s slot ((s.thread slot).framep + BitVec.ofNat 64 (4096 * p.1)) p.2 4096 none) s
  match ps.findSome? (fun p => ownOpen s slot p.2 4096) with
  | some op => throw (.wait (.edge op))
  | none => return s

/-- The place of an offset of a frame. -/
def frameAt (ps : List (Nat × Nat)) (off : Nat) : Nat := SMap.look ps 0 (off / 4096) + off % 4096

/-- The v, m, mask-stack and accumulator state restored from a body (R252, R256). -/
def restoreBody (s : State) (t : Thread) (ps : List (Nat × Nat)) : Thread :=
  let rb := frameRb t.gang
  { t with
    v := Vector.ofFn (fun i : Fin 32 => imageAt s (frameAt ps (0x1000 + rb * i.val)) rb 16384)
    m := Vector.ofFn (fun i : Fin 16 => imageAt s (frameAt ps (0x1000 + 32 * rb + 0x800 * i.val)) 0x800 16384)
    ms := Vector.ofFn (fun i : Fin 8 => imageAt s (frameAt ps (0x1000 + 32 * rb + 0x8000 + 0x800 * i.val)) 0x800 16384)
    acc := Vector.ofFn (fun i : Fin 8 => imageAt s (frameAt ps (0x1000 + 32 * rb + 0xC000 + 0x400 * i.val)) 0x400 8192) }

/-- The bytes of a body (R252). -/
def bodyBytes (t : Thread) : List Byte :=
  let rb := frameRb t.gang
  t.v.toList.flatMap (fun v => imageBytes v rb) ++ t.m.toList.flatMap (fun m => imageBytes m 0x800)
    ++ t.ms.toList.flatMap (fun m => imageBytes m 0x800) ++ t.acc.toList.flatMap (fun a => imageBytes a 0x400)

/-- The offset in a frame of an uncorrectable register word (R252; 09_core.md R220). -/
def badOffset (t : Thread) (p : Nat × Nat × Nat) : Nat :=
  let rb := frameRb t.gang
  0x1000 + match p.1 with
  | 1 => rb * p.2.1 + 8 * p.2.2
  | 2 => 32 * rb + (if p.2.1 < 16 then 0x800 * p.2.1 else 0x8000 + 0x800 * (p.2.1 - 16)) + 8 * p.2.2
  | _ => 32 * rb + 0xC000 + 0x400 * p.2.1 + 8 * p.2.2

/-- POISON's first word in ERRADDR form (R250; 09_core.md R216), and the state behind its free lane. -/
def poisonFirst (s : State) (slot : Nat) (bad : List (Nat × Nat × Nat)) : Nat × State :=
  match bad with
  | [] => (0, s)
  | (arr, reg, w) :: _ =>
    let (f, s) := if arr = 1 then (0, s) else s.fresh
    (regErraddr slot arr reg w f, s)

/-- The register word that lies at an offset of a frame's body. -/
def bodyWord (t : Thread) (off : Nat) : Nat × Nat × Nat :=
  let rb := frameRb t.gang
  let o := off - 0x1000
  if o < 32 * rb then (1, o / rb, o % rb / 8)
  else if o < 32 * rb + 0xC000 then (2, (o - 32 * rb) / 0x800, (o - 32 * rb) % 0x800 / 8)
  else (3, (o - 32 * rb - 0xC000) / 0x400, (o - 32 * rb - 0xC000) % 0x400 / 8)

/-- The register words that a restore of a body poisons again: those whose place a save has written for them (R252). -/
def poisonedBody (s : State) (t : Thread) (ps : List (Nat × Nat)) : List (Nat × Nat × Nat) :=
  s.framePoison.filterMap (fun w =>
    (ps.find? (fun p => 1 ≤ p.1 && p.1 < 32 && p.2 ≤ w * 8 && w * 8 < p.2 + 4096)).map (fun p => bodyWord t (4096 * p.1 + (w * 8 - p.2))))

/-- The single errors of the registers of a slot's thread are corrected (09_core.md R220). -/
def correctAll (s : State) (slot : Nat) : State :=
  if (s.thread slot).softRegs.isEmpty then s else ((s.focus slot).correctRegs (fun _ => true)).focus s.cur

/-- The body written to a frame, the uncorrectable words as all ones (R252). -/
def writeBody (s : State) (slot : Nat) (ps : List (Nat × Nat)) : State :=
  let s := correctAll s slot
  let t := s.thread slot
  let s := (ps.filter (fun p => p.1 != 0 && p.1 < 32)).foldl (fun s p =>
    writeOwn s slot (t.framep + BitVec.ofNat 64 (4096 * p.1)) p.2 (((bodyBytes t).drop (4096 * (p.1 - 1))).take 4096)) s
  t.badRegs.foldl (fun s p =>
    let key := frameAt ps (badOffset t p)
    { s.putBytes key (List.replicate 8 0xFF) with framePoison := s.framePoison ++ [key / 8] }) s

/-- The place of a lane's Pantry window of a slot. -/
def windowPlace (t : Thread) (slot lane : Nat) : Nat :=
  pantryKey (slotCore slot + lane / 64) (lane % 64) (t.pbase.toNat * 1024)

/-- The bytes of a thread's Pantry window, lane after lane. What a save does with an uncorrectable word of the window the manual does not
say; the model's choice is that it writes the word's bytes as they are and reports nothing (DESIGN CHOICE; log 129). -/
def windowBytes (s : State) (slot : Nat) : List Byte :=
  let t := s.thread slot
  (List.range t.lanes).flatMap (fun lane => memBytes s.mem (windowPlace t slot lane) (t.psize.toNat * 1024))

/-- The Pantry window restored from a frame (R252). -/
def restorePantry (s : State) (slot : Nat) (t : Thread) (ps : List (Nat × Nat)) : State :=
  let n := t.psize.toNat * 1024
  (List.range t.lanes).foldl (fun s lane =>
    (List.range (n / 1024)).foldl (fun s j =>
      let key := windowPlace t slot lane + 1024 * j
      (s.putBytes key (memBytes s.mem (frameAt ps (0x20000 + lane * n + 1024 * j)) 1024)).clearPoison key 1024) s) s

/-- The single errors of a thread's Pantry window are corrected as it is read, and count (09_core.md R218). -/
def correctWindow (s : State) (slot : Nat) : State :=
  let t := s.thread slot
  if s.soft.isEmpty then s else
  (List.range t.lanes).foldl (fun s lane => s.correct (windowPlace t slot lane) (t.psize.toNat * 1024)) s

/-- Whether a tile slot's region is still reserved for the thread's context (10_matrix.md R244). -/
def regionHeld (s : State) (slot : Nat) (t : Thread) (j : Nat) : Bool :=
  (s.cluster (slotCluster slot)).regions.any (fun r => r.tile.toNat == j && r.grp == t.grp && (t.grp.isSome || r.slot == some slot))

/-- The checks that ERET makes on the head at FRAMEP, and the thread that it restores (R256): cause 0x0D with the failing offset
first, then 0x03 for VTYPE and VSHAPE. Nothing changes where a check fails or a part of the frame cannot be read. Values on their way to
registers that the body restores come first (06_memory_isa.md R154); a resumption at no granule leaves every progress index full, since no
instruction in flight writes a register (01_thread.md R24). -/
def applyHead (s : State) (slot : Nat) : Except Stop State := do
  let head ← framePages s slot false [0]
  let s ← reachPages s slot head
  let t := s.thread slot
  let key := frameAt head 0
  match headFails s t key (regionHeld s slot t) with
  | off :: _ => throw (.trap 0x0D (BitVec.ofNat 64 off))
  | [] => pure ()
  if !vtypeLegal (headAt s key 0x120) then throw (.trap 0x03 (headAt s key 0x120))
  if 16384 < (bits (headAt s key 0x128) 0 15).toNat then throw (.trap 0x03 (headAt s key 0x128))
  let estat := headAt s key 0x18
  let epc := headAt s key 0
  let ps ← framePages s slot false ((if bit estat 1 then bodyPages t else []) ++ (if bit estat 2 then pantryPages t else []))
  let s ← reachPages s slot ps
  let s := if bit estat 1 then writeReturned s slot else s
  if bit estat 1 && (s.thread slot).returning (fun _ => true) then throw (.wait .returned)
  let s := (key :: ps.map (·.2)).foldl (fun s k => s.correct k 4096) s
  let t := restoreHead s (s.thread slot) key
  let t := if bit estat 1 then { restoreBody s t ps with badRegs := poisonedBody s t ps, softRegs := [] } else t
  let t := { t with
    priv := bit estat 0, inh := false, pc := epc &&& 0xFFFFFFFFFFFC#64, gsuf := bits epc 48 5, gv := bit epc 53,
    wait := none, stalled := false, prog := if bit epc 53 then t.prog else Vector.replicate 32 t.fullIndex }
  let s := s.setThread slot t
  return if bit estat 2 then restorePantry s slot t ps else s

/-! ## Context save (R258) -/

/-- Whether nothing of a thread is outstanding (R197, R198, R313). -/
def drained (s : State) (slot : Nat) : Bool :=
  (s.thread slot).ops.isEmpty && (s.coresOf slot).all (fun c => !(s.core c).comb.any (fun e => e.slot == slot))

/-- The external save's writing of head, body and Pantry window (R258 step 4); the stop where a part of the frame cannot be
written. -/
def writeFrame (s : State) (slot : Nat) (ecause : BitVec 9) (val : Word) : Except Stop State := do
  let t := s.thread slot
  let ps ← framePages s slot true (0 :: bodyPages t ++ pantryPages t)
  let epc := epcWord t.pc (if t.gv then some t.gsuf.toNat else none)
  let estat := estatWord t.priv true true t.gang t.reports.length t.alost true t.psize
  let (first, s) := poisonFirst s slot t.badRegs
  let head := wordsBytes (headWords t epc (ecause.zeroExtend 64) val estat t.badRegs.length first)
  let s := writeOwn s slot t.framep (frameAt ps 0) (head ++ List.replicate 2464 0)
  let s := correctWindow (writeBody s slot ps) slot
  let window := windowBytes s slot
  return (ps.filter (fun p => 32 ≤ p.1)).foldl (fun s p =>
    writeOwn s slot (t.framep + BitVec.ofNat 64 (4096 * p.1)) p.2 ((window.drop (4096 * (p.1 - 32))).take 4096)) s

end Sys2Proof.Machine
end

