-- ==== Sys2Proof/Machine/Schedule.lean ====
section
/-! DEFINITION. What happens next: fetching the instruction at a thread's pc, and which thread or event is due
(04_scalar_control.md R101, 09_core.md R205; logs 2, 9, 11). -/

namespace Sys2Proof.Machine

/-- The place of an instruction word for a thread: the page of code space that holds its pc, executable for the thread's ASID
and privilege (R101, R247). A word lies at a multiple of 4. -/
def fetchPlace (s : State) (t : Thread) : Option Nat :=
  if t.pc.toNat % 4 != 0 then none else
  let mine (c : CodePage) : Bool := match c.image with
    | none => true
    | some d => match s.runOf s.cur with
      | some u => u.desc == d
      | none => false
  match s.code.find? (fun c => c.node == s.nodeKey && c.asid == t.asid && c.page == t.pc.toNat / 4096 && (!c.sysOnly || t.priv) && mine c) with
  | some c => some (c.key + t.pc.toNat % 4096)
  | none => none

/-- The code address of the line that a pc lies in. -/
abbrev codeLine (pc : Word) : Word := BitVec.ofNat 64 (pc.toNat / 128 * 128)

/-- The line of a core's instruction cache that holds a pc (09_core.md R209). -/
def lineOfCode (c : Core) (asid : BitVec 12) (pc : Word) : Option CodeLine := c.icache.find? (fun l => l.asid == asid && l.addr == codeLine pc)

/-- The bytes of the instruction word at a pc whose place is known: of the line that the core's instruction cache holds, or of memory. -/
def codeBytes (s : State) (key : Nat) : List Byte :=
  match lineOfCode (s.core s.coreKey) s.th.asid s.th.pc with
  | some l => (l.bytes.drop (s.th.pc.toNat % 128)).take 4
  | none => memBytes s.mem key 4

/-- The instruction at the pc of the thread that runs, or the cause and EVAL of the trap that the fetch or the decoding
takes (R53, R101). -/
def fetch (s : State) : Except (BitVec 7 × Word) Instr :=
  match fetchPlace s s.th with
  | none => .error (0x09, s.th.pc)
  | some key =>
    match decodeBytes (codeBytes s key) with
    | .ok i => .ok i
    | .error e => .error (BitVec.ofNat 7 e.cause, (bytesWord (codeBytes s key)).zeroExtend 64)

/-- The line of the pc comes into the core's instruction cache, where the core keeps lines: one that is not there, or in which an error is
detected, which counts (09_core.md R209, R217). A set holds 4 lines; the set is the address modulo 128, and the oldest line leaves, which
the manual leaves open (DESIGN CHOICE; log 114). -/
def cacheCode (s : State) : State :=
  if !s.caching.contains s.coreKey then s else
  match fetchPlace s s.th with
  | none => s
  | some key =>
    let c := s.core s.coreKey
    let a := codeLine s.th.pc
    let fill : CodeLine := { asid := s.th.asid, addr := a, bytes := memBytes s.mem (key - s.th.pc.toNat % 128) 128 }
    let same (l : CodeLine) : Bool := l.asid == s.th.asid && l.addr == a
    match c.icache.find? same with
    | some l =>
      if !l.err then s
      else s.setCore s.coreKey { c with errceCache := satAdd c.errceCache 1, icache := c.icache.map (fun l => if same l then fill else l) }
    | none =>
      let inSet (l : CodeLine) : Bool := l.addr.toNat / 128 % 128 == a.toNat / 128 % 128
      let kept := match (c.icache.filter inSet).length, c.icache.find? inSet with
        | 4, some l => c.icache.erase l
        | _, _ => c.icache
      s.setCore s.coreKey { c with icache := kept ++ [fill] }

/-- What is due. -/
inductive Due where
  | boot (node : Nat)
  | devices
  | thread (slot : Nat)
  deriving DecidableEq, Repr

/-- Whether a thread issues: it is RUNNING on a core that is not withdrawn, not the upper half of a gang, and not waiting for
a change (R205). -/
def Thread.ready (t : Thread) (dead : Bool) : Bool := t.slot == .running && !t.gangHigh && !t.stalled && !dead

/-- The slot of a core that issues next: the first ready one after the slot that issued last (R205). -/
def nextOn (s : State) (core : Nat) : Option Nat :=
  let c := s.core core
  ((List.range 4).map (fun i => core * 4 + (c.issued + 1 + i) % 4)).find? (fun k => (s.thread k).ready c.dead)

/-- The next slot that issues: of the first core after the one whose turn it was, in rising order and round again, that has one; the turns
of the cores are the model's own (log 94). -/
def nextThread (s : State) : Option Nat :=
  match (s.slots.filter (fun k => s.coreKey < slotCore k)).findSome? (fun k => nextOn s (slotCore k)) with
  | some k => some k
  | none => s.slots.findSome? (fun k => nextOn s (slotCore k))

/-- The package whose boot has steps to run (17_package_system.md R396). -/
def bootNode (s : State) : Option Nat :=
  (s.pkgs.find? (fun p => p.2.bootStep < 32 && !p.2.rescue && !p.2.bootWait)).map (·.1)

/-- What happens next when no event is on the agenda: a boot step, the devices' turn, or the next ready thread; with none ready the
devices act. -/
def due (s : State) : Due :=
  match bootNode s with
  | some n => .boot n
  | none =>
    if s.turn then .devices else
    match nextThread s with
    | some k => .thread k
    | none => .devices

/-- After something has happened, every waiting thread tries again. -/
def State.wake (s : State) : State :=
  { s with th := { s.th with stalled := false }, parked := s.parked.map (fun p => (p.1, { p.2 with stalled := false })) }

/-- The slot of the thread that runs issued last on its core (R205). -/
def markIssued (s : State) : State :=
  let c := s.core s.coreKey
  if c.issued = s.cur % 4 then s else s.setCore s.coreKey { c with issued := s.cur % 4 }

/-- The state after a thread's instruction: the others try again, unless the instruction itself only began to wait, and the devices
act next. A gang's other slot follows it (12_cluster.md R266). -/
def afterThread (s : State) : State := syncUpper { (if s.th.stalled then s else (markIssued s).wake) with turn := true } s.cur

/-- Whether an instruction may resume at a granule (11_traps.md R256): a vector instruction, whose granules R23 counts; the scalar reads of
masks and vectors, handles and feed bindings have none. -/
def takesGranule (i : Instr) : Bool :=
  match i with
  | .mrow _ _ _ _ => true
  | .mrowz _ _ _ _ => true
  | .accrd _ _ _ => true
  | .accwr _ _ => true
  | .ldw _ _ _ _ _ _ => true
  | .ldc _ _ _ _ _ _ => true
  | .stfl _ _ _ _ _ _ => true
  | .tsend _ _ _ _ _ _ _ => true
  | .hld _ _ _ _ => false
  | .hst _ _ _ _ => false
  | .hget _ _ _ => false
  | .hset _ _ _ => false
  | .fbind _ _ _ => false
  | .ftrim _ _ => false
  | .ffree _ => false
  | .mcnt _ _ _ => false
  | .many _ _ _ => false
  | .mfirst _ _ _ => false
  | .vmvxs _ _ _ => false
  | i => let m := (major (wordOf i)).toNat
    (0x10 ≤ m && m ≤ 0x1C) || (0x22 ≤ m && m ≤ 0x2A)

end Sys2Proof.Machine
end

