-- ==== Sys2Proof/Machine/Scalar.lean ====
section
/-! DEFINITION. Majors 0x01-0x0B: register-register, immediate and address operations (04_scalar_control.md R93-R98). Each
computes one 64-bit value, writes it to xd and commits. -/

namespace Sys2Proof.Machine

open Host (Outcome)

/-- A truth value as xd receives it (R96). -/
abbrev truth (b : Bool) : Word := if b then 1 else 0

/-- Leading zero bits of a word; 64 of 0. -/
def clzWord (v : Word) : Nat := if v = 0 then 64 else 63 - v.toNat.log2

/-- Trailing zero bits of the lowest n bits, from bit i up. -/
def ctzFrom (v : Word) (i : Nat) : Nat → Nat
  | 0 => 0
  | n + 1 => if v.getLsbD i then 0 else 1 + ctzFrom v (i + 1) n

/-- One bits of a number below 2^n. -/
def popcount (v : Nat) : Nat → Nat
  | 0 => 0
  | n + 1 => v % 2 + popcount (v / 2) n

/-- A 64-bit quotient or remainder of R73 as a word. -/
abbrev divWord (signed : Bool) (a b : Word) : Word := BitVec.ofNat 64 (intDiv signed 64 a.toNat b.toNat)
/-- The remainder of R73. -/
abbrev remWord (signed : Bool) (a b : Word) : Word := BitVec.ofNat 64 (intRem signed 64 a.toNat b.toNat)

/-- ADD: xd = xa + xb (R96). -/
def execAdd (d a b : BitVec 5) (s : State) : Outcome State Fault Refusal :=
  .next (s.ret d (s.x a + s.x b))

/-- SUB: xd = xa - xb (R96). -/
def execSub (d a b : BitVec 5) (s : State) : Outcome State Fault Refusal :=
  .next (s.ret d (s.x a - s.x b))

/-- AND: xd = xa AND xb (R96). -/
def execAnd (d a b : BitVec 5) (s : State) : Outcome State Fault Refusal :=
  .next (s.ret d (s.x a &&& s.x b))

/-- OR: xd = xa OR xb (R96). -/
def execOr (d a b : BitVec 5) (s : State) : Outcome State Fault Refusal :=
  .next (s.ret d (s.x a ||| s.x b))

/-- XOR: xd = xa XOR xb (R96). -/
def execXor (d a b : BitVec 5) (s : State) : Outcome State Fault Refusal :=
  .next (s.ret d (s.x a ^^^ s.x b))

/-- ANDN: xd = xa AND NOT xb (R96). -/
def execAndn (d a b : BitVec 5) (s : State) : Outcome State Fault Refusal :=
  .next (s.ret d (s.x a &&& ~~~(s.x b)))

/-- SLL: shift left by xb[5:0] (R96). -/
def execSll (d a b : BitVec 5) (s : State) : Outcome State Fault Refusal :=
  .next (s.ret d (s.x a <<< ((s.x b).toNat % 64)))

/-- SRL: shift right by xb[5:0], zeros enter (R96). -/
def execSrl (d a b : BitVec 5) (s : State) : Outcome State Fault Refusal :=
  .next (s.ret d (s.x a >>> ((s.x b).toNat % 64)))

/-- SRA: shift right by xb[5:0], copies of bit 63 enter (R96). -/
def execSra (d a b : BitVec 5) (s : State) : Outcome State Fault Refusal :=
  .next (s.ret d ((s.x a).sshiftRight ((s.x b).toNat % 64)))

/-- ROR: rotate right by xb[5:0] (R96). -/
def execRor (d a b : BitVec 5) (s : State) : Outcome State Fault Refusal :=
  .next (s.ret d ((s.x a).rotateRight ((s.x b).toNat % 64)))

/-- SEQ: xd = 1 if xa equals xb (R96). -/
def execSeq (d a b : BitVec 5) (s : State) : Outcome State Fault Refusal :=
  .next (s.ret d (truth (s.x a == s.x b)))

/-- SNE: xd = 1 if xa differs from xb (R96). -/
def execSne (d a b : BitVec 5) (s : State) : Outcome State Fault Refusal :=
  .next (s.ret d (truth (s.x a != s.x b)))

/-- SLT: xd = 1 if xa < xb as s64 (R96). -/
def execSlt (d a b : BitVec 5) (s : State) : Outcome State Fault Refusal :=
  .next (s.ret d (truth ((s.x a).slt (s.x b))))

/-- SLTN: xd = 1 if xa < xb as n64 (R96). -/
def execSltn (d a b : BitVec 5) (s : State) : Outcome State Fault Refusal :=
  .next (s.ret d (truth ((s.x a).ult (s.x b))))

/-- MIN: the smaller as s64 (R96). -/
def execMin (d a b : BitVec 5) (s : State) : Outcome State Fault Refusal :=
  .next (s.ret d (if (s.x b).slt (s.x a) then s.x b else s.x a))

/-- MAX: the larger as s64 (R96). -/
def execMax (d a b : BitVec 5) (s : State) : Outcome State Fault Refusal :=
  .next (s.ret d (if (s.x a).slt (s.x b) then s.x b else s.x a))

/-- MUL: low half of the product (R96). -/
def execMul (d a b : BitVec 5) (s : State) : Outcome State Fault Refusal :=
  .next (s.ret d (s.x a * s.x b))

/-- MULH: high half of the signed product (R96). -/
def execMulh (d a b : BitVec 5) (s : State) : Outcome State Fault Refusal :=
  .next (s.ret d (bits ((s.x a).signExtend 128 * (s.x b).signExtend 128) 64 64))

/-- MULHN: high half of the natural product (R96). -/
def execMulhn (d a b : BitVec 5) (s : State) : Outcome State Fault Refusal :=
  .next (s.ret d (bits ((s.x a).zeroExtend 128 * (s.x b).zeroExtend 128) 64 64))

/-- DIV: signed quotient of R73 (R96). -/
def execDiv (d a b : BitVec 5) (s : State) : Outcome State Fault Refusal :=
  .next (s.ret d (divWord true (s.x a) (s.x b)))

/-- DIVN: natural quotient (R96). -/
def execDivn (d a b : BitVec 5) (s : State) : Outcome State Fault Refusal :=
  .next (s.ret d (divWord false (s.x a) (s.x b)))

/-- REM: remainder of DIV (R96). -/
def execRem (d a b : BitVec 5) (s : State) : Outcome State Fault Refusal :=
  .next (s.ret d (remWord true (s.x a) (s.x b)))

/-- REMN: remainder of DIVN (R96). -/
def execRemn (d a b : BitVec 5) (s : State) : Outcome State Fault Refusal :=
  .next (s.ret d (remWord false (s.x a) (s.x b)))

/-- SHADD: xd = (xa << aux) + xb (R96). -/
def execShadd (d a b c : BitVec 5) (s : State) : Outcome State Fault Refusal :=
  .next (s.ret d ((s.x a <<< c.toNat) + s.x b))

/-- MADD: xd = xa * xb + x(aux) (R96). -/
def execMadd (d a b c : BitVec 5) (s : State) : Outcome State Fault Refusal :=
  .next (s.ret d (s.x a * s.x b + s.x c))

/-- BEXT: aux + 1 bits of xa from bit xb[5:0] on, zeros beyond bit 63 (R96). -/
def execBext (d a b w : BitVec 5) (s : State) : Outcome State Fault Refusal :=
  .next (s.ret d ((s.x a >>> ((s.x b).toNat % 64)) &&& BitVec.ofNat 64 (2 ^ (w.toNat + 1) - 1)))

/-- CLZ: leading zero bits, 64 of 0 (R96). -/
def execClz (d a : BitVec 5) (s : State) : Outcome State Fault Refusal :=
  .next (s.ret d (BitVec.ofNat 64 (clzWord (s.x a))))

/-- CTZ: trailing zero bits, 64 of 0 (R96). -/
def execCtz (d a : BitVec 5) (s : State) : Outcome State Fault Refusal :=
  .next (s.ret d (BitVec.ofNat 64 (ctzFrom (s.x a) 0 64)))

/-- POPC: one bits (R96). -/
def execPopc (d a : BitVec 5) (s : State) : Outcome State Fault Refusal :=
  .next (s.ret d (BitVec.ofNat 64 (popcount (s.x a).toNat 64)))

/-- ADDI: xd = xa + sext(imm16) (R97). -/
def execAddi (d a : BitVec 5) (i : BitVec 16) (s : State) : Outcome State Fault Refusal :=
  .next (s.ret d (s.x a + i.signExtend 64))

/-- ANDI: xd = xa AND zext(imm16) (R97). -/
def execAndi (d a : BitVec 5) (i : BitVec 16) (s : State) : Outcome State Fault Refusal :=
  .next (s.ret d (s.x a &&& i.zeroExtend 64))

/-- ORI: xd = xa OR zext(imm16) (R97). -/
def execOri (d a : BitVec 5) (i : BitVec 16) (s : State) : Outcome State Fault Refusal :=
  .next (s.ret d (s.x a ||| i.zeroExtend 64))

/-- XORI: xd = xa XOR zext(imm16) (R97). -/
def execXori (d a : BitVec 5) (i : BitVec 16) (s : State) : Outcome State Fault Refusal :=
  .next (s.ret d (s.x a ^^^ i.zeroExtend 64))

/-- SHORI: xd = (xa << 16) OR zext(imm16) (R97). -/
def execShori (d a : BitVec 5) (i : BitVec 16) (s : State) : Outcome State Fault Refusal :=
  .next (s.ret d ((s.x a <<< 16) ||| i.zeroExtend 64))

/-- ADDPC: xd = PC + sext(imm16) * 4 (R97). -/
def execAddpc (d : BitVec 5) (i : BitVec 16) (s : State) : Outcome State Fault Refusal :=
  .next (s.ret d (s.th.pc + i.signExtend 64 * 4))

/-- SLLI: shift left by an immediate (R98). -/
def execSlli (d a : BitVec 5) (m : BitVec 6) (s : State) : Outcome State Fault Refusal :=
  .next (s.ret d (s.x a <<< m.toNat))

/-- SRLI: shift right, zeros enter (R98). -/
def execSrli (d a : BitVec 5) (m : BitVec 6) (s : State) : Outcome State Fault Refusal :=
  .next (s.ret d (s.x a >>> m.toNat))

/-- SRAI: shift right, copies of bit 63 enter (R98). -/
def execSrai (d a : BitVec 5) (m : BitVec 6) (s : State) : Outcome State Fault Refusal :=
  .next (s.ret d ((s.x a).sshiftRight m.toNat))

/-- SLTI: xd = 1 if xa < sext(imm12) as s64 (R98). -/
def execSlti (d a : BitVec 5) (i : BitVec 12) (s : State) : Outcome State Fault Refusal :=
  .next (s.ret d (truth ((s.x a).slt (i.signExtend 64))))

end Sys2Proof.Machine
end

