-- ==== Sys2Proof/Machine/Control.lean ====
section
/-! DEFINITION. Majors 0x0C-0x0F without JTAB, and the scalar reads of masks (04_scalar_control.md R99-R115). -/

namespace Sys2Proof.Machine

open Host (Outcome)

/-! ## Transfers (R99, R100) -/

/-- R100: whether a target is a code-space address. -/
def targetOk (w : Word) : Bool := bits w 0 2 == 0 && bits w 48 16 == 0

/-- A taken transfer: cause 0x08 with the target as EVAL, or the link written and the pc at the target (R100, R104, R106). -/
def transfer (s : State) (target : Word) (link : BitVec 5) : Outcome State Fault Refusal :=
  if targetOk target then .next { s with th := (s.th.wx link (s.th.pc + 4)).jump target }
  else .next (trapAt s 0x08 target none)

/-- A conditional branch (R102): taken to PC + sext(off16) * 4, or past it. -/
def branch (s : State) (taken : Bool) (o : BitVec 16) : Outcome State Fault Refusal :=
  if taken then transfer s (s.th.pc + o.signExtend 64 * 4) 0 else .next s.advance

/-- BEQZ (R102). -/
def execBeqz (a : BitVec 5) (o : BitVec 16) (s : State) : Outcome State Fault Refusal := branch s (s.x a == 0) o
/-- BNEZ (R102). -/
def execBnez (a : BitVec 5) (o : BitVec 16) (s : State) : Outcome State Fault Refusal := branch s (s.x a != 0) o
/-- BLTZ (R102). -/
def execBltz (a : BitVec 5) (o : BitVec 16) (s : State) : Outcome State Fault Refusal := branch s ((s.x a).slt 0) o
/-- BGEZ (R102). -/
def execBgez (a : BitVec 5) (o : BitVec 16) (s : State) : Outcome State Fault Refusal := branch s (!(s.x a).slt 0) o
/-- BGTZ (R102). -/
def execBgtz (a : BitVec 5) (o : BitVec 16) (s : State) : Outcome State Fault Refusal := branch s ((0 : Word).slt (s.x a)) o
/-- BLEZ (R102). -/
def execBlez (a : BitVec 5) (o : BitVec 16) (s : State) : Outcome State Fault Refusal := branch s (!(0 : Word).slt (s.x a)) o

/-- The bits below n of a mask. -/
def lowMask (m : BitVec 16384) (n : Nat) : BitVec 16384 := m &&& BitVec.ofNat 16384 (2 ^ n - 1)

/-- A scalar reader of vector results (R26): it waits until the queue is empty. -/
def vectorReader (s : State) (k : State → Outcome State Fault Refusal) : Outcome State Fault Refusal :=
  match s.th.vq with
  | [] => k s
  | _ => .next (s.enterWait .queue none)

/-- BEMPTY (R103): taken when no element below VL is set in the mask-stack top. -/
def execBempty (o : BitVec 16) (s : State) : Outcome State Fault Refusal :=
  vectorReader s fun s =>
    let s := s.correctRegs (fun p => ((s.th.withBad p).badTop 0 s.th.vl.toNat).isSome)
    match s.th.badTop 0 s.th.vl.toNat with
    | some v => .next (trapAt s 0x2B v none)
    | none => branch s (lowMask s.th.maskTop s.th.vl.toNat == 0) o

/-- JMP (R104). -/
def execJmp (o : BitVec 26) (s : State) : Outcome State Fault Refusal := transfer s (s.th.pc + o.signExtend 64 * 4) 0
/-- CALL (R104): x30 links. -/
def execCall (o : BitVec 26) (s : State) : Outcome State Fault Refusal := transfer s (s.th.pc + o.signExtend 64 * 4) 30
/-- JR (R106). -/
def execJr (a : BitVec 5) (s : State) : Outcome State Fault Refusal := transfer s (s.x a) 0
/-- CALLR (R106). -/
def execCallr (d a : BitVec 5) (s : State) : Outcome State Fault Refusal := transfer s (s.x a) d

/-! ## Hardware loops (R109, R113) -/

/-- The checks of LOOP in their order, as the EVAL of cause 0x0A. -/
def loopFails (t : Thread) (count : Word) (len : Nat) : Option Word :=
  if t.ldepth != 0 && t.pc.toNat == (vread t.le (t.ldepth.toNat - 1)).toNat then some t.pc
  else if 0xFFFFFFFF < count.toNat then some count
  else if 0xFFFFFFFFFFFC < t.pc.toNat + 4 * len then some t.pc
  else if count != 0 && t.ldepth == 3 then some count
  else none

/-- A LOOP that enters a level (R109). -/
def Thread.enterLoop (t : Thread) (count : Word) (len : Nat) : Thread :=
  { t with
    lc := vwrite t.lc t.ldepth.toNat (bits count 0 32)
    ls := vwrite t.ls t.ldepth.toNat (bits (t.pc + 4) 0 48)
    le := vwrite t.le t.ldepth.toNat (bits (t.pc + BitVec.ofNat 64 (4 * len)) 0 48)
    ldepth := t.ldepth + 1 }

/-- LOOP (R109): `next` is where the body begins, or past it when the count is 0. -/
def execLoop (a : BitVec 5) (l : BitVec 8) (s : State) : Outcome State Fault Refusal :=
  let len := l.toNat + 1
  match loopFails s.th (s.x a) len with
  | some v => .next (trapAt s 0x0A v none)
  | none =>
    if s.x a = 0 then .next { s with th := s.th.jump (s.th.pc + 4 + BitVec.ofNat 64 (4 * len)) }
    else .next { s with th := (s.th.enterLoop (s.x a) len).jump (s.th.pc + 4) }

/-- The loop register that a selector names (02_encoding.md R56): 0-2 lc, 4-6 ls, 8-10 le, 12 LDEPTH. -/
def Thread.loopReg (t : Thread) (s : BitVec 4) : Word :=
  let i := s.toNat % 4
  match s.toNat / 4 with
  | 0 => (vread t.lc i).zeroExtend 64
  | 1 => (vread t.ls i).zeroExtend 64
  | 2 => (vread t.le i).zeroExtend 64
  | _ => t.ldepth.zeroExtend 64

/-- MFLS (R113). -/
def execMfls (d : BitVec 5) (sb : BitVec 4) (s : State) : Outcome State Fault Refusal := .next (s.ret d (s.th.loopReg sb))

/-- A loop register written (R113). -/
def Thread.setLoopReg (t : Thread) (sel : BitVec 4) (v : Word) : Thread :=
  let i := sel.toNat % 4
  let adr := bits v 0 48 &&& 0xFFFFFFFFFFFC#48
  match sel.toNat / 4 with
  | 0 => { t with lc := vwrite t.lc i (bits v 0 32) }
  | 1 => { t with ls := vwrite t.ls i adr }
  | 2 => { t with le := vwrite t.le i adr }
  | _ => { t with ldepth := bits v 0 2 }

/-- MTLS (R113): a value above 3 for LDEPTH takes cause 0x0A. R113 gives the loop-end check of every younger instruction the new state; that
the check of the MTLS itself has it too is the model's choice (DESIGN CHOICE; log 113). -/
def execMtls (a : BitVec 5) (sb : BitVec 4) (s : State) : Outcome State Fault Refusal :=
  let v := s.x a
  if sb.toNat / 4 = 3 && 3 < v.toNat then .next (trapAt s 0x0A v none)
  else .next { s with th := (s.th.setLoopReg sb v).advance }

/-! ## Scalar reads of masks (R114, R115) -/

/-- The set S of R115 as a mask: bits below VL of ma that are active. -/
def Thread.maskSet (t : Thread) (a : BitVec 4) (k : Bool) : BitVec 16384 :=
  lowMask (t.m[a.toNat] &&& (if k then t.maskTop else BitVec.allOnes 16384)) t.vl.toNat

/-- An uncorrectable word that a scalar read of a mask meets. R115 takes it when ma or the top holds one and R220 when it is read; the
model's choice is a word with bits below VL, active or not, and none wholly at or above VL (DESIGN CHOICE; log 127). Where ma and the
mask-stack top both hold one, the manual gives no order; the model's choice is ma's (DESIGN CHOICE; log 110). -/
def Thread.badMask (t : Thread) (a : BitVec 4) (k : Bool) : Option Word :=
  if t.vl = 0 then none else
  match t.badIn 2 a.toNat 0 ((t.vl.toNat + 7) / 8) with
  | some v => some v
  | none => if k then t.badTop 0 t.vl.toNat else none

/-- A scalar read of a mask: f of the set S (R115). -/
def maskRead (s : State) (d : BitVec 5) (a : BitVec 4) (k : Bool) (f : BitVec 16384 → Word) : Outcome State Fault Refusal :=
  vectorReader s fun s =>
    let s := s.correctRegs (fun p => ((s.th.withBad p).badMask a k).isSome)
    match s.th.badMask a k with
    | some v => .next (trapAt s 0x2B v none)
    | none => .next (s.ret d (f (s.th.maskSet a k)))

/-- MCNT: how many (R115). -/
def execMcnt (d : BitVec 5) (a : BitVec 4) (k : Bool) (s : State) : Outcome State Fault Refusal :=
  maskRead s d a k fun m => BitVec.ofNat 64 (popcount m.toNat 16384)
/-- MANY: whether any (R115). -/
def execMany (d : BitVec 5) (a : BitVec 4) (k : Bool) (s : State) : Outcome State Fault Refusal :=
  maskRead s d a k fun m => truth (m != 0)
/-- MFIRST: the lowest, or all ones (R115). -/
def execMfirst (d : BitVec 5) (a : BitVec 4) (k : Bool) (s : State) : Outcome State Fault Refusal :=
  maskRead s d a k fun m =>
    match (List.range 16384).find? (fun i => m.getLsbD i) with
    | some i => BitVec.ofNat 64 i
    | none => BitVec.allOnes 64

end Sys2Proof.Machine
end

