-- ==== Sys2Proof/Machine/Crypto.lean ====
section
/-! DEFINITION. The digests and signatures that the package's boot and attestation name by their standards (17_package_system.md R397,
R400): SHA-256 and SHA-384 of FIPS 180-4, ECDSA on P-384 of FIPS 186-5, and HSS with L = 2, LMS_SHA256_M32_H15 and LMOTS_SHA256_N32_W8 of
RFC 8554. The manual names the standards; their constants and steps are taken from them (PRESUMED; log 131). -/

namespace Sys2Proof.Machine

/-- The number whose bytes, the most significant first, are given. -/
def beNat (bs : List Byte) : Nat := bs.foldl (fun n b => n * 256 + b.toNat) 0

/-- The n bytes of a number, the most significant first. -/
def beBytes (n v : Nat) : List Byte := (leBytes n v).reverse

/-- n bytes from a place of a list. -/
def slice (bs : List Byte) (at_ n : Nat) : List Byte := (bs.drop at_).take n

/-- Bytes as words, the first byte of each the least significant, as registers hold them. -/
def bytesWords (bs : List Byte) : List Word := (List.range (bs.length / 8)).map (fun i => BitVec.ofNat 64 (leNat (slice bs (8 * i) 8)))

/-! ## SHA-2 (FIPS 180-4) -/

/-- A hash of the SHA-2 family with words of w bits: the rotations of its four functions, of which the last of a small one is a shift, the
constants of its rounds and its first value. -/
structure Sha (w : Nat) where
  big0 : Nat × Nat × Nat
  big1 : Nat × Nat × Nat
  small0 : Nat × Nat × Nat
  small1 : Nat × Nat × Nat
  k : List (BitVec w)
  h0 : List (BitVec w)

/-- A function of three rotations. -/
def shaBig {w : Nat} (r : Nat × Nat × Nat) (x : BitVec w) : BitVec w := x.rotateRight r.1 ^^^ x.rotateRight r.2.1 ^^^ x.rotateRight r.2.2

/-- A function of two rotations and a shift. -/
def shaSmall {w : Nat} (r : Nat × Nat × Nat) (x : BitVec w) : BitVec w := x.rotateRight r.1 ^^^ x.rotateRight r.2.1 ^^^ (x >>> r.2.2)

/-- One round: the eight working variables, and the next sixteen words of the message schedule. -/
def Sha.round {w : Nat} (f : Sha w) (p : List (BitVec w) × List (BitVec w)) (k : BitVec w) : List (BitVec w) × List (BitVec w) :=
  let v (i : Nat) : BitVec w := p.1.getD i 0
  let m (i : Nat) : BitVec w := p.2.getD i 0
  let t1 := v 7 + shaBig f.big1 (v 4) + ((v 4 &&& v 5) ^^^ (~~~v 4 &&& v 6)) + k + m 0
  let t2 := shaBig f.big0 (v 0) + ((v 0 &&& v 1) ^^^ (v 0 &&& v 2) ^^^ (v 1 &&& v 2))
  ([t1 + t2, v 0, v 1, v 2, v 3 + t1, v 4, v 5, v 6],
    p.2.drop 1 ++ [shaSmall f.small1 (m 14) + m 9 + shaSmall f.small0 (m 1) + m 0])

/-- One block of 16 words: the rounds, and their result added to the value before. -/
def Sha.block {w : Nat} (f : Sha w) (h : List (BitVec w)) (ws : List (BitVec w)) : List (BitVec w) :=
  List.zipWith (· + ·) h (f.k.foldl f.round (h, ws)).1

/-- A message of whole bytes, padded to whole blocks of 16 words of n bytes: a bit of 1, bits of 0, and its length in bits in two words. -/
def shaPad (n : Nat) (m : List Byte) : List Byte :=
  m ++ [0x80] ++ List.replicate ((30 * n - 1 - m.length % (16 * n)) % (16 * n)) 0 ++ beBytes (2 * n) (8 * m.length)

/-- The value after a message, as bytes. -/
def Sha.digest {w : Nat} (f : Sha w) (m : List Byte) : List Byte :=
  let n := w / 8
  let p := shaPad n m
  let words (i : Nat) : List (BitVec w) := (List.range 16).map (fun j => BitVec.ofNat w (beNat (slice p (16 * n * i + n * j) n)))
  (((List.range (p.length / (16 * n))).foldl (fun h i => f.block h (words i)) f.h0).map (fun x => beBytes n x.toNat)).flatten

/-- The constants of the rounds of SHA-256. -/
def sha256K : List (BitVec 32) :=
  [0x428a2f98, 0x71374491, 0xb5c0fbcf, 0xe9b5dba5, 0x3956c25b, 0x59f111f1, 0x923f82a4, 0xab1c5ed5,
   0xd807aa98, 0x12835b01, 0x243185be, 0x550c7dc3, 0x72be5d74, 0x80deb1fe, 0x9bdc06a7, 0xc19bf174]
  ++ [0xe49b69c1, 0xefbe4786, 0x0fc19dc6, 0x240ca1cc, 0x2de92c6f, 0x4a7484aa, 0x5cb0a9dc, 0x76f988da,
   0x983e5152, 0xa831c66d, 0xb00327c8, 0xbf597fc7, 0xc6e00bf3, 0xd5a79147, 0x06ca6351, 0x14292967]
  ++ [0x27b70a85, 0x2e1b2138, 0x4d2c6dfc, 0x53380d13, 0x650a7354, 0x766a0abb, 0x81c2c92e, 0x92722c85,
   0xa2bfe8a1, 0xa81a664b, 0xc24b8b70, 0xc76c51a3, 0xd192e819, 0xd6990624, 0xf40e3585, 0x106aa070]
  ++ [0x19a4c116, 0x1e376c08, 0x2748774c, 0x34b0bcb5, 0x391c0cb3, 0x4ed8aa4a, 0x5b9cca4f, 0x682e6ff3,
   0x748f82ee, 0x78a5636f, 0x84c87814, 0x8cc70208, 0x90befffa, 0xa4506ceb, 0xbef9a3f7, 0xc67178f2]

/-- SHA-256, whose digest is 32 bytes. -/
def sha256 (m : List Byte) : List Byte :=
  Sha.digest {
    big0 := (2, 13, 22), big1 := (6, 11, 25), small0 := (7, 18, 3), small1 := (17, 19, 10), k := sha256K
    h0 := [0x6a09e667, 0xbb67ae85, 0x3c6ef372, 0xa54ff53a, 0x510e527f, 0x9b05688c, 0x1f83d9ab, 0x5be0cd19] } m

/-- The constants of the rounds of SHA-384. -/
def sha384K : List (BitVec 64) :=
  [0x428a2f98d728ae22, 0x7137449123ef65cd, 0xb5c0fbcfec4d3b2f, 0xe9b5dba58189dbbc,
   0x3956c25bf348b538, 0x59f111f1b605d019, 0x923f82a4af194f9b, 0xab1c5ed5da6d8118,
   0xd807aa98a3030242, 0x12835b0145706fbe, 0x243185be4ee4b28c, 0x550c7dc3d5ffb4e2,
   0x72be5d74f27b896f, 0x80deb1fe3b1696b1, 0x9bdc06a725c71235, 0xc19bf174cf692694]
  ++ [0xe49b69c19ef14ad2, 0xefbe4786384f25e3, 0x0fc19dc68b8cd5b5, 0x240ca1cc77ac9c65,
   0x2de92c6f592b0275, 0x4a7484aa6ea6e483, 0x5cb0a9dcbd41fbd4, 0x76f988da831153b5,
   0x983e5152ee66dfab, 0xa831c66d2db43210, 0xb00327c898fb213f, 0xbf597fc7beef0ee4,
   0xc6e00bf33da88fc2, 0xd5a79147930aa725, 0x06ca6351e003826f, 0x142929670a0e6e70]
  ++ [0x27b70a8546d22ffc, 0x2e1b21385c26c926, 0x4d2c6dfc5ac42aed, 0x53380d139d95b3df,
   0x650a73548baf63de, 0x766a0abb3c77b2a8, 0x81c2c92e47edaee6, 0x92722c851482353b,
   0xa2bfe8a14cf10364, 0xa81a664bbc423001, 0xc24b8b70d0f89791, 0xc76c51a30654be30,
   0xd192e819d6ef5218, 0xd69906245565a910, 0xf40e35855771202a, 0x106aa07032bbd1b8]
  ++ [0x19a4c116b8d2d0c8, 0x1e376c085141ab53, 0x2748774cdf8eeb99, 0x34b0bcb5e19b48a8,
   0x391c0cb3c5c95a63, 0x4ed8aa4ae3418acb, 0x5b9cca4f7763e373, 0x682e6ff3d6b2b8a3,
   0x748f82ee5defb2fc, 0x78a5636f43172f60, 0x84c87814a1f0ab72, 0x8cc702081a6439ec,
   0x90befffa23631e28, 0xa4506cebde82bde9, 0xbef9a3f7b2c67915, 0xc67178f2e372532b]
  ++ [0xca273eceea26619c, 0xd186b8c721c0c207, 0xeada7dd6cde0eb1e, 0xf57d4f7fee6ed178,
   0x06f067aa72176fba, 0x0a637dc5a2c898a6, 0x113f9804bef90dae, 0x1b710b35131c471b,
   0x28db77f523047d84, 0x32caab7b40c72493, 0x3c9ebe0a15c9bebc, 0x431d67c49c100d4c,
   0x4cc5d4becb3e42b6, 0x597f299cfc657e2a, 0x5fcb6fab3ad6faec, 0x6c44198c4a475817]

/-- SHA-384, whose digest is the first 48 of 64 bytes. -/
def sha384 (m : List Byte) : List Byte :=
  (Sha.digest {
    big0 := (28, 34, 39), big1 := (14, 18, 41), small0 := (1, 8, 7), small1 := (19, 61, 6), k := sha384K
    h0 := [0xcbbb9d5dc1059ed8, 0x629a292a367cd507, 0x9159015a3070dd17, 0x152fecd8f70e5939,
   0x67332667ffc00b31, 0x8eb44a8768581511, 0xdb0c2e0d64f98fa7, 0x47b5481dbefa4fa4] } m).take 48

/-! ## ECDSA on P-384 (FIPS 186-5) -/

/-- The prime of the field of P-384. -/
def p384P : Nat := 2 ^ 384 - 2 ^ 128 - 2 ^ 96 + 2 ^ 32 - 1

/-- The order of the base point. -/
def p384N : Nat := 0xffffffffffffffffffffffffffffffffffffffffffffffffc7634d81f4372ddf581a0db248b0a77aecec196accc52973

/-- The coefficient b; a is -3. -/
def p384B : Nat := 0xb3312fa7e23ee7e4988e056be3f82d19181d9c6efe8141120314088f5013875ac656398d8a2ed19d2a85c8edd3ec2aef

/-- The base point. -/
def p384G : Nat × Nat :=
  (0xaa87ca22be8b05378eb1c71ef320ad746e1d3b628ba79b9859f741e082542a385502f25dbf55296c3a545e3872760ab7,
   0x3617de4a96262c6f5d9e98bf9292dc29f8f41dbd289a147ce9da3113b5f0b8c00a60b1ce1d7e819d7a431d7c90ea0e5f)

/-- x to the power e of at most 384 bits, modulo m. -/
def powMod (m x e : Nat) : Nat :=
  (List.range 384).foldl (fun r i => let r := r * r % m; if e.testBit (383 - i) then r * x % m else r) 1

/-- The inverse modulo a prime. -/
def invMod (m x : Nat) : Nat := powMod m (x % m) (m - 2)

/-- The sum of two points; none is the point at infinity. -/
def addPoint : Option (Nat × Nat) → Option (Nat × Nat) → Option (Nat × Nat)
  | none, q => q
  | q, none => q
  | some (x1, y1), some (x2, y2) =>
    if x1 = x2 && (y1 + y2) % p384P = 0 then none else
    let l := if x1 = x2 then (3 * x1 * x1 + (p384P - 3)) * invMod p384P (2 * y1) else (y2 + (p384P - y1)) * invMod p384P (x2 + (p384P - x1))
    let l := l % p384P
    let x3 := (l * l + (2 * p384P - x1 - x2)) % p384P
    some (x3, (l * (x1 + (p384P - x3)) + (p384P - y1)) % p384P)

/-- A point k times, for k of at most 384 bits. -/
def mulPoint (k : Nat) (q : Nat × Nat) : Option (Nat × Nat) :=
  (List.range 384).foldl (fun r i => let r := addPoint r r; if k.testBit (383 - i) then addPoint r (some q) else r) none

/-- Whether an ECDSA signature, r and s, verifies under a public key, an uncompressed point, over a digest. -/
def ecdsaVerifies (key sig digest : List Byte) : Bool :=
  let x := beNat (slice key 1 48)
  let y := beNat (slice key 49 48)
  let r := beNat (slice sig 0 48)
  let s := beNat (slice sig 48 48)
  key.length == 97 && key.getD 0 0 == 4 && x < p384P && y < p384P && y * y % p384P == (x * x * x + (p384P - 3) * x + p384B) % p384P
    && 1 ≤ r && r < p384N && 1 ≤ s && s < p384N
    && (let w := invMod p384N s
        match addPoint (mulPoint (beNat digest * w % p384N) p384G) (mulPoint (r * w % p384N) (x, y)) with
        | none => false
        | some q => q.1 % p384N == r)

/-! ## HSS (RFC 8554) -/

/-- The candidate for an LM-OTS public key that a one-time signature gives a message, under an identifier and a leaf (algorithm 4b, with
N = 32 and W = 8): of each of 34 chains of 255 steps, what is left of it. -/
def lmotsKey (id : List Byte) (q : Nat) (sig msg : List Byte) : List Byte :=
  let at_ := id ++ beBytes 4 q
  let hash := sha256 (at_ ++ [0x81, 0x81] ++ slice sig 4 32 ++ msg)
  let digits := hash ++ beBytes 2 (hash.foldl (fun n b => n + (255 - b.toNat)) 0)
  let chain (i : Nat) : List Byte :=
    let a := (digits.getD i 0).toNat
    (List.range (255 - a)).foldl (fun x j => sha256 (at_ ++ beBytes 2 i ++ beBytes 1 (a + j) ++ x)) (slice sig (36 + 32 * i) 32)
  sha256 (at_ ++ [0x80, 0x80] ++ ((List.range 34).map chain).flatten)

/-- Whether an LMS signature of 1,612 bytes verifies under a public key of 56 bytes (algorithm 6a, with M = 32 and H = 15): its types, and the
root that its one-time signature and its path give. -/
def lmsVerifies (key sig msg : List Byte) : Bool :=
  let id := slice key 8 16
  let q := beNat (slice sig 0 4)
  let leaf := sha256 (id ++ beBytes 4 (2 ^ 15 + q) ++ [0x82, 0x82] ++ lmotsKey id q (slice sig 4 1124) msg)
  let up (p : Nat × List Byte) (i : Nat) : Nat × List Byte :=
    let path := slice sig (1132 + 32 * i) 32
    (p.1 / 2, sha256 (id ++ beBytes 4 (p.1 / 2) ++ [0x83, 0x83] ++ if p.1 % 2 = 1 then path ++ p.2 else p.2 ++ path))
  key.length == 56 && sig.length == 1612 && beNat (slice key 0 4) == 7 && beNat (slice key 4 4) == 4
    && beNat (slice sig 4 4) == 4 && beNat (slice sig 1128 4) == 7 && q < 2 ^ 15
    && ((List.range 15).foldl up (2 ^ 15 + q, leaf)).2 == slice key 24 32

/-- Whether an HSS signature of 3,284 bytes with two levels verifies under a public key of 60 bytes (section 6.3): the upper level signs the
key of the lower one, and that signs the message. -/
def hssVerifies (key sig msg : List Byte) : Bool :=
  let lower := slice sig 1616 56
  key.length == 60 && sig.length == 3284 && beNat (slice key 0 4) == 2 && beNat (slice sig 0 4) == 1
    && lmsVerifies (slice key 4 56) (slice sig 4 1612) lower && lmsVerifies lower (slice sig 1672 1612) msg

end Sys2Proof.Machine
end

