-- ==== Sys2Proof/Machine/Service.lean ====
section
/-! DEFINITION. The services of a die's memory: fault service, invalidation, migration and prefetch (13_die_memory.md R306, R308,
R309, R322, R323, R325). -/

namespace Sys2Proof.Machine

open Host (Outcome)

/-- Every thread changed by a function of its slot. -/
def State.mapThreads (s : State) (f : Nat → Thread → Thread) : State :=
  { s with th := f s.cur s.th, parked := s.parked.map (fun p => (p.1, f p.1 p.2)) }

/-! ## Fault service (R306) -/

/-- The page of an FSREQ image or an FSANS value that a held element's wait names. -/
def heldPage (die : Nat) (t : Thread) : Option Word :=
  match t.wait with
  | some (.service d img) => if d = die then some img else none
  | _ => none

/-- REFUSE reaches the elements held for a page: each fails with cause 0x43 when it is tried again, which the wait records by
clearing VALID in its image. -/
def refuseHeld (s : State) (die : Nat) (name : BitVec 45) : State :=
  s.mapThreads (fun _ t => match heldPage die t with
    | some img => if pageName img == name then { t with wait := some (.service die (img &&& 0x7FFFFFFFFFFFFFFF#64)) } else t
    | none => t)

/-- An answer for a page: it ends the pending request of that page, and every held element, of a thread or of an engine, walks again or
fails; an answer that matches no pending request is ignored. -/
def answerPage (s : State) (die : Nat) (name : BitVec 45) (refuse : Bool) : State :=
  let d := s.die die
  if !d.fsreqs.any (fun r => pageName r.page == name) then s else
  let s := s.setDie die { d with
    fsreqs := d.fsreqs.filter (fun r => pageName r.page != name)
    holds := if refuse then d.holds.map (fun h => if h.what == name.toNat then { h with failed := true } else h)
      else d.holds.filter (fun h => h.what != name.toNat || h.failed) }
  let here (func : BitVec 3) (w1 w2 : Word) : Bool := func == 0 && w2 == BitVec.ofNat 64 (die % 8) && pageName w1 == name
  let s := s.unpost (die / 8) (fun a => here a.func a.w1 a.w2) (fun r => here r.func r.w1 r.w2)
  if refuse then refuseHeld s die name else s

/-- A read of FSREQ removes the oldest pending request that has not been read and was not posted to the host (R325): its image
and the state after. -/
def readFsreq (s : State) (die : Nat) : Word × State :=
  let d := s.die die
  match d.fsreqs.find? (fun r => !r.read && !r.host) with
  | none => (0, s)
  | some r => (r.page, s.setDie die { d with fsreqs := d.fsreqs.map (fun q => if q == r then { q with read := true } else q) })

/-- A read of FSREQ from outside. -/
def execFsreqRead (die : Nat) (s : State) : Outcome State Fault Refusal := .next (outside s (die / 8) (readFsreq s die).2)

/-- A write of FSANS with REFUSE = 0 (R306, R325). -/
def execFsansRetry (die : Nat) (v : BitVec 64) (s : State) : Outcome State Fault Refusal :=
  .next (outside s (die / 8) (answerPage s die (pageName v) false))

/-- A write of FSANS with REFUSE = 1. -/
def execFsansRefuse (die : Nat) (v : BitVec 64) (s : State) : Outcome State Fault Refusal :=
  .next (outside s (die / 8) (answerPage s die (pageName v) true))

/-- A request unanswered for 10 ms is treated as refused. -/
def execFaultServiceTimeout (die idx : Nat) (s : State) : Outcome State Fault Refusal :=
  match (s.die die).fsreqs[idx]? with
  | some r => .next (answerPage s die (pageName r.page) true)
  | none => .next s

/-! ## Elements that hold translations (R308) -/

/-- Whether a place of a home, reached at an address of an ASID, is of pages that a test names; an address under tag 0xC may be of any. -/
def holdsPage (die : Nat) (asid : BitVec 12) (names : Word → Bool) (a : BitVec 12) (addr : Word) (key : Nat) : Bool :=
  a == asid && key < 2 ^ 60 && keyDie key == die && (tagOf addr != 0 || names addr)

/-- Every element that holds a translation of pages of a home, and can perform, does: pending elements, buffered line writes, and accepted
contributions. -/
def forceHome (s : State) (at_ : BitVec 12 → Word → Nat → Bool) : State :=
  let s := s.slots.foldl (fun s k => performWhere s k (fun p => at_ p.asid p.addr p.key)) s
  s.cores.foldl (fun s c => mergeWhere (sendWhere s c.1 (fun w => at_ w.asid w.line w.key)) c.1 (fun e => at_ e.asid e.line e.key)) s

/-- Whether a chunk of a copy holds such a translation (R307). -/
def chunkHolds (at_ : BitVec 12 → Word → Nat → Bool) (asid : BitVec 12) (src dst : Word) (cs : List Chunk) : Bool :=
  let one (h : Held) (a : Word) : Bool := match h with
    | .at_ key => at_ asid a key
    | .fails _ => false
  cs.any (fun c => one c.src (src + BitVec.ofNat 64 c.lo) || one c.dst (dst + BitVec.ofNat 64 c.lo))

/-- Whether any element or chunk still holds such a translation. -/
def anyHolds (s : State) (at_ : BitVec 12 → Word → Nat → Bool) : Bool :=
  s.slots.any (fun k => (s.thread k).pend.any (fun p => at_ p.asid p.addr p.key))
    || s.cores.any (fun c => c.2.comb.any (fun e => at_ e.asid e.line e.key))
    || (lineOpen s (fun w => at_ w.asid w.line w.key)).isSome
    || s.dies.any (fun d => d.2.copies.any (fun j => chunkHolds at_ j.asid j.src j.dst j.chunks))
    || s.clusters.any (fun c => match c.2.seqNow with
      | some q => chunkHolds at_ q.asid (q.word q.step 2) (q.word q.step 1) q.chunks
      | none => false)

/-- Whether the translation of an address may be one that an invalidation drops (R308, R325): a named page lies in the 2 MiB about the
address, which one translation may cover. How large the dropped one was is not kept, so that BUSY stays 1 at least as long as R308 says. -/
def Inval.names (i : Inval) (a : Word) : Bool :=
  i.all || (chanOf a == chanOf i.addr && offOf a / 2 ^ 21 * 32 < offOf i.addr / 65536 + i.npage.toNat
    && offOf i.addr / 65536 < offOf a / 2 ^ 21 * 32 + 32 && i.npage != 0)

/-- The cached translations of an ASID that a test on their 64 KiB pages picks, by their first and last, leave a die (R308, R309). -/
def dropXlats (d : Die) (asid : BitVec 12) (hits : BitVec 6 → Nat → Nat → Bool) : Die :=
  { d with xlats := d.xlats.filter (fun x =>
      !(x.asid == asid && hits x.chan (x.page * x.size / 65536) ((x.page * x.size + x.size - 1) / 65536))) }

/-- An invalidation starts: the die drops its cached translations of the named pages (R308). -/
def Inval.start (i : Inval) (d : Die) : Die :=
  let first := offOf i.addr / 65536
  dropXlats d (bits i.addr 49 12) (fun chan lo hi => i.all || (chan == chanOf i.addr && lo < first + i.npage.toNat && first ≤ hi))

/-- A write of INVCTL.GO (R308): the invalidation starts, or is queued behind the running one, up to eight deep. -/
def startInval (s : State) (die : Nat) : State :=
  let d := s.die die
  if d.invals.length < 9 then
    let i : Inval := ⟨d.invaddr, bits d.invctl 0 32, bit d.invctl 32⟩
    s.setDie die { (if d.invals.isEmpty then i.start d else d) with invals := d.invals ++ [i] }
  else s

/-- INVALIDATION: a write of GO from outside. -/
def execInvalidation (die : Nat) (s : State) : Outcome State Fault Refusal := .next (outside s (die / 8) (startInval s die))

/-- The oldest invalidation ends once every element and chunk that holds a dropped translation has performed, and the next one starts. -/
def finishInval (s : State) (die : Nat) : State :=
  match (s.die die).invals with
  | [] => s
  | i :: r =>
    let at_ := holdsPage die (bits i.addr 49 12) i.names
    let s := forceHome s at_
    if anyHolds s at_ then s else
    let d := s.die die
    s.setDie die { (match r with
      | [] => d
      | j :: _ => j.start d) with invals := r }

/-- INVALIDATION_COMPLETE (R308). -/
def execInvalidationComplete (die : Nat) (s : State) : Outcome State Fault Refusal := .next (finishInval s die)

/-! ## Migration (R309) -/

/-- Whether MIGDST names a frame of a page's size in its pseudo-channel. -/
def migFrameOk (addr : Word) (dst : Nat) (big : Bool) : Bool :=
  dst / 2 ^ 31 == (chanOf addr).toNat && dst % 2 ^ 31 < 0x60000000 && dst % (if big then 2 ^ 21 else 2 ^ 16) == 0

/-- A write of MIGCTL.GO: ignored while a migration runs; refused with ERR as R309 lists; otherwise the page is migrating. -/
def startMigration (s : State) (die : Nat) : State :=
  let d := s.die die
  if d.mig.isSome then s else
  match leafEntry s die (bits d.migaddr 49 12) d.migaddr with
  | some (_, big) =>
    if big == d.migbig && migFrameOk d.migaddr d.migdst.toNat d.migbig
    then s.setDie die { d with mig := some ⟨d.migaddr, d.migdst.toNat, d.migbig⟩ }
    else s.setDie die { d with migerr := true }
  | none => s.setDie die { d with migerr := true }

/-- MIGRATION: a write of GO from outside. -/
def execMigration (die : Nat) (s : State) : Outcome State Fault Refusal := .next (outside s (die / 8) (startMigration s die))

/-- n bytes of memory copied from one place to another; the frames of a page are equal or disjoint. -/
def memCopy (m : List Host.Cell) (src dst n : Nat) : List Host.Cell :=
  m.filter (fun c => c.1 < dst)
    ++ (m.filter (fun c => src ≤ c.1 && c.1 < src + n)).map (fun c => (c.1 - src + dst, c.2))
    ++ m.filter (fun c => dst + n ≤ c.1)

/-- What is kept by place of a page that moves from a frame to another of a die goes with it: the companion's and the cores' cached lines
and the sync variables of its lines. -/
def movePlaces (s : State) (die old new size : Nat) : State :=
  let d := s.die die
  let line (l : Nat) : Nat := if old / 128 ≤ l && l < (old + size) / 128 then l - old / 128 + new / 128 else l
  let s := if d.hostLines.isEmpty && d.syncVars.isEmpty then s else s.setDie die { d with
    hostLines := d.hostLines.map line, syncVars := d.syncVars.map (fun e => { e with line := line e.line }) }
  if s.cores.all (fun c => c.2.dcache.isEmpty) then s else
  { s with cores := s.cores.map (fun c => (c.1, { c.2 with
      dcache := c.2.dcache.map (fun l => { l with key := line (l.key / 128) * 128 }) })) }

/-- The page moves once the elements and chunks that hold its old translation have performed: its bytes and marks go to the new frame, and
its leaf entry names it. -/
def finishMigration (s : State) (die : Nat) : State :=
  match (s.die die).mig with
  | none => s
  | some g =>
    let names (a : Word) : Bool := chanOf a == chanOf g.addr
      && (if g.big then offOf a / 2 ^ 21 == offOf g.addr / 2 ^ 21 else offOf a / 2 ^ 16 == offOf g.addr / 2 ^ 16)
    let at_ := holdsPage die (bits g.addr 49 12) names
    let s := forceHome s at_
    if anyHolds s at_ then s else
    let first := offOf g.addr / (if g.big then 2 ^ 21 else 2 ^ 16) * (if g.big then 32 else 1)
    let drop (d : Die) : Die := dropXlats d (bits g.addr 49 12) (fun chan lo hi =>
      chan == chanOf g.addr && lo < first + (if g.big then 32 else 1) && first ≤ hi)
    let s := s.setDie die { drop (s.die die) with mig := none }
    match leafEntry s die (bits g.addr 49 12) g.addr with
    | none => s
    | some (place, _) =>
      let size := if g.big then 2 ^ 21 else 2 ^ 16
      let old := podKey die ((bits (memWord s.mem place) 8 29).toNat * 256 / size * size)
      let new := podKey die g.dst
      let entry := (memWord s.mem place &&& ~~~(0x1FFFFFFF00#64)) ||| BitVec.ofNat 64 g.dst
      let soft := s.soft.map (fun w => if old ≤ w.1 * 8 && w.1 * 8 < old + size then (w.1 - old / 8 + new / 8, w.2) else w)
      let moved := (s.poison.filter (fun w => old ≤ w * 8 && w * 8 < old + size)).map (fun w => w - old / 8 + new / 8)
      let stay := s.poison.filter (fun w => !(old ≤ w * 8 && w * 8 < old + size) && !(new ≤ w * 8 && w * 8 < new + size))
      let frames := s.framePoison.map (fun w => if old ≤ w * 8 && w * 8 < old + size then w - old / 8 + new / 8 else w)
      movePlaces (moved.foldl State.mark
        { s with mem := memPut (memCopy s.mem old new size) place (leBytes 8 entry.toNat), poison := stay, soft := soft, framePoison := frames })
        die old new size

/-- MIGRATION_COMPLETE (R309). -/
def execMigrationComplete (die : Nat) (s : State) : Outcome State Fault Refusal := .next (finishMigration s die)

/-! ## Prefetch (R322, R323) -/

/-- PREFETCH_FILL: a fill that meets an eviction of its residency slot is dropped and counted; otherwise only timing changes. -/
def execPrefetchFill (die : Nat) (evict : Bool) (s : State) : Outcome State Fault Refusal :=
  let d := s.die die
  if d.pfen && evict then .next (s.setDie die { d with pfdrop := satAdd d.pfdrop 1 }) else .next s

end Sys2Proof.Machine
end

