-- ==== Sys2Proof/Machine/Relay.lean ====
section
/-! DEFINITION. Accesses of engines, and the relayout engine: steering of handle accesses, the conversion of tiles, RELAYOUT's
records (06_memory_isa.md R169; 09_core.md R213-R215; 13_die_memory.md R440; 14_views_layouts.md R342-R348). -/

namespace Sys2Proof.Machine

open Host (Outcome)

/-! ## Engine elements (R440) -/

/-- An engine's hold joins a list, unless it is there. -/
def addHold (hs : List Hold) (who : List Nat) (what : Nat) : List Hold :=
  if hs.any (fun h => h.who == who && h.what == what) then hs else hs ++ [⟨who, what, false⟩]

/-- What an engine does about a stop: it asks for the page it waits for and is held for it, it waits for a node, it notes the
uncorrectable word that it met, or it uses up the refusal or the limit that failed its element (13_die_memory.md R306; 18_fabric.md
R414). -/
def engineStop (s : State) (ag : Agent) (st : Stop) : State :=
  match st with
  | .wait (.service home img) =>
    let s := requestPage s home img
    let d := s.die home
    s.setDie home { d with holds := addHold d.holds ag.who (pageName img).toNat }
  | .wait (.unreachable _ node) =>
    let d := s.die (slotDie ag.slot)
    s.setDie (slotDie ag.slot) { d with lost := addHold d.lost ag.who node }
  | .trap 0x2C a => noteWord s ag a
  | .trap 0x43 _ => { s with dies := s.dies.map (fun p => (p.1, { p.2 with holds := p.2.holds.filter (fun h => !(h.who == ag.who && h.failed)) })) }
  | .trap 0x60 _ => { s with dies := s.dies.map (fun p => (p.1, { p.2 with lost := p.2.lost.filter (fun h => !(h.who == ag.who && h.failed)) })) }
  | _ => s

/-- The agent of an engine of a die; what it works on names it among the die's engines. -/
abbrev engineAgent (die : Nat) (asid : BitVec 12) (priv : Bool) (part : List Nat) : Agent := ⟨asid, priv, die * 256, 5 :: die :: part⟩

/-! ## Steering (R169, R214) -/

/-- Whether a record still steers: it is live or halted. -/
abbrev Relay.steers (r : Relay) : Bool := r.state == 1#2 || r.state == 3#2

/-- The phase of a storage tile in a record; a tile beyond the list is converted. -/
abbrev Relay.phase (r : Relay) (tile : Nat) : TilePhase := r.tiles.getD tile .converted

/-- The record that a handle names, when it is a record of the handle's tensor (R342, R347). -/
def recordOf (s : State) (die : Nat) (h : BitVec 256) (asid : BitVec 12) : Option Relay :=
  if !hRlp h then none else
  match (s.die die).relays.entry (hRlid h) with
  | some r => if r.asid == asid && hBase r.hand == hBase h then some r else none
  | none => none

/-- The state of a tile that a core's tile-state cache holds, if it does (R214). -/
def cachedTile (s : State) (core die record tile : Nat) : Option Bool :=
  ((s.core core).tileStates.find? (fun e => e.die == die && e.record == record && e.tile == tile)).map (·.converted)

/-- The address of an element through a handle that a core asks for, by the state of its storage tile (R169, R214): at once where the core
holds it; a tile that is being converted holds the element. -/
def steer (s : State) (slot core : Nat) (h : BitVec 256) (c : Coord) : Except Stop (Word × Bool) :=
  let t := hShape h
  let new := elemAddr (hLayout h) (hBase h) t c
  if !hRlp h then .ok new else
  let die := s.homeOf (slotNode slot) (hBase h)
  let tile := storageTile (hLayout h) t c
  match (if (recordOf s die h (s.thread slot).asid).isSome then cachedTile s core die (hRlid h) tile else none) with
  | some converted => .ok (if converted then new else elemAddr (hOld h) (hAlt h) t c)
  | none =>
  if !s.reachable (slotDie slot) (nodeOf (hBase h)) then .error (.wait (.unreachable new.1 (nodeOf (hBase h)))) else
  match recordOf s die h (s.thread slot).asid with
  | none => .ok new
  | some r =>
    if !r.steers then .ok new else
    match r.phase tile with
    | .converted => .ok new
    | .waiting => .ok (elemAddr (hOld h) (hAlt h) t c)
    | .converting => .error (.wait (.steer die (hRlid h) tile))

/-- A complete record is freed once no core holds an entry for it (R347). -/
def freeRecord (s : State) (die record : Nat) : State :=
  let d := s.die die
  if (d.relays.entry record).any (fun r => r.state == 2#2)
      && !s.cores.any (fun p => p.2.tileStates.any (fun e => e.die == die && e.record == record))
  then dropHolds (s.setDie die { d with relays := d.relays.drop record }) (fun w => w.take 4 == [5, die, 1, record]) else s

/-- A core enters a tile's state in its cache of 64 entries (R214): on a miss, for a record that steers and a tile that is not
being converted. Which entry a full cache gives up is the model's choice: the oldest (log 107). -/
def cacheTile (s : State) (core die record tile : Nat) : State :=
  let c := s.core core
  if c.tileStates.any (fun e => e.die == die && e.record == record && e.tile == tile) then s else
  match (s.die die).relays.entry record with
  | none => s
  | some r =>
    if !r.steers || r.phase tile == .converting then s else
    let out := c.tileStates.take (c.tileStates.length - 63)
    let s := s.setCore core { c with
      tileStates := c.tileStates.drop out.length ++ [⟨die, record, tile, r.phase tile == .converted⟩] }
    out.foldl (fun s e => freeRecord s e.die e.record) s

/-- TILE_STATE_QUERY (R214). -/
def execTileStateQuery (core die record tile : Nat) (s : State) : Outcome State Fault Refusal :=
  .next (cacheTile s core die record tile)

/-- The entries of cores for tiles of a record that a test picks are dropped (R215). -/
def dropTiles (s : State) (die record : Nat) (pick : Nat → Bool) : State :=
  { s with cores := s.cores.map (fun p => (p.1, { p.2 with
      tileStates := p.2.tileStates.filter (fun e => !(e.die == die && e.record == record && pick e.tile)) })) }

/-! ## Conversion (R343) -/

/-- A record of a die replaced. -/
def State.setRelay (s : State) (die rec_ : Nat) (r : Relay) : State :=
  let d := s.die die
  s.setDie die { d with relays := d.relays.put rec_ r }

/-- The phase of one tile changed. -/
def Relay.setPhase (r : Relay) (tile : Nat) (p : TilePhase) : Relay := { r with tiles := r.tiles.set tile p }

/-- Whether an element of an ASID at an address may have been steered to the old home of a record's tile: it lies in the old storage. -/
def Relay.steered (r : Relay) (asid : BitVec 12) (a : Word) : Bool :=
  asid == r.asid && (List.range 128).any (fun i =>
    inStorage r.oldLayout.toNat r.altBase (hShape r.hand) (a + BitVec.ofNat 64 i))

/-- Elements that have been steered to the old storage perform, as far as they can by themselves (R215). -/
def forceSteered (s : State) (r : Relay) : State :=
  let s := s.slots.foldl (fun s k => performWhere s k (fun p => r.steered p.asid p.addr)) s
  s.cores.foldl (fun s c => sendWhere s c.1 (fun w => r.steered w.asid w.line)) s

/-- Whether one of them has not performed. -/
def steeredOpen (s : State) (r : Relay) : Bool :=
  s.slots.any (fun k => (s.thread k).pend.any (fun p => r.steered p.asid p.addr)) || (lineOpen s (fun w => r.steered w.asid w.line)).isSome

/-- The engine takes the next tile of a live record, at most four at once (R343), once its holders have dropped their entries and the
elements that they steered to the old home have performed (R215); a host-assisted conversion is posted (17_package_system.md R394). -/
def startConversion (s : State) (die record : Nat) : State :=
  match (s.die die).relays.entry record with
  | none => s
  | some r =>
    match r.order with
    | [] => s
    | tile :: rest =>
      if r.state != 1#2 || 4 ≤ (r.tiles.filter (· == .converting)).length then s else
      let s := forceSteered (dropTiles s die record (· == tile)) r
      if steeredOpen s r then s else
      let node := die / 8
      let host := (s.pkg node).split.getLsbD 3
      if host then
        match s.nextTag node with
        | none => s
        | some tag =>
          let s := s.setRelay die record { r.setPhase tile .converting with order := rest, host := r.host ++ [(tile, tag)] }
          s.post node ⟨3, 0, BitVec.ofNat 64 (die % 8 + record * 2 ^ 8 + tile * 2 ^ 32), r.altBase, hBase r.hand⟩
      else s.setRelay die record { r.setPhase tile .converting with order := rest }

/-- TILE_CONVERSION_START (R343). -/
def execTileConversionStart (die record : Nat) (s : State) : Outcome State Fault Refusal := .next (startConversion s die record)

/-- The views of a master that has moved take the new storage as their master (R344, R346). -/
def retarget (d : Die) (r : Relay) : Die :=
  let h := hOfWords (hBase r.hand) (hWord r.hand 1) (hWord2 (hFmt r.hand) (hSew r.hand) (hLayout r.hand) 0 true false false 0 0) 0
  { d with
    views := d.views.map (fun p => if p.2.asid == r.asid && hBase p.2.master == r.altBase
      then (p.1, { p.2 with master := h }) else p)
    masters := d.masters.map (fun m => if m.asid == r.asid && m.base == r.altBase then { m with base := hBase r.hand } else m) }

/-- A record whose tiles are all converted is complete; it is kept while a core holds an entry for it (R347). -/
def settleRecord (s : State) (die record : Nat) : State :=
  match (s.die die).relays.entry record with
  | none => s
  | some r =>
    if r.state == 1#2 && r.tiles.all (· == .converted) then
      freeRecord ((s.setDie die (retarget (s.die die) r)).setRelay die record { r with state := 2 }) die record
    else s

/-- A conversion halts its record (R348): the tile stays not converted, the failure is kept, entered in the Strongroom and
reported to the thread that issued the RELAYOUT. -/
def haltRecord (s : State) (die record tile : Nat) (cause : BitVec 7) (fail : Word) : State :=
  match (s.die die).relays.entry record with
  | none => s
  | some r =>
    let s := s.setRelay die record { r.setPhase tile .waiting with state := 3, cause := cause, fail := fail }
    let s := s.record (die / 8) (die % 8) (eventWord cause.toNat 1 r.asid.toNat (die % 8) 0 0) 0 fail
    s.report r.slot r.grp ⟨0x53, 0, fail, 0, 0⟩

/-- The bytes of one element of a tile carried from its old address to its new one; a 4-bit element changes its nibble. -/
def carryElem (s : State) (ag : Agent) (r : Relay) (c : Coord) : Except Stop State := do
  let t := hShape r.hand
  let (oa, oh) := elemAddr r.oldLayout.toNat r.altBase t c
  let (na, nh) := elemAddr (hLayout r.hand) (hBase r.hand) t c
  let n := max 1 (t.sew / 8)
  let src ← enginePlace s ag false n oa
  let s := engineRead s ag oa src n
  let dst ← enginePlace s ag true n na
  let s := flushRange s dst n
  let v := loadElem s src t.sew oh
  let bs := if t.sew = 4 then [nibbleByte (memGet s.mem dst) nh v] else leBytes n v
  let s := engineTouch s ag na dst bs
  let s := ((dropCached s r.asid na dst n).putBytes dst bs).clearPoison dst n
  return if dst < 2 ^ 60 then noteWrite s r.asid na n true else s

/-- The elements of a storage tile under a layout, as coordinates. -/
def tileCoords (layout : Nat) (t : Shape) (tile : Nat) : List Coord :=
  let per := 32768 / t.sew
  (List.range per).filterMap (fun j => if tile * per + j < storageCount layout t then coordAt layout t (tile * per + j) else none)

/-- Elements carried in order, until one stops. -/
def carryAll (ag : Agent) (r : Relay) : List Coord → State → State × Option Stop
  | [], s => (s, none)
  | c :: cs, s =>
    match carryElem s ag r c with
    | .ok s' => carryAll ag r cs s'
    | .error e => (s, some e)

/-- The end of a tile's conversion (R343): converted, and the elements held for it go on; or held itself, or halted. -/
def finishConversion (s : State) (die record tile : Nat) : State :=
  match (s.die die).relays.entry record with
  | none => s
  | some r =>
    if r.phase tile != .converting || !r.steers || r.host.any (fun h => h.1 == tile) then s else
    let ag := engineAgent die r.asid r.priv [1, record, tile]
    match carryAll ag r (tileCoords (hLayout r.hand) (hShape r.hand) tile) s with
    | (s, none) =>
      match (s.die die).relays.entry record with
      | some r => settleRecord (s.setRelay die record (r.setPhase tile .converted)) die record
      | none => s
    | (s, some (.trap cause a)) => haltRecord (engineStop s ag (.trap cause a)) die record tile cause a
    | (s, some st) => engineStop s ag st

/-- TILE_CONVERTED (R343). -/
def execTileConverted (die record tile : Nat) (s : State) : Outcome State Fault Refusal := .next (finishConversion s die record tile)

/-- Whether a host request asks for the conversion of a tile (17_package_system.md R393, function 3). -/
def relayRequest (func : BitVec 3) (w1 : Word) (die record tile : Nat) : Bool :=
  func == 3 && (bits w1 0 3).toNat == die % 8 && (bits w1 8 8).toNat == record && (bits w1 32 32).toNat == tile

/-- CONVERSION_ABANDON (R343): the tile goes back behind every other pending tile, and the abandonment is counted; a host request for it
ends (17_package_system.md R393). -/
def execConversionAbandon (die record tile : Nat) (s : State) : Outcome State Fault Refusal :=
  match (s.die die).relays.entry record with
  | none => .next s
  | some r =>
    if r.phase tile != .converting then .next s else
    let s := s.setRelay die record { r.setPhase tile .waiting with
      order := r.order ++ [tile], aband := min 255 (r.aband + 1), host := r.host.filter (fun h => h.1 != tile) }
    .next (s.unpost (die / 8) (fun a => relayRequest a.func a.w1 die record tile) (fun p => relayRequest p.func p.w1 die record tile))

/-- A write of RLCTL.RESUME (R348): a halted record starts again from its first unconverted tile. -/
def resumeRelay (s : State) (die record : Nat) : State :=
  match (s.die die).relays.entry record with
  | none => s
  | some r =>
    if r.state != 3#2 then s else
    s.setRelay die record { r with
      state := 1, order := (r.tiles.zipIdx).filterMap (fun p => if p.1 == .waiting then some p.2 else none) }

/-- RLCTL_RESUME: a write from outside. -/
def execRlctlResume (die record : Nat) (s : State) : Outcome State Fault Refusal :=
  .next (outside s (die / 8) (resumeRelay s die record))

/-- The host's answer for a tile (17 R394): it has written the tile, or could not. -/
def answerRelay (s : State) (node : Nat) (tag : BitVec 16) (w1 : Word) (fail : Bool) : State :=
  let die := node * 8 + (bits w1 0 3).toNat
  let record := (bits w1 8 8).toNat
  let tile := (bits w1 32 32).toNat
  match (s.die die).relays.entry record with
  | none => s
  | some r =>
    if r.phase tile != .converting || !r.host.contains (tile, tag) then s else
    let r := { r with host := r.host.filter (fun h => h.1 != tile) }
    if fail then haltRecord (s.setRelay die record r) die record tile 0x53 0
    else settleRecord (s.setRelay die record (r.setPhase tile .converted)) die record

end Sys2Proof.Machine
end

