-- ==== Sys2Proof/Machine/VecCore.lean ====
section
/-! DEFINITION. What all vector instructions share: the checks of R53 at issue, the state captured at the push, the queue, the
granules and their progress (01_thread.md R19-R33, 02_encoding.md R49, R53, 05_vector_ops.md R117-R122). -/

namespace Sys2Proof.Machine

open Host (Outcome)

/-! ## Checks at issue (R53 steps 4 and 5) -/

/-- A check: the cause taken when it fails. -/
abbrev Check := Except (BitVec 7) Unit

/-- A condition that must hold, or the word takes a cause. -/
def need (ok : Bool) (cause : BitVec 7) : Check := if ok then .ok () else .error cause

/-- R19: a group's base register is a multiple of its size. -/
def aligned (r : BitVec 5) (n : Nat) : Bool := r.toNat % n == 0

/-- A group of registers with elements of w bits. -/
structure Grp where
  base : Nat
  n : Nat
  w : Nat
  deriving DecidableEq, Repr

/-- Whether two groups share a register. -/
def Grp.overlaps (a b : Grp) : Bool := a.base < b.base + b.n && b.base < a.base + a.n

/-- The second case of R20: every granule of the source that lies in the destination is last read no later than the granule
of the instruction that first writes there; cw is the element width of the counting operand. -/
def readFirst (gpr cw : Nat) (d s : Grp) : Bool :=
  (List.range (s.n * gpr)).all (fun j =>
    let p := s.base * gpr + j
    if p < d.base * gpr || (d.base + d.n) * gpr ≤ p then true
    else
      let q := p - d.base * gpr
      ceilDiv ((j + 1) * cw) s.w - 1 ≤ q * cw / d.w)

/-- R20: a destination group may overlap a source group only with the same base and width, or where the source is read
first. -/
def overlapOk (gpr cw : Nat) (d s : Grp) : Bool :=
  !d.overlaps s || (d.base == s.base && d.w == s.w) || readFirst gpr cw d s

/-! ## What a push captures (R117) -/

/-- A vector instruction as the scalar part pushes it. -/
def State.vop (s : State) (kind : VKind) (d a b : BitVec 5) (word : BitVec 32) : VOp :=
  { kind := kind, d := d, a := a, b := b, xa := s.x a, xb := s.x b, vl := s.th.vl, vtype := s.th.vtype, cols := s.th.cols,
    rm := s.th.rm, addr := s.th.pc, word := word.zeroExtend 64, id := s.th.nextOp }

/-- SEW in bits of a captured VTYPE. -/
abbrev VOp.sew (op : VOp) : Nat := vtBits op.vtype
/-- FMT. -/
abbrev VOp.fmt (op : VOp) : Nat := vtFmt op.vtype
/-- G. -/
abbrev VOp.g (op : VOp) : Nat := vtG op.vtype
/-- VL. -/
abbrev VOp.n_ (op : VOp) : Nat := op.vl.toNat

/-! ## Granules and progress -/

/-- How an instruction runs: how many steps it takes, the granules that hold an element below VL (one step each, unless the
instruction is indivisible), its destination groups, the width that its granules count over, whether a stop names a granule, and what
one step does; for an indivisible instruction, what a resumption at a granule keeps of the registers as they stood (R33). -/
structure VPlan where
  steps : Nat
  live : Nat
  cw : Nat
  dsts : List Grp
  gv : Bool := true
  keep : Option (Nat → Thread → Thread → Thread) := none
  gran : Nat → State → Except Stop State

/-- The granules that hold an element below VL (R23). -/
def liveGranules (w vl : Nat) : Nat := ceilDiv (vl * w) 4096

/-- The progress indices of a destination group when the instruction's granules below `landed` have landed (R23, R24). Where the granules
count over a wider source, R24's index names no register of the group; the model's choice (log 96) is to count the bytes of the group
that have been written. -/
def Thread.landDst (t : Thread) (p : VPlan) (landed : Nat) (d : Grp) : Thread :=
  let done := landed * d.w / p.cw
  let liveDst := ceilDiv (p.live * d.w) p.cw
  { t with prog := (List.range d.n).foldl (fun v j =>
      vwrite v (d.base + j)
        (if p.live ≤ landed || liveDst ≤ j * t.gpr then t.fullIndex else BitVec.ofNat 3 (min t.gpr (done - j * t.gpr)))) t.prog }

/-- The progress indices of all destination groups. -/
def Thread.land (t : Thread) (p : VPlan) (landed : Nat) : Thread := p.dsts.foldl (fun t d => t.landDst p landed d) t

/-- Dispatch of an instruction from the queue (R24, 06_memory_isa.md R154): values on their way to its destinations are
written first, and their progress indices start again. -/
def dispatchVec (s : State) (p : VPlan) : State :=
  let s := p.dsts.foldl (fun s d => writeReturnedTo s s.cur d.base d.n) s
  { s with th := s.th.land p 0 }

/-- Resumption at a granule (R24, R33, 06_memory_isa.md R154): like a dispatch it has values on their way to its destinations written
first; a register that it does not write is written by no instruction in flight, and its index is full. -/
def resumeVec (s : State) (p : VPlan) : State :=
  let s := p.dsts.foldl (fun s d => writeReturnedTo s s.cur d.base d.n) s
  { s with th := { s.th with prog := (List.range 32).foldl (fun v r =>
      if p.dsts.any (fun d => d.base ≤ r && r < d.base + d.n) then v else vwrite v r s.th.fullIndex) s.th.prog } }

/-- Whether values on their way to the destinations of an instruction are still to come (06_memory_isa.md R154). -/
def VPlan.awaits (p : VPlan) (t : Thread) : Bool := t.returning (fun q => p.dsts.any (fun d => q.returnsTo t d.base d.n))

/-- The granules from g on, n of them, each landing in turn (R25); a stop leaves the granules below its own landed (R32). -/
def runGranules (p : VPlan) (commit : State → State) : Nat → Nat → State → Outcome State Fault Refusal
  | 0, _, s => .next (commit s)
  | n + 1, g, s =>
    match withSoft (p.gran g) s with
    | .ok s' => runGranules p commit n (g + 1) { s' with th := s'.th.land p (if p.steps ≤ g + 1 then p.live else g + 1) }
    | .error st => stopAt s st (if p.gv then some g else none)

/-! ## The vector queue (R27, R28) -/

/-- The scalar part pushes an instruction and goes on behind it. -/
def pushVec (s : State) (op : VOp) : State :=
  let snap := s.th.snap
  let (next, t) := loopEnd s.th s.th.pc s.th.ldepth.toNat
  let q := t.vq ++ [{ op := op, snap := snap }]
  { s with th := { t with pc := next, gsuf := 0, gv := false, wait := none, nextOp := t.nextOp + 1, vq := q } }

/-- Whether the scalar part of the thread that runs goes ahead of the vector unit. -/
def State.runsAhead (s : State) : Bool := s.ahead.contains s.cur && !s.th.gv || !s.th.vq.isEmpty

/-- The granules of an instruction (R23): of its counting operand, its destination group or its widest source. -/
def VOp.granules (op : VOp) (t : Thread) (p : VPlan) : Nat :=
  match op.kind with
  | .mrow _ => op.g * t.gpr
  | .accWrite => op.g * t.gpr
  | .tsend => op.g * t.gpr
  | _ => ceilDiv (vlmax op.vtype t.gang * p.cw) 4096

/-- A resumption at a granule that the instruction at EPC does not have (11_traps.md R256). -/
def trapResume (s : State) : State :=
  trapAt { s with th := { s.th with gv := false, gsuf := 0 } } 0x0D (epcWord s.th.pc (some s.th.gsuf.toNat)) none

/-- Bits of a register file below a bound kept as they stood: element i of `old` below its bound, of `new` from there on. -/
def keepBits {n : Nat} (old new : BitVec n) (bound : Nat) : BitVec n :=
  let low := BitVec.ofNat n (2 ^ min bound n - 1)
  (old &&& low) ||| (new &&& ~~~low)

/-- The first n bits of a group kept as they stood, with the marks of their words. -/
def Thread.keepGroup (old new : Thread) (d : Grp) (n : Nat) : Thread :=
  let kept (p : Nat × Nat × Nat) : Bool := p.1 == 1 && d.base ≤ p.2.1 && p.2.1 < d.base + d.n
    && decide ((p.2.1 - d.base) * old.rb + 64 * p.2.2 + 64 ≤ n)
  { new with
    v := (List.range d.n).foldl (fun v j => vwrite v (d.base + j) (keepBits (vread old.v (d.base + j)) (vread v (d.base + j)) (n - j * old.rb))) new.v
    badRegs := old.badRegs.filter (fun p => new.badRegs.contains p || kept p) }

/-- What an indivisible instruction that resumes at granule g keeps of its destination groups: their granules below g (R33). -/
def keepGroups (cw : Nat) (dsts : List Grp) (g : Nat) (old new : Thread) : Thread :=
  dsts.foldl (fun t d => old.keepGroup t d (g * 4096 * d.w / cw)) new

/-- An indivisible instruction that resumes at a granule above 0 reads its sources afresh and writes only the granules from there on
(R33). -/
def resumeWhole (s : State) (p : VPlan) (keep : Nat → Thread → Thread → Thread) (g : Nat) (commit : State → State) :
    Outcome State Fault Refusal :=
  match withSoft (p.gran 0) s with
  | .ok s' => .next (commit { s' with th := (keep g s.th s'.th).land p p.live })
  | .error st => stopAt s st (some 0)

/-- A vector instruction runs from its first granule, EPC.GSUF when it resumes (R33), and commits; a granule that holds no element
below VL has nothing to do, and its destinations are full. -/
def startVec (s : State) (op : VOp) (p : VPlan) (commit : State → State) : Outcome State Fault Refusal :=
  if s.th.gv then
    let g := s.th.gsuf.toNat
    if op.granules s.th p ≤ g then .next (trapResume s)
    else if p.awaits (resumeVec s p).th then .next (s.enterWait .returned none)
    else let s := resumeVec s p
    match p.keep with
      | some keep => if g = 0 || p.steps = 0 then runGranules p commit p.steps 0 { s with th := s.th.land p 0 } else resumeWhole s p keep g commit
      | none => if p.steps ≤ g then .next (commit { s with th := s.th.land p p.live }) else runGranules p commit (p.steps - g) g s
  else if p.awaits (dispatchVec s p).th then .next (s.enterWait .returned none)
  else runGranules p commit p.steps 0 (dispatchVec s p)

/-- A vector instruction: pushed behind those that are queued, or run at once. -/
def runVec (s : State) (op : VOp) (p : VPlan) : Outcome State Fault Refusal :=
  if s.runsAhead then
    if s.th.queueRoom then .next (pushVec s op) else .next (s.enterWait .queue none)
  else startVec s op p State.advance

/-- A vector instruction with the checks of its issue: a check that fails takes its cause with the word as EVAL (R53, R54). -/
def issueVec (s : State) (op : VOp) (checks : Check) (p : VPlan) : Outcome State Fault Refusal :=
  match checks with
  | .error c => .next (trapAt s c op.word none)
  | .ok _ => runVec s op p

/-! ## Element-wise granules -/

/-- The lowest uncorrectable register word that the elements of a granule read: in the source groups, and in the mask-stack
top under k (09_core.md R220). Whether a word that holds only inactive elements is read the manual does not say; the model's choice is
that every element below VL is (DESIGN CHOICE; log 127). -/
def Thread.badRead (t : Thread) (k : Bool) (srcs : List Grp) (es : List Nat) : Option Word :=
  if t.badRegs.isEmpty then none else
  match es.head?, es.getLast? with
  | some lo, some hi =>
    match srcs.findSome? (fun g => t.badGroup g.base (lo * g.w / 8) (ceilDiv ((hi + 1) * g.w) 8)) with
    | some v => some v
    | none => if k then t.badTop lo (hi + 1) else none
  | _, _ => none

/-- After a granule has written a group: the words that its active elements cover whole are good again (R220). -/
def Thread.mendWritten (t : Thread) (d : Grp) (written : Nat → Bool) : Thread :=
  if t.badRegs.isEmpty then t else
  { t with badRegs := t.badRegs.filter (fun p =>
      !(p.1 == 1 && d.base ≤ p.2.1 && p.2.1 < d.base + d.n &&
        (let lo := ((p.2.1 - d.base) * (t.rb / 8) + p.2.2 * 8) * 8
         (List.range (ceilDiv 64 d.w)).all (fun j => written (lo / d.w + j))))) }

/-- The result of one element: its value and flags. -/
abbrev ElemFn := Thread → Round → Nat → Nat × Word

/-- The same for a mask register: array 2 (R220). -/
def Thread.mendMask (t : Thread) (r : Nat) (written : Nat → Bool) : Thread :=
  if t.badRegs.isEmpty then t else
  { t with badRegs := t.badRegs.filter (fun p =>
      !(p.1 == 2 && p.2.1 == r && (List.range 64).all (fun j => written (64 * p.2.2 + j)))) }

/-- A granule: every source is read as it stood before the granule, and active elements act in ascending order (R21). -/
def granuleWith (op : VOp) (cw : Nat) (srcs : List Grp) (act : Thread → Thread → Nat → Thread) (mend : Thread → (Nat → Bool) → Thread)
    (g : Nat) (s : State) : Except Stop State :=
  let t0 := s.th
  let es := granuleElems cw op.n_ g
  match t0.badRead op.k srcs es with
  | some v => .error (.trap 0x2B v)
  | none =>
    .ok { s with th := mend ((es.filter (t0.active op.k)).foldl (act t0) t0) (fun i => es.contains i && t0.active op.k i) }

/-- A granule of an element-wise instruction on registers: flags are raised (R40), and under `rsr` the generator steps once an
active element (R81). -/
def elemGranule (op : VOp) (cw : Nat) (d : Grp) (srcs : List Grp) (rsr : Bool) (f : ElemFn) : Nat → State → Except Stop State :=
  granuleWith op cw srcs
    (fun t0 t i =>
      let (m, r) := if rsr then roundOf op.rm t.srnd else (roundNoRsr op.rm, t.srnd)
      let (v, fl) := f t0 m i
      ({ t with srnd := r }.setElem d.base d.w i v).raise fl)
    (fun t w => t.mendWritten d w)

/-- The plan of an element-wise instruction that counts over its destination. -/
def elemPlan (op : VOp) (d : Grp) (srcs : List Grp) (rsr : Bool) (f : ElemFn) : VPlan :=
  { steps := liveGranules d.w op.n_, live := liveGranules d.w op.n_, cw := d.w, dsts := [d], gran := elemGranule op d.w d srcs rsr f }

/-- The plan of an instruction that reads all of its sources before it writes and lands as one (R133, R137, R144): `reads` is how many
elements of them it reads. Whether an uncorrectable word that holds only inactive source elements below VL is read the manual does not
say; the model's choice is that it is (DESIGN CHOICE; log 127). -/
def wholePlan (op : VOp) (cw : Nat) (dsts srcs : List Grp) (f : Thread → Thread) (reads : Nat := op.n_) : VPlan :=
  { steps := if op.vl = 0 then 0 else 1, live := liveGranules cw op.n_, cw := cw, dsts := dsts, keep := some (keepGroups cw dsts),
    gran := fun _ s =>
      match s.th.badRead op.k srcs (List.range reads) with
      | some v => .error (.trap 0x2B v)
      | none => .ok { s with th := f s.th } }

/-- The second-source element of an instruction: of the group vb, or the low bits of xb for every element (R119). -/
def VOp.second (op : VOp) (t : Thread) (w i : Nat) : Nat :=
  if op.x then op.xb.toNat % 2 ^ w else t.elem op.b.toNat w i

/-- The second-source group of a width relation (R49). -/
def VOp.group2 (op : VOp) : Grp := ⟨op.b.toNat, max 1 (op.g / 2 ^ op.w2.toNat), op.sew / 2 ^ op.w2.toNat⟩
/-- The destination group. -/
abbrev VOp.groupD (op : VOp) : Grp := ⟨op.d.toNat, op.g, op.sew⟩
/-- The first-source group. -/
abbrev VOp.groupA (op : VOp) : Grp := ⟨op.a.toNat, op.g, op.sew⟩

end Sys2Proof.Machine
end

