-- ==== Sys2Proof/Machine/VecInt.lean ====
section
/-! DEFINITION. Majors 0x10-0x13: integer arithmetic, logic, shifts and comparisons on vector groups (05_vector_ops.md
R123-R126). -/

namespace Sys2Proof.Machine

open Host (Outcome)

/-! ## Elements -/

/-- Whether elements are read as signed: by the format under FMT 0x0 and 0x1, else by s (R49). -/
def VOp.signed (op : VOp) : Bool := if op.fmt = 0 then true else if op.fmt = 1 then false else op.s

/-- Whether a function marked "sat" saturates: s under FMT 0x0 and 0x1 (R49, R123). -/
def VOp.saturates (op : VOp) : Bool := op.s && decide (op.fmt ≤ 1)

/-- An exact integer result in w bits, saturated or wrapped (R73). -/
def intResult (signed sat : Bool) (w : Nat) (i : Int) : Nat × Word := if sat then intClamp signed w i else (intWrap w i, 0)

/-- One element of majors 0x10 to 0x12: a and b of w bits with b extended, c the old destination (R123, R125). -/
def intElem (op : IntOp) (signed sat : Bool) (w a b c : Nat) : Nat × Word :=
  let x := intVal signed w a
  let y := intVal signed w b
  match op with
  | .add => intResult signed sat w (x + y)
  | .sub => intResult signed sat w (x - y)
  | .rsub => intResult signed sat w (y - x)
  | .min => (if y < x then b else a, 0)
  | .max => (if x < y then b else a, 0)
  | .abs => (intWrap w (if x < 0 then -x else x), 0)
  | .absd => (intWrap w ((x - y).natAbs : Int), 0)
  | .mov => (b, 0)
  | .mul => intResult signed sat w (x * y)
  | .mulh => (intWrap w (x * y / 2 ^ w), 0)
  | .macc => intResult signed sat w (intVal signed w c + x * y)
  | .div => (intDiv signed w a b, 0)
  | .and => (a &&& b, 0)
  | .or => (a ||| b, 0)
  | .xor => (a ^^^ b, 0)
  | .andn => (a &&& (2 ^ w - 1 - b), 0)
  | .sll => (a * 2 ^ (b % w) % 2 ^ w, 0)
  | .srl => (a / 2 ^ (b % w), 0)
  | .sra => (intWrap w (intVal true w a / 2 ^ (b % w)), 0)
  | .popc => (popcount a w, 0)

/-- Whether a function reads va. -/
def IntOp.readsA : IntOp → Bool
  | .mov => false
  | _ => true

/-- Whether a function has a second source. -/
def IntOp.readsB : IntOp → Bool
  | .abs => false
  | .popc => false
  | _ => true

/-- Whether a function reads vd. -/
def IntOp.readsD : IntOp → Bool
  | .macc => true
  | _ => false

/-- The register groups that an instruction of majors 0x10 to 0x12 reads. -/
def intSources (i : IntOp) (op : VOp) : List Grp :=
  (if i.readsA then [op.groupA] else []) ++ (if i.readsB && !op.x then [op.group2] else [])
    ++ (if i.readsD then [op.groupD] else [])

/-- Its plan. -/
def intPlan (i : IntOp) (op : VOp) : VPlan :=
  let w := op.sew
  let sw := op.group2.w
  elemPlan op op.groupD (intSources i op) false (fun t _ j =>
    intElem i op.signed op.saturates w (t.elem op.a.toNat w j)
      (intWrap w (intVal op.signed sw (op.second t sw j))) (t.elem op.d.toNat w j))

/-- The checks of R53 on the groups of an instruction with a second source: W2, alignment, overlap (R19, R20, R49). -/
def groupChecks (gpr : Nat) (op : VOp) (w2ok : Bool) (srcs : List Grp) : Check := do
  need w2ok 0x03
  need (aligned op.d op.g && srcs.all (fun g => g.base % g.n == 0)) 0x05
  need (srcs.all (overlapOk gpr op.sew op.groupD)) 0x05

/-- R49, R118: the widths of an integer second source. -/
def intW2Ok (op : VOp) : Bool := op.w2 == 0 || (4 ≤ op.group2.w && op.sew % 2 ^ op.w2.toNat == 0 && !(op.fmt == 1 && op.group2.w == 4))

/-- An instruction of majors 0x10 to 0x12. -/
def vecInt (s : State) (i : IntOp) (d a b : BitVec 5) (x : Bool) (w : BitVec 2) (k sb : Bool) (word : BitVec 32) :
    Outcome State Fault Refusal :=
  let op := { s.vop (.int i) d a b word with x := x, w2 := w, k := k, s := sb }
  issueVec s op (groupChecks s.th.gpr op (intW2Ok op) (intSources i op)) (intPlan i op)

/-! ## Majors 0x10 and 0x11 (R123) -/

/-- VADD (R123). -/
def execVadd (d a b : BitVec 5) (x : Bool) (w : BitVec 2) (k sb : Bool) (s : State) : Outcome State Fault Refusal :=
  vecInt s .add d a b x w k sb (wordOf (.vadd d a b x w k sb))
/-- VSUB (R123). -/
def execVsub (d a b : BitVec 5) (x : Bool) (w : BitVec 2) (k sb : Bool) (s : State) : Outcome State Fault Refusal :=
  vecInt s .sub d a b x w k sb (wordOf (.vsub d a b x w k sb))
/-- VRSUB (R123). -/
def execVrsub (d a b : BitVec 5) (x : Bool) (w : BitVec 2) (k sb : Bool) (s : State) : Outcome State Fault Refusal :=
  vecInt s .rsub d a b x w k sb (wordOf (.vrsub d a b x w k sb))
/-- VMIN (R123). -/
def execVmin (d a b : BitVec 5) (x : Bool) (w : BitVec 2) (k sb : Bool) (s : State) : Outcome State Fault Refusal :=
  vecInt s .min d a b x w k sb (wordOf (.vmin d a b x w k sb))
/-- VMAX (R123). -/
def execVmax (d a b : BitVec 5) (x : Bool) (w : BitVec 2) (k sb : Bool) (s : State) : Outcome State Fault Refusal :=
  vecInt s .max d a b x w k sb (wordOf (.vmax d a b x w k sb))
/-- VABSD (R123). -/
def execVabsd (d a b : BitVec 5) (x : Bool) (w : BitVec 2) (k sb : Bool) (s : State) : Outcome State Fault Refusal :=
  vecInt s .absd d a b x w k sb (wordOf (.vabsd d a b x w k sb))
/-- VMUL (R123). -/
def execVmul (d a b : BitVec 5) (x : Bool) (w : BitVec 2) (k sb : Bool) (s : State) : Outcome State Fault Refusal :=
  vecInt s .mul d a b x w k sb (wordOf (.vmul d a b x w k sb))
/-- VMULH (R123). -/
def execVmulh (d a b : BitVec 5) (x : Bool) (w : BitVec 2) (k sb : Bool) (s : State) : Outcome State Fault Refusal :=
  vecInt s .mulh d a b x w k sb (wordOf (.vmulh d a b x w k sb))
/-- VMACC (R123). -/
def execVmacc (d a b : BitVec 5) (x : Bool) (w : BitVec 2) (k sb : Bool) (s : State) : Outcome State Fault Refusal :=
  vecInt s .macc d a b x w k sb (wordOf (.vmacc d a b x w k sb))
/-- VDIV (R123). -/
def execVdiv (d a b : BitVec 5) (x : Bool) (w : BitVec 2) (k sb : Bool) (s : State) : Outcome State Fault Refusal :=
  vecInt s .div d a b x w k sb (wordOf (.vdiv d a b x w k sb))
/-- VABS (R123). -/
def execVabs (d a : BitVec 5) (w : BitVec 2) (k sb : Bool) (s : State) : Outcome State Fault Refusal :=
  vecInt s .abs d a 0 false w k sb (wordOf (.vabs d a w k sb))
/-- VMOV (R123). -/
def execVmov (d b : BitVec 5) (x : Bool) (w : BitVec 2) (k sb : Bool) (s : State) : Outcome State Fault Refusal :=
  vecInt s .mov d 0 b x w k sb (wordOf (.vmov d b x w k sb))

/-! ## Major 0x12 (R125) -/

/-- VAND (R125). -/
def execVand (d a b : BitVec 5) (x k sb : Bool) (s : State) : Outcome State Fault Refusal :=
  vecInt s .and d a b x 0 k sb (wordOf (.vand d a b x k sb))
/-- VOR (R125). -/
def execVor (d a b : BitVec 5) (x k sb : Bool) (s : State) : Outcome State Fault Refusal :=
  vecInt s .or d a b x 0 k sb (wordOf (.vor d a b x k sb))
/-- VXOR (R125). -/
def execVxor (d a b : BitVec 5) (x k sb : Bool) (s : State) : Outcome State Fault Refusal :=
  vecInt s .xor d a b x 0 k sb (wordOf (.vxor d a b x k sb))
/-- VANDN (R125). -/
def execVandn (d a b : BitVec 5) (x k sb : Bool) (s : State) : Outcome State Fault Refusal :=
  vecInt s .andn d a b x 0 k sb (wordOf (.vandn d a b x k sb))
/-- VSLL (R125). -/
def execVsll (d a b : BitVec 5) (x k sb : Bool) (s : State) : Outcome State Fault Refusal :=
  vecInt s .sll d a b x 0 k sb (wordOf (.vsll d a b x k sb))
/-- VSRL (R125). -/
def execVsrl (d a b : BitVec 5) (x k sb : Bool) (s : State) : Outcome State Fault Refusal :=
  vecInt s .srl d a b x 0 k sb (wordOf (.vsrl d a b x k sb))
/-- VSRA (R125). -/
def execVsra (d a b : BitVec 5) (x k sb : Bool) (s : State) : Outcome State Fault Refusal :=
  vecInt s .sra d a b x 0 k sb (wordOf (.vsra d a b x k sb))
/-- VPOPC (R125). -/
def execVpopc (d a : BitVec 5) (k sb : Bool) (s : State) : Outcome State Fault Refusal :=
  vecInt s .popc d a 0 false 0 k sb (wordOf (.vpopc d a k sb))

/-! ## VDOT4 (R124) -/

/-- The quarter j of element i of a source. -/
def dotQuarter (op : VOp) (t : Thread) (base : BitVec 5) (scalar : Bool) (i j : Nat) : Int :=
  let q := op.sew / 4
  intVal op.signed q (if scalar then op.xb.toNat / 2 ^ (q * j) % 2 ^ q else t.elem base.toNat q (4 * i + j))

/-- The groups VDOT4 reads, at the width of vd: element i reads exactly the bytes of element i (R124). -/
def dotSources (op : VOp) : List Grp :=
  [op.groupA, op.groupD] ++ (if op.x then [] else [⟨op.b.toNat, op.g, op.sew⟩])

/-- The plan of VDOT4. -/
def dotPlan (op : VOp) : VPlan :=
  elemPlan op op.groupD (dotSources op) false (fun t _ i =>
    let sum := (List.range 4).foldl (fun (n : Int) j => n + dotQuarter op t op.a false i j * dotQuarter op t op.b op.x i j)
      (t.elem op.d.toNat op.sew i : Int)
    (intWrap op.sew sum, 0))

/-- VDOT4 (R124): W2 must be 0, SEW 16, 32 or 64, and 4-bit quarters signed. -/
def execVdot4 (d a b : BitVec 5) (x : Bool) (w : BitVec 2) (k sb : Bool) (s : State) : Outcome State Fault Refusal :=
  let op := { s.vop .dot4 d a b (wordOf (.vdot4 d a b x w k sb)) with x := x, w2 := w, k := k, s := sb }
  issueVec s op (groupChecks s.th.gpr op (w == 0 && 16 ≤ op.sew && (16 < op.sew || op.signed)) (dotSources op)) (dotPlan op)

/-! ## Comparisons (R126) -/

/-- A relation between two integers. -/
def CmpOp.holds (c : CmpOp) (lt eq : Bool) : Bool :=
  match c with
  | .eq => eq
  | .ne => !eq
  | .lt => lt
  | .le => lt || eq
  | .gt => !lt && !eq
  | .ge => !lt

/-- A comparison of two elements: the bit and the flags. -/
def cmpElem (c : CmpOp) (fmt sew : Nat) (signed : Bool) (a b : Nat) : Bool × Word :=
  if fmt == 2 || fmt == 3 then
    match floatFmt fmt sew with
    | none => (false, 0)
    | some f =>
      let x := f.decode a
      let y := f.decode b
      if x.isNan || y.isNan then
        (c == .ne, if (c == .eq || c == .ne) && !x.snan && !y.snan then 0 else flagNV)
      else (c.holds (x.less y) (!x.less y && !y.less x), 0)
  else
    let x := intVal signed (sewBits sew) a
    let y := intVal signed (sewBits sew) b
    (c.holds (x < y) (x == y), 0)

/-- The groups a comparison reads. -/
def cmpSources (op : VOp) : List Grp := op.groupA :: (if op.x then [] else [op.group2])

/-- The plan of a comparison: its granules count over va, its destination is a mask (R23). -/
def cmpPlan (c : CmpOp) (op : VOp) : VPlan :=
  { steps := liveGranules op.sew op.n_, live := liveGranules op.sew op.n_, cw := op.sew, dsts := []
    gran := granuleWith op op.sew (cmpSources op)
      (fun t0 t i =>
        let (v, fl) := cmpElem c op.fmt (vtSew op.vtype) op.signed (t0.elem op.a.toNat op.sew i) (op.second t0 op.sew i)
        (t.setMaskBit op.d.toNat i v).raise fl)
      (fun t w => t.mendMask op.d.toNat w) }

/-- A comparison. -/
def vecCmp (s : State) (c : CmpOp) (d : BitVec 4) (a b : BitVec 5) (x k sb : Bool) (word : BitVec 32) :
    Outcome State Fault Refusal :=
  let op := { s.vop (.cmp c) (d.zeroExtend 5) a b word with x := x, k := k, s := sb }
  issueVec s op (need ((cmpSources op).all (fun g => g.base % g.n == 0)) 0x05) (cmpPlan c op)

/-- VCEQ (R126). -/
def execVceq (d : BitVec 4) (a b : BitVec 5) (x k sb : Bool) (s : State) : Outcome State Fault Refusal :=
  vecCmp s .eq d a b x k sb (wordOf (.vceq d a b x k sb))

/-- VCNE (R126). -/
def execVcne (d : BitVec 4) (a b : BitVec 5) (x k sb : Bool) (s : State) : Outcome State Fault Refusal :=
  vecCmp s .ne d a b x k sb (wordOf (.vcne d a b x k sb))

/-- VCLT (R126). -/
def execVclt (d : BitVec 4) (a b : BitVec 5) (x k sb : Bool) (s : State) : Outcome State Fault Refusal :=
  vecCmp s .lt d a b x k sb (wordOf (.vclt d a b x k sb))

/-- VCLE (R126). -/
def execVcle (d : BitVec 4) (a b : BitVec 5) (x k sb : Bool) (s : State) : Outcome State Fault Refusal :=
  vecCmp s .le d a b x k sb (wordOf (.vcle d a b x k sb))

/-- VCGT (R126). -/
def execVcgt (d : BitVec 4) (a b : BitVec 5) (x k sb : Bool) (s : State) : Outcome State Fault Refusal :=
  vecCmp s .gt d a b x k sb (wordOf (.vcgt d a b x k sb))

/-- VCGE (R126). -/
def execVcge (d : BitVec 4) (a b : BitVec 5) (x k sb : Bool) (s : State) : Outcome State Fault Refusal :=
  vecCmp s .ge d a b x k sb (wordOf (.vcge d a b x k sb))

end Sys2Proof.Machine
end

