-- ==== Sys2Proof/Machine/VecFloat.lean ====
section
/-! DEFINITION. Majors 0x14-0x16: floating-point arithmetic and conversion (05_vector_ops.md R118, R127, R128; 03_numbers.md
R74-R88). -/

namespace Sys2Proof.Machine

open Host (Outcome)

/-! ## Second sources (R118) -/

/-- The format of the second source under a width relation; none where the table says "trap". -/
def secondFmt (fmt sew w2 : Nat) : Option FFmt :=
  if w2 = 0 then floatFmt fmt sew else
  match fmt, sew, w2 with
  | 2, 4, 1 => some fp32
  | 2, 4, 2 => some fp16
  | 2, 4, 3 => some e4m3
  | 2, 3, 1 => some fp16
  | 2, 3, 2 => some e4m3
  | 2, 2, 1 => some e4m3
  | 3, 2, 1 => some e4m3
  | _, _, _ => none

/-- A second-source element extended exactly to the first-source format. -/
def extendSecond (src dst : FFmt) (w2 x : Nat) : Nat × Word :=
  if w2 = 0 then (x, 0) else floatToFloat .rne (src.decode x) dst true

/-! ## Arithmetic (R127) -/

/-- One element of majors 0x14 and 0x15: a, b and the old destination c. -/
def fltElem (f : FFmt) (op : FltOp) (m : Round) (a b c : Nat) : Nat × Word :=
  match op with
  | .add => f.add m a b
  | .sub => f.sub m a b
  | .mul => f.mul m a b
  | .div => f.div m a b
  | .sqrt => f.sqrt m a
  | .min => f.minMax false a b
  | .max => f.minMax true a b
  | .abs => (f.absBits a, 0)
  | .neg => (f.negBits a, 0)
  | .macc => f.fma m a b c false
  | .nmacc => f.fma m a b c true
  | .madd => f.fma m c a b false

/-- Whether a function has a second source. -/
def FltOp.readsB : FltOp → Bool
  | .sqrt => false
  | .abs => false
  | .neg => false
  | _ => true

/-- Whether a function reads vd. -/
def FltOp.readsD : FltOp → Bool
  | .macc => true
  | .nmacc => true
  | .madd => true
  | _ => false

/-- The groups an instruction of majors 0x14 and 0x15 reads. -/
def fltSources (o : FltOp) (op : VOp) : List Grp :=
  [op.groupA] ++ (if o.readsB && !op.x then [op.group2] else []) ++ (if o.readsD then [op.groupD] else [])

/-- Its plan. -/
def fltPlan (o : FltOp) (op : VOp) : VPlan :=
  let f := (floatFmt op.fmt (vtSew op.vtype)).getD fp32
  let f2 := (secondFmt op.fmt (vtSew op.vtype) op.w2.toNat).getD fp32
  elemPlan op op.groupD (fltSources o op) true (fun t m i =>
    let (b, fl) := if o.readsB then extendSecond f2 f op.w2.toNat (op.second t op.group2.w i) else (0, 0)
    let (v, fl') := fltElem f o m (t.elem op.a.toNat op.sew i) b (t.elem op.d.toNat op.sew i)
    (v, fl ||| fl'))

/-- An instruction of majors 0x14 and 0x15: FMT 0x2 or 0x3 and an allowed second-source format, else cause 0x03. -/
def vecFlt (s : State) (o : FltOp) (d a b : BitVec 5) (x : Bool) (w : BitVec 2) (k : Bool) (word : BitVec 32) :
    Outcome State Fault Refusal :=
  let op := { s.vop (.flt o) d a b word with x := x, w2 := w, k := k }
  let ok := (op.fmt == 2 || op.fmt == 3) && (secondFmt op.fmt (vtSew op.vtype) w.toNat).isSome
  issueVec s op (groupChecks s.th.gpr op ok (fltSources o op)) (fltPlan o op)

/-- VFADD (R127). -/
def execVfadd (d a b : BitVec 5) (x : Bool) (w : BitVec 2) (k : Bool) (s : State) : Outcome State Fault Refusal :=
  vecFlt s .add d a b x w k (wordOf (.vfadd d a b x w k))
/-- VFSUB (R127). -/
def execVfsub (d a b : BitVec 5) (x : Bool) (w : BitVec 2) (k : Bool) (s : State) : Outcome State Fault Refusal :=
  vecFlt s .sub d a b x w k (wordOf (.vfsub d a b x w k))
/-- VFMUL (R127). -/
def execVfmul (d a b : BitVec 5) (x : Bool) (w : BitVec 2) (k : Bool) (s : State) : Outcome State Fault Refusal :=
  vecFlt s .mul d a b x w k (wordOf (.vfmul d a b x w k))
/-- VFDIV (R127). -/
def execVfdiv (d a b : BitVec 5) (x : Bool) (w : BitVec 2) (k : Bool) (s : State) : Outcome State Fault Refusal :=
  vecFlt s .div d a b x w k (wordOf (.vfdiv d a b x w k))
/-- VFMIN (R127). -/
def execVfmin (d a b : BitVec 5) (x : Bool) (w : BitVec 2) (k : Bool) (s : State) : Outcome State Fault Refusal :=
  vecFlt s .min d a b x w k (wordOf (.vfmin d a b x w k))
/-- VFMAX (R127). -/
def execVfmax (d a b : BitVec 5) (x : Bool) (w : BitVec 2) (k : Bool) (s : State) : Outcome State Fault Refusal :=
  vecFlt s .max d a b x w k (wordOf (.vfmax d a b x w k))
/-- VFMACC (R127). -/
def execVfmacc (d a b : BitVec 5) (x : Bool) (w : BitVec 2) (k : Bool) (s : State) : Outcome State Fault Refusal :=
  vecFlt s .macc d a b x w k (wordOf (.vfmacc d a b x w k))
/-- VFNMACC (R127). -/
def execVfnmacc (d a b : BitVec 5) (x : Bool) (w : BitVec 2) (k : Bool) (s : State) : Outcome State Fault Refusal :=
  vecFlt s .nmacc d a b x w k (wordOf (.vfnmacc d a b x w k))
/-- VFMADD (R127). -/
def execVfmadd (d a b : BitVec 5) (x : Bool) (w : BitVec 2) (k : Bool) (s : State) : Outcome State Fault Refusal :=
  vecFlt s .madd d a b x w k (wordOf (.vfmadd d a b x w k))
/-- VFSQRT (R127). -/
def execVfsqrt (d a : BitVec 5) (w : BitVec 2) (k : Bool) (s : State) : Outcome State Fault Refusal :=
  vecFlt s .sqrt d a 0 false w k (wordOf (.vfsqrt d a w k))
/-- VFABS (R127). -/
def execVfabs (d a : BitVec 5) (w : BitVec 2) (k : Bool) (s : State) : Outcome State Fault Refusal :=
  vecFlt s .abs d a 0 false w k (wordOf (.vfabs d a w k))
/-- VFNEG (R127). -/
def execVfneg (d a : BitVec 5) (w : BitVec 2) (k : Bool) (s : State) : Outcome State Fault Refusal :=
  vecFlt s .neg d a 0 false w k (wordOf (.vfneg d a w k))

/-! ## Conversion (R128, R87, R88) -/

/-- One element converted from a source pair to a destination pair (FMT and SEW codes); ovf is the s bit. -/
def convert (m : Round) (sf ss df ds : Nat) (ovf : Bool) (x : Nat) : Nat × Word :=
  let dw := sewBits ds
  if sf ≤ 1 then
    let i := intVal (sf == 0) (sewBits ss) x
    if df ≤ 1 then (if ss < ds then (intWrap dw i, 0) else intToInt i (df == 0) dw ovf)
    else if df = 6 then toNq4 (.fin (decide (i < 0)) i.natAbs 1) .one
    else intToFloat m i ((floatFmt df ds).getD fp32) ovf
  else if df = 6 then toNq4 (sourceVal sf ss x) .one
  else if sf = 6 && df ≤ 1 then intToInt (nq4Level x) (df == 0) dw ovf
  else if df ≤ 1 then floatToInt m (sourceVal sf ss x) (df == 0) dw
  else floatToFloat m (sourceVal sf ss x) ((floatFmt df ds).getD fp32) ovf

/-- The source group of VCVT: Gs = max(1, G * srcSEW / SEW) registers (R128). -/
def cvtSource (op : VOp) (e : BitVec 3) : Grp := ⟨op.a.toNat, max 1 (op.g * sewBits e.toNat / op.sew), sewBits e.toNat⟩

/-- The plan of VCVT. -/
def cvtPlan (op : VOp) (e : BitVec 3) (f : BitVec 4) : VPlan :=
  elemPlan op op.groupD [cvtSource op e] true (fun t m i =>
    convert m f.toNat e.toNat op.fmt (vtSew op.vtype) op.s (t.elem op.a.toNat (sewBits e.toNat) i))

/-- VCVT (R128). -/
def execVcvt (d a : BitVec 5) (e : BitVec 3) (f : BitVec 4) (k sb : Bool) (s : State) : Outcome State Fault Refusal :=
  let op := { s.vop (.cvt e f) d a 0 (wordOf (.vcvt d a e f k sb)) with k := k, s := sb }
  let src := cvtSource op e
  issueVec s op (groupChecks s.th.gpr op (pairLegal f.toNat e.toNat && src.n ≤ 8) [src]) (cvtPlan op e f)

end Sys2Proof.Machine
end

