-- ==== Sys2Proof/Machine/VecMask.lean ====
section
/-! DEFINITION. Majors 0x17 and 0x18: the mask stack, mask logic, permutes, slides and moves (05_vector_ops.md R129-R132). -/

namespace Sys2Proof.Machine

open Host (Outcome)

/-! ## The mask stack and mask logic (R130, R131) -/

/-- BITS of R130. -/
abbrev Thread.maskBits (t : Thread) : Nat := if t.gang then 16384 else 8192

/-- a where sel has a 1, b elsewhere. -/
def blend (sel a b : BitVec 16384) : BitVec 16384 := (a &&& sel) ||| (b &&& ~~~sel)

/-- The mask of the bits below n. -/
abbrev below (n : Nat) : BitVec 16384 := BitVec.ofNat 16384 (2 ^ n - 1)

/-- MPUSH: bits below VL are ma AND T, the others of BITS T, the rest 0 (R130). -/
def Thread.maskPush (t : Thread) (a : Nat) (vl : Nat) : Thread :=
  let top := t.maskTop
  let e := blend (below vl) (vread t.m a &&& top) top &&& below t.maskBits
  { t with ms := vwrite t.ms t.msdepth.toNat e, msdepth := t.msdepth + 1 }

/-- MINV: bits below VL are U AND NOT T (R130). -/
def Thread.maskInv (t : Thread) (vl : Nat) : Thread :=
  let top := t.maskTop
  let under := if t.msdepth ≤ 1 then BitVec.allOnes 16384 else vread t.ms (t.msdepth.toNat - 2)
  { t with ms := vwrite t.ms (t.msdepth.toNat - 1) (blend (below vl) (under &&& ~~~top) top) }

/-- A mask register written below VL where active (R131). -/
def Thread.maskWrite (t : Thread) (d vl : Nat) (k : Bool) (v : BitVec 16384) : Thread :=
  let sel := below vl &&& (if k then t.maskTop else BitVec.allOnes 16384)
  ({ t with m := vwrite t.m d (blend sel v (vread t.m d)) }).mendMask d (fun i => sel.getLsbD i)

/-- What an instruction of the mask stack or mask logic does. -/
def maskAct (o : MaskOp) (op : VOp) (t : Thread) : Thread :=
  let a := op.a.toNat
  let b := op.b.toNat
  match o with
  | .push => { t.maskPush a op.n_ with badRegs := t.badRegs.filter (fun p => !(p.1 == 2 && p.2.1 == 16 + t.msdepth.toNat)) }
  | .inv => t.maskInv op.n_
  | .pop => { t with msdepth := t.msdepth - 1 }
  | .and => t.maskWrite op.d.toNat op.n_ op.k (vread t.m a &&& vread t.m b)
  | .or => t.maskWrite op.d.toNat op.n_ op.k (vread t.m a ||| vread t.m b)
  | .xor => t.maskWrite op.d.toNat op.n_ op.k (vread t.m a ^^^ vread t.m b)
  | .mov => t.maskWrite op.d.toNat op.n_ op.k (vread t.m a)

/-- The m registers that an instruction reads. -/
def MaskOp.reads (o : MaskOp) (op : VOp) : List Nat :=
  match o with
  | .push => [op.a.toNat]
  | .inv => []
  | .pop => []
  | .mov => [op.a.toNat]
  | _ => [op.a.toNat, op.b.toNat]

/-- Whether an instruction reads the mask-stack top, and the entry below it. -/
def MaskOp.readsTop (o : MaskOp) (op : VOp) : Bool × Bool :=
  match o with
  | .push => (true, false)
  | .inv => (true, true)
  | .pop => (false, false)
  | _ => (op.k, false)

/-- The lowest uncorrectable mask word that an instruction reads: of an m register the words with bits below VL, of the mask-stack top the
same, and for MPUSH, whose new entry takes all of it, every word (R130; 09_core.md R220). That a word of which only bits at or above VL
stay undisturbed is not read is the model's choice (DESIGN CHOICE; log 127). -/
def maskBad (o : MaskOp) (op : VOp) (t : Thread) : Option Word :=
  let n := op.n_
  if t.badRegs.isEmpty then none else
  match (o.reads op).findSome? (fun r => t.badIn 2 r 0 (ceilDiv n 8)) with
  | some v => some v
  | none =>
    let (top, under) := o.readsTop op
    match (if top then t.badTop 0 (if o == .push then t.maskBits else n) else none) with
    | some v => some v
    | none => if under && 2 ≤ t.msdepth.toNat then t.badIn 2 (16 + t.msdepth.toNat - 2) 0 (ceilDiv n 8) else none

/-- The plan of a mask instruction: one step. -/
def maskPlan (o : MaskOp) (op : VOp) : VPlan :=
  { steps := 1, live := 1, cw := 1, dsts := []
    gran := fun _ s => match maskBad o op s.th with
      | some v => .error (.trap 0x2B v)
      | none => .ok { s with th := maskAct o op s.th } }

/-- MSDEPTH in program order: the depth behind the queued stack operations, of which those that have landed are in MSDEPTH already
(R130). -/
def Thread.progDepth (t : Thread) : Nat :=
  (t.vq.filter (fun q => q.granule = 0)).foldl (fun n q => match q.op.kind with
    | .mask .push => n + 1
    | .mask .pop => n - 1
    | _ => n) t.msdepth.toNat

/-- A stack operation with its check of the depth: cause 0x06 with the depth as EVAL (R130, R148). -/
def stackOp (s : State) (o : MaskOp) (a : BitVec 4) (ok : Nat → Bool) (word : BitVec 32) : Outcome State Fault Refusal :=
  let op := s.vop (.mask o) 0 (a.zeroExtend 5) 0 word
  if ok s.th.progDepth then runVec s op (maskPlan o op) else .next (trapAt s 0x06 (BitVec.ofNat 64 s.th.progDepth) none)

/-- MPUSH (R130). -/
def execMpush (a : BitVec 4) (s : State) : Outcome State Fault Refusal := stackOp s .push a (· < 8) (wordOf (.mpush a))
/-- MINV (R130). -/
def execMinv (s : State) : Outcome State Fault Refusal := stackOp s .inv 0 (0 < ·) (wordOf .minv)
/-- MPOP (R130). -/
def execMpop (s : State) : Outcome State Fault Refusal := stackOp s .pop 0 (0 < ·) (wordOf .mpop)

/-- Mask logic (R131). -/
def maskLogic (s : State) (o : MaskOp) (d a b : BitVec 4) (k : Bool) (word : BitVec 32) : Outcome State Fault Refusal :=
  let op := { s.vop (.mask o) (d.zeroExtend 5) (a.zeroExtend 5) (b.zeroExtend 5) word with k := k }
  runVec s op (maskPlan o op)

/-- MAND (R131). -/
def execMand (d a b : BitVec 4) (k : Bool) (s : State) : Outcome State Fault Refusal :=
  maskLogic s .and d a b k (wordOf (.mand d a b k))
/-- MOR (R131). -/
def execMor (d a b : BitVec 4) (k : Bool) (s : State) : Outcome State Fault Refusal :=
  maskLogic s .or d a b k (wordOf (.mor d a b k))
/-- MXOR (R131). -/
def execMxor (d a b : BitVec 4) (k : Bool) (s : State) : Outcome State Fault Refusal :=
  maskLogic s .xor d a b k (wordOf (.mxor d a b k))
/-- MMOV (R131). -/
def execMmov (d a : BitVec 4) (k : Bool) (s : State) : Outcome State Fault Refusal :=
  maskLogic s .mov d a 0 k (wordOf (.mmov d a k))

/-! ## Rows (R22, R120) -/

/-- The rows of a vector: first element and length. -/
def rowsOf (cols vl : Nat) : List (Nat × Nat) :=
  if vl = 0 then [] else if cols = 0 || vl ≤ cols then [(0, vl)]
  else (List.range (ceilDiv vl cols)).map (fun r => (r * cols, min cols (vl - r * cols)))

/-- The first element and the length of the row of an element. -/
def rowAt (cols vl i : Nat) : Nat × Nat :=
  if cols = 0 || vl ≤ cols then (0, vl) else (i / cols * cols, min cols (vl - i / cols * cols))

/-! ## Permutes (R132) -/

/-- Where a destination element comes from. -/
inductive PermSrc where
  | keep
  | const (v : Nat)
  | elem (i : Nat)
  deriving DecidableEq, Repr

/-- The source of destination element i (R132). VSLIDEDN by 1 in rows of length 1 gives 0, also where 08_thread_programs.md R199 states
0xFFFF for a program that ends in it (NCODE = 1 without a candidate): the model follows R132 (DESIGN CHOICE; log 112). -/
def permSrc (o : PermOp) (op : VOp) (t : Thread) (i : Nat) : PermSrc :=
  let (r0, len) := rowAt op.cols.toNat op.n_ i
  let j := i - r0
  let x := op.xb.toNat
  match o with
  | .slideUp => if x ≤ j then .elem (i - x) else .keep
  | .slideDn => if j + x < len then .elem (i + x) else .const 0
  | .slide1Up => if j = 0 then .const (x % 2 ^ op.sew) else .elem (i - 1)
  | .slide1Dn => if j + 1 < len then .elem (i + 1) else .const (x % 2 ^ op.sew)
  | .perm =>
    let p := t.elem op.b.toNat op.sew i
    if p < len then .elem (r0 + p) else .const 0
  | .compress =>
    let sel := ((List.range len).map (· + r0)).filter (fun q => (vread t.m op.b.toNat).getLsbD q && t.active op.k q)
    match sel[j]? with
    | some q => .elem q
    | none => .keep
  | .bcast => if x < len then .elem (r0 + x) else .const 0
  | .insert => if i = 0 then .const (op.xa.toNat % 2 ^ op.sew) else .keep

/-- Whether the activity of a destination element counts (R121). -/
def PermOp.masked : PermOp → Bool
  | .compress => false
  | _ => true

/-- An uncorrectable word that a granule of a permute reads: under k the manual does not say which words of the mask-stack top a granule
reads; the model's choice is every one with a bit below VL (DESIGN CHOICE; log 127). -/
def permBad (o : PermOp) (op : VOp) (t : Thread) (es : List Nat) : Option Word :=
  if t.badRegs.isEmpty then none else
  let one (b i : Nat) : Option Word := t.badGroup b (i * op.sew / 8) (ceilDiv ((i + 1) * op.sew) 8)
  match es.findSome? (fun i =>
    match (match o with
      | .perm => one op.b.toNat i
      | _ => none) with
    | some v => some v
    | none => match permSrc o op t i with
      | .elem q => one op.a.toNat q
      | _ => none) with
  | some v => some v
  | none =>
    match (match o with
      | .compress => t.badIn 2 op.b.toNat 0 (ceilDiv op.n_ 8)
      | _ => none) with
    | some v => some v
    | none => if op.k then t.badTop 0 op.n_ else none

/-- The plan of a permute: every granule reads its sources as they stood before it. -/
def permPlan (o : PermOp) (op : VOp) : VPlan :=
  { steps := liveGranules op.sew op.n_, live := liveGranules op.sew op.n_, cw := op.sew, dsts := [op.groupD]
    gran := fun g s =>
      let t0 := s.th
      let es := (granuleElems op.sew op.n_ g).filter (fun i => !o.masked || t0.active op.k i)
      match permBad o op t0 es with
      | some v => .error (.trap 0x2B v)
      | none =>
        let writes := es.filterMap (fun i => match permSrc o op t0 i with
          | .keep => none
          | .const v => some (i, v)
          | .elem q => some (i, t0.elem op.a.toNat op.sew q))
        .ok { s with th := (t0.setElems op.d.toNat op.sew writes).mendWritten op.groupD (fun i => writes.any (fun w => w.1 == i)) } }

/-- The groups that a permute reads. -/
def permSources (o : PermOp) (op : VOp) : List Grp :=
  match o with
  | .insert => []
  | .perm => [op.groupA, ⟨op.b.toNat, op.g, op.sew⟩]
  | _ => [op.groupA]

/-- Whether a permute forbids every overlap of its destination with a source (R132). -/
def PermOp.apart : PermOp → Bool
  | .bcast => false
  | .insert => false
  | _ => true

/-- A permute, slide or move with its checks. -/
def vecPerm (s : State) (o : PermOp) (d a b : BitVec 5) (k : Bool) (word : BitVec 32) : Outcome State Fault Refusal :=
  let op := { s.vop (.perm o) d a b word with k := k }
  let srcs := permSources o op
  issueVec s op (do
    need (aligned d op.g && srcs.all (fun g => g.base % g.n == 0)) 0x05
    need (srcs.all (fun g => if o.apart then !op.groupD.overlaps g else overlapOk s.th.gpr op.sew op.groupD g)) 0x05)
    (permPlan o op)

/-- VSLIDEUP (R132). -/
def execVslideup (d a b : BitVec 5) (k : Bool) (s : State) : Outcome State Fault Refusal :=
  vecPerm s .slideUp d a b k (wordOf (.vslideup d a b k))
/-- VSLIDEDN (R132). -/
def execVslidedn (d a b : BitVec 5) (k : Bool) (s : State) : Outcome State Fault Refusal :=
  vecPerm s .slideDn d a b k (wordOf (.vslidedn d a b k))
/-- VSLIDE1UP (R132). -/
def execVslide1up (d a b : BitVec 5) (k : Bool) (s : State) : Outcome State Fault Refusal :=
  vecPerm s .slide1Up d a b k (wordOf (.vslide1up d a b k))
/-- VSLIDE1DN (R132). -/
def execVslide1dn (d a b : BitVec 5) (k : Bool) (s : State) : Outcome State Fault Refusal :=
  vecPerm s .slide1Dn d a b k (wordOf (.vslide1dn d a b k))
/-- VPERM (R132). -/
def execVperm (d a b : BitVec 5) (k : Bool) (s : State) : Outcome State Fault Refusal :=
  vecPerm s .perm d a b k (wordOf (.vperm d a b k))
/-- VCOMPRESS (R132). -/
def execVcompress (d a : BitVec 5) (b : BitVec 4) (k : Bool) (s : State) : Outcome State Fault Refusal :=
  vecPerm s .compress d a (b.zeroExtend 5) k (wordOf (.vcompress d a b k))
/-- VBCAST (R132). -/
def execVbcast (d a b : BitVec 5) (k : Bool) (s : State) : Outcome State Fault Refusal :=
  vecPerm s .bcast d a b k (wordOf (.vbcast d a b k))
/-- VMVSX (R132): reads x va, writes element 0 of vd. -/
def execVmvsx (d a : BitVec 5) (k : Bool) (s : State) : Outcome State Fault Refusal :=
  vecPerm s .insert d a 0 k (wordOf (.vmvsx d a k))

/-- VMVXS (R132): a scalar reader of element 0 of va, whatever VL is. -/
def execVmvxs (d a : BitVec 5) (sb : Bool) (s : State) : Outcome State Fault Refusal :=
  let w := vtBits s.th.vtype
  if !aligned a (vtG s.th.vtype) then .next (trapAt s 0x05 ((wordOf (.vmvxs d a sb)).zeroExtend 64) none)
  else vectorReader s fun s =>
    let s := s.correctRegs (fun p => ((s.th.withBad p).badGroup a.toNat 0 (ceilDiv w 8)).isSome)
    match s.th.badGroup a.toNat 0 (ceilDiv w 8) with
    | some v => .next (trapAt s 0x2B v none)
    | none => .next (s.ret d (BitVec.ofInt 64 (intVal sb w (s.th.elem a.toNat w 0))))

end Sys2Proof.Machine
end

