-- ==== Sys2Proof/Machine/VecReduce.lean ====
section
/-! DEFINITION. Majors 0x19 and 0x1A: reductions, scans and segmented operations (05_vector_ops.md R133-R136, 03_numbers.md R89,
R90). Each reads all of its sources before it writes and lands as one. -/

namespace Sys2Proof.Machine

open Host (Outcome)

/-! ## Sums and extremes of a list of elements -/

/-- How elements are read: as floats of a format, or as integers. -/
inductive ElemKind where
  | flt (f : FFmt)
  | int (signed : Bool)
  deriving DecidableEq, Repr

/-- The reading of R133: floats under FMT 0x2 and 0x3, else integers. -/
def VOp.elemKind (op : VOp) : ElemKind :=
  if op.fmt == 2 || op.fmt == 3 then .flt ((floatFmt op.fmt (vtSew op.vtype)).getD fp32) else .int op.signed

/-- One level of the pairwise tree of R89. -/
def treeLevel (f : FFmt) (m : Round) : List Nat → List Nat × Word
  | x :: y :: r =>
    let (v, fl) := f.add m x y
    let (vs, fl') := treeLevel f m r
    (v :: vs, fl ||| fl')
  | r => (r, 0)

/-- The tree over a power of two of elements, one level at a time. -/
def treeSum (f : FFmt) (m : Round) : Nat → List Nat → Nat × Word
  | 0, ys => (ys.headD 0, 0)
  | n + 1, ys =>
    let (ys', fl) := treeLevel f m ys
    let (v, fl') := treeSum f m n ys'
    (v, fl ||| fl')

/-- The exponent of the smallest power of two that is not below n. -/
def log2Up (n : Nat) : Nat := if n ≤ 1 then 0 else (n - 1).log2 + 1

/-- The tree of R89 over a row whose inactive elements are none. -/
def rowTree (f : FFmt) (m : Round) (row : List (Option Nat)) : Nat × Word :=
  let k := log2Up row.length
  treeSum f m k (row.map (·.getD f.signBit) ++ List.replicate (2 ^ k - row.length) f.signBit)

/-- The values of a running sum after each element (R90, R133): floats round after each addition, each integer output is the
exact prefix sum wrapped or clamped once. -/
def runningSums (kind : ElemKind) (m : Round) (sat : Bool) (w : Nat) (vals : List Nat) : List (Nat × Word) :=
  match kind with
  | .flt f => (vals.foldl (fun (acc : Nat × List (Nat × Word)) v =>
      let (x, fl) := f.add m acc.1 v
      (x, acc.2 ++ [(x, fl)])) (f.signBit, [])).2
  | .int signed => (vals.foldl (fun (acc : Int × List (Nat × Word)) v =>
      let x := acc.1 + intVal signed w v
      (x, acc.2 ++ [intResult signed sat w x])) (0, [])).2

/-- The sum identity (R133). -/
def sumIdentity (kind : ElemKind) : Nat :=
  match kind with
  | .flt f => f.signBit
  | .int _ => 0

/-- The identity of a minimum or maximum (R133). -/
def bestIdentity (kind : ElemKind) (wantMax : Bool) (w : Nat) : Nat :=
  match kind with
  | .flt f => (if wantMax then f.signBit else 0) + f.infBits
  | .int signed => intWrap w (if wantMax then intMin signed w else intMax signed w)

/-- Whether x comes before y: strictly smaller, or strictly larger for a maximum. -/
def better (kind : ElemKind) (wantMax : Bool) (w x y : Nat) : Bool :=
  match kind with
  | .flt f => if wantMax then FVal.lt (f.decode y) (f.decode x) else FVal.lt (f.decode x) (f.decode y)
  | .int signed =>
    if wantMax then intVal signed w y < intVal signed w x else intVal signed w x < intVal signed w y

/-- The minimum or maximum of elements with their row-local indices: the value, its index, ties to the lowest (R76, R134);
all NaN give the canonical NaN with the lowest index, none the identity with an index of all ones. -/
def bestOf (kind : ElemKind) (wantMax : Bool) (w : Nat) (es : List (Nat × Nat)) : Nat × Nat × Word :=
  let nan (v : Nat) : Bool := match kind with
    | .flt f => (f.decode v).isNan
    | .int _ => false
  let fl := orFlags (es.map (fun e => match kind with
    | .flt f => if (f.decode e.2).snan then flagNV else 0
    | .int _ => 0))
  match es, es.filter (fun e => !nan e.2) with
  | [], _ => (bestIdentity kind wantMax w, 2 ^ w - 1, 0)
  | e :: _, [] => (match kind with
    | .flt f => f.nanBits
    | .int _ => 0, e.1, fl)
  | _, n :: r =>
    let b := r.foldl (fun (b : Nat × Nat) e => if better kind wantMax w e.2 b.2 then e else b) n
    (b.2, b.1, fl)

/-- VRMIN, VRMAX, VSEGMIN and VSEGMAX of len elements, es of them active: an inactive element contributes the identity (R133), so that
a NaN gives way to it (R76). -/
def bestWith (kind : ElemKind) (wantMax : Bool) (w len : Nat) (es : List (Nat × Nat)) : Nat × Word :=
  let (v, _, fl) := bestOf kind wantMax w es
  let nan : Bool := match kind with
    | .flt f => (f.decode v).isNan
    | .int _ => false
  (if nan && es.length < len then bestIdentity kind wantMax w else v, fl)

/-! ## Rows and segments -/

/-- The active elements of a run of elements, with their values. -/
def activeOf (op : VOp) (t : Thread) (r0 len : Nat) : List (Nat × Nat) :=
  (((List.range len).map (· + r0)).filter (t.active op.k)).map (fun i => (i, t.elem op.a.toNat op.sew i))

/-- The writes of a reduction or scan on one row (R134, R135): destination elements with their values, and the flags. -/
def rowResult (o : RedOp) (op : VOp) (t : Thread) (r r0 len : Nat) : List (Nat × Nat) × Word :=
  let w := op.sew
  let m := roundNoRsr op.rm
  let kind := op.elemKind
  let av := activeOf op t r0 len
  let best (wantMax : Bool) := bestOf kind wantMax w (av.map (fun e => (e.1 - r0, e.2)))
  let with_ (wantMax : Bool) := bestWith kind wantMax w len av
  match o with
  | .sum => match kind with
    | .flt f =>
      let row := ((List.range len).map (· + r0)).map (fun i => if t.active op.k i then some (t.elem op.a.toNat w i) else none)
      let (v, fl) := rowTree f m row
      ([(r, v)], fl)
    | .int signed =>
      let (v, fl) := intResult signed op.saturates w (av.foldl (fun (n : Int) e => n + intVal signed w e.2) 0)
      ([(r, v)], fl)
  | .min => let (v, fl) := with_ false; ([(r, v)], fl)
  | .max => let (v, fl) := with_ true; ([(r, v)], fl)
  | .minI => let (v, j, fl) := best false; ([(2 * r, v), (2 * r + 1, j % 2 ^ w)], fl)
  | .maxI => let (v, j, fl) := best true; ([(2 * r, v), (2 * r + 1, j % 2 ^ w)], fl)
  | .scan =>
    let sums := runningSums kind m op.saturates w (av.map (·.2))
    ((av.zip sums).map (fun p => (p.1.1, p.2.1)), orFlags (sums.map (·.2)))
  | .scanX =>
    let sums := runningSums kind m op.saturates w (av.map (·.2))
    let before := (sumIdentity kind, (0 : Word)) :: sums
    ((av.zip before).map (fun p => (p.1.1, p.2.1)),
      match kind with
      | .flt _ => orFlags (sums.map (·.2))
      | .int _ => orFlags ((before.take av.length).map (·.2)))

/-- The segments of a row (R136): first elements and lengths. -/
def segmentsOf (flags : BitVec 16384) (r0 len : Nat) : List (Nat × Nat) :=
  let starts := (List.range len).filter (fun j => j = 0 || flags.getLsbD (r0 + j))
  (starts.zip (starts.drop 1 ++ [len])).map (fun p => (r0 + p.1, p.2 - p.1))

/-- The writes of a segmented operation on one segment (R136). -/
def segResult (o : SegOp) (op : VOp) (t : Thread) (s0 len : Nat) : List (Nat × Nat) × Word :=
  let w := op.sew
  let kind := op.elemKind
  let av := activeOf op t s0 len
  let sums := runningSums kind (roundNoRsr op.rm) op.saturates w (av.map (·.2))
  match o with
  | .sum =>
    let (v, fl) := match kind with
      | .flt _ => ((sums.getLast?.map (·.1)).getD (sumIdentity kind), orFlags (sums.map (·.2)))
      | .int _ => sums.getLastD (sumIdentity kind, 0)
    ([(s0, v)], fl)
  | .min => let (v, fl) := bestWith kind false w len av; ([(s0, v)], fl)
  | .max => let (v, fl) := bestWith kind true w len av; ([(s0, v)], fl)
  | .scan => ((av.zip sums).map (fun p => (p.1.1, p.2.1)), orFlags (sums.map (·.2)))

/-- The writes of several rows or segments applied to a thread, with their flags. -/
def applyWrites (d w : Nat) (rs : List (List (Nat × Nat) × Word)) (t : Thread) : Thread :=
  (t.setElems d w (rs.flatMap (·.1))).raise (orFlags (rs.map (·.2)))

/-- The plan of a reduction or scan. -/
def redPlan (o : RedOp) (op : VOp) : VPlan :=
  wholePlan op op.sew [op.groupD] [op.groupA] (fun t =>
    let rs := ((rowsOf op.cols.toNat op.n_).zipIdx).map (fun p => rowResult o op t p.2 p.1.1 p.1.2)
    (applyWrites op.d.toNat op.sew rs t).mendWritten op.groupD (fun i => rs.any (fun r => r.1.any (fun w => w.1 == i))))

/-- The plan of a segmented operation; its mask operand is read first too. -/
def segPlan (o : SegOp) (op : VOp) : VPlan :=
  let p := wholePlan op op.sew [op.groupD] [op.groupA] (fun t =>
    let segs := (rowsOf op.cols.toNat op.n_).flatMap (fun r => segmentsOf (vread t.m op.b.toNat) r.1 r.2)
    let rs := segs.map (fun g => segResult o op t g.1 g.2)
    (applyWrites op.d.toNat op.sew rs t).mendWritten op.groupD (fun i => rs.any (fun r => r.1.any (fun w => w.1 == i))))
  { p with gran := fun g s => match s.th.badIn 2 op.b.toNat 0 (ceilDiv op.n_ 8) with
      | some v => .error (.trap 0x2B v)
      | none => p.gran g s }

/-- The destination elements of a reduction's results, per row; none of a scan (R134). -/
def RedOp.perRow : RedOp → Nat
  | .sum => 1
  | .min => 1
  | .max => 1
  | .minI => 2
  | .maxI => 2
  | .scan => 0
  | .scanX => 0

/-- The operand-value check of R134, after those of R53: cause 0x07 at a scalar faulting point. -/
def issueVal (s : State) (op : VOp) (checks : Check) (bad : Option Word) (p : VPlan) : Outcome State Fault Refusal :=
  match checks, bad with
  | .error c, _ => .next (trapAt s c op.word none)
  | .ok _, some v => .next (trapAt s 0x07 v none)
  | .ok _, none => runVec s op p

/-- A reduction or scan. -/
def vecRed (s : State) (o : RedOp) (d a : BitVec 5) (k sb : Bool) (word : BitVec 32) : Outcome State Fault Refusal :=
  let op := { s.vop (.red o) d a 0 word with k := k, s := sb }
  let count := o.perRow * (rowsOf op.cols.toNat op.n_).length
  issueVal s op (groupChecks s.th.gpr op true [op.groupA])
    (if vlmax op.vtype s.th.gang < count then some (op.vl.zeroExtend 64) else none) (redPlan o op)

/-- A segmented operation. -/
def vecSeg (s : State) (o : SegOp) (d a : BitVec 5) (b : BitVec 4) (k sb : Bool) (word : BitVec 32) :
    Outcome State Fault Refusal :=
  let op := { s.vop (.seg o) d a (b.zeroExtend 5) word with k := k, s := sb }
  issueVec s op (groupChecks s.th.gpr op true [op.groupA]) (segPlan o op)

/-- VRSUM (R134). -/
def execVrsum (d a : BitVec 5) (k sb : Bool) (s : State) : Outcome State Fault Refusal :=
  vecRed s .sum d a k sb (wordOf (.vrsum d a k sb))
/-- VRMIN (R134). -/
def execVrmin (d a : BitVec 5) (k sb : Bool) (s : State) : Outcome State Fault Refusal :=
  vecRed s .min d a k sb (wordOf (.vrmin d a k sb))
/-- VRMAX (R134). -/
def execVrmax (d a : BitVec 5) (k sb : Bool) (s : State) : Outcome State Fault Refusal :=
  vecRed s .max d a k sb (wordOf (.vrmax d a k sb))
/-- VRMINI (R134). -/
def execVrmini (d a : BitVec 5) (k sb : Bool) (s : State) : Outcome State Fault Refusal :=
  vecRed s .minI d a k sb (wordOf (.vrmini d a k sb))
/-- VRMAXI (R134). -/
def execVrmaxi (d a : BitVec 5) (k sb : Bool) (s : State) : Outcome State Fault Refusal :=
  vecRed s .maxI d a k sb (wordOf (.vrmaxi d a k sb))
/-- VSCAN (R135). -/
def execVscan (d a : BitVec 5) (k sb : Bool) (s : State) : Outcome State Fault Refusal :=
  vecRed s .scan d a k sb (wordOf (.vscan d a k sb))
/-- VSCANX (R135). -/
def execVscanx (d a : BitVec 5) (k sb : Bool) (s : State) : Outcome State Fault Refusal :=
  vecRed s .scanX d a k sb (wordOf (.vscanx d a k sb))
/-- VSEGSUM (R136). -/
def execVsegsum (d a : BitVec 5) (b : BitVec 4) (k sb : Bool) (s : State) : Outcome State Fault Refusal :=
  vecSeg s .sum d a b k sb (wordOf (.vsegsum d a b k sb))
/-- VSEGMIN (R136). -/
def execVsegmin (d a : BitVec 5) (b : BitVec 4) (k sb : Bool) (s : State) : Outcome State Fault Refusal :=
  vecSeg s .min d a b k sb (wordOf (.vsegmin d a b k sb))
/-- VSEGMAX (R136). -/
def execVsegmax (d a : BitVec 5) (b : BitVec 4) (k sb : Bool) (s : State) : Outcome State Fault Refusal :=
  vecSeg s .max d a b k sb (wordOf (.vsegmax d a b k sb))
/-- VSEGSCAN (R136). -/
def execVsegscan (d a : BitVec 5) (b : BitVec 4) (k sb : Bool) (s : State) : Outcome State Fault Refusal :=
  vecSeg s .scan d a b k sb (wordOf (.vsegscan d a b k sb))

/-! ## Merging, sorting and top-k: major 0x1B (R137-R142) -/

/-- How keys are read (R137). -/
inductive KeyKind where
  | signed
  | flt (f : FFmt)
  | natural
  deriving DecidableEq, Repr

/-- The key order of an instruction. -/
def VOp.keyKind (op : VOp) : KeyKind :=
  if op.s || op.fmt == 0 then .signed
  else if op.fmt == 2 || op.fmt == 3 then .flt ((floatFmt op.fmt (vtSew op.vtype)).getD fp32)
  else .natural

/-- A key as an integer in its order: -0 below +0, every NaN above +infinity (R137). -/
def keyOf (kind : KeyKind) (w v : Nat) : Int :=
  match kind with
  | .signed => intVal true w v
  | .natural => v
  | .flt f => if (f.decode v).isNan then 2 ^ w + v else if f.signBit ≤ v then -((v - f.signBit : Nat) : Int) - 1 else v

/-- Whether a key is a NaN. -/
def keyNan (kind : KeyKind) (v : Nat) : Bool :=
  match kind with
  | .flt f => (f.decode v).isNan
  | _ => false

/-- NV for a signalling NaN key. -/
def keyFlags (kind : KeyKind) (vs : List Nat) : Word :=
  match kind with
  | .flt f => if vs.any (fun v => (f.decode v).snan) then flagNV else 0
  | _ => 0

/-- The stable merge of two lists as they stand, the first first on equal keys (R138). -/
def mergeKeys (key : Nat → Int) : List Nat → List Nat → List Nat
  | [], bs => bs
  | a :: as, bs => mergeInto key a (mergeKeys key as) bs
where
  /-- The elements of the second list that go before an element of the first, then that element and the rest. -/
  mergeInto (key : Nat → Int) (a : Nat) (rest : List Nat → List Nat) : List Nat → List Nat
    | [] => a :: rest []
    | b :: bs => if key a ≤ key b then a :: rest (b :: bs) else b :: mergeInto key a rest bs

/-- The writes of VMERGE on a row (R138). -/
def mergeRow (op : VOp) (t : Thread) (r0 len : Nat) (o : Nat) : List (Nat × Nat) :=
  let elems (base : BitVec 5) := ((List.range len).map (· + r0)).map (fun i => t.elem base.toNat op.sew i)
  ((mergeKeys (keyOf op.keyKind op.sew) (elems op.a) (elems op.b)).zipIdx).map (fun p => (o + p.2, p.1))

/-- The writes of VSORTSTEP on a row (R139): distance d, block size b. -/
def sortRow (op : VOp) (t : Thread) (r0 len d b : Nat) : List (Nat × Nat) :=
  let e (j : Nat) := t.elem op.a.toNat op.sew (r0 + j)
  let key (j : Nat) := keyOf op.keyKind op.sew (e j)
  ((List.range len).filter (fun j => j % (2 * d) < d)).flatMap (fun j =>
    let p := j + d
    if len ≤ p then [(r0 + j, e j)]
    else if (j / b % 2 == 0) == decide (key p < key j) then [(r0 + j, e p), (r0 + p, e j)]
    else [(r0 + j, e j), (r0 + p, e p)])

/-- A list sorted by a strict order, stably. -/
def sortBy {α : Type} (before : α → α → Bool) (l : List α) : List α :=
  l.foldl (fun acc x => ins x acc) []
where
  /-- The element placed behind all that it does not come before. -/
  ins (x : α) : List α → List α
    | [] => [x]
    | y :: r => if before x y then x :: y :: r else y :: ins x r

/-- PAD of R141. -/
def padKey (kind : KeyKind) : Nat :=
  match kind with
  | .flt _ => 0xFF800000
  | .signed => 0x80000000
  | .natural => 0

/-- The candidates of a row of VTOPK, best first (R141): GS experts per group, GL groups, the mask of dead experts. -/
def topkCands (op : VOp) (t : Thread) (r0 len gs gl : Nat) (dead : BitVec 16384) : List Nat :=
  let kind := op.keyKind
  let e (c : Nat) := t.elem op.a.toNat op.sew (r0 + c)
  let key (c : Nat) := keyOf kind op.sew (e c)
  let live := (List.range len).filter (fun c => !dead.getLsbD c && !keyNan kind (e c))
  let score (g : Nat) : Option Int := (live.filter (fun c => c / gs == g)).foldl (fun (b : Option Int) c =>
    match b with
    | none => some (key c)
    | some v => some (max v (key c))) none
  let cand := if gs = 0 || gl = 0 then live else
    let groups := (List.range (ceilDiv len gs)).filterMap (fun g => (score g).map (fun v => (g, v)))
    let eligible := ((sortBy (fun a b => decide (b.2 < a.2)) groups).take gl).map (·.1)
    live.filter (fun c => eligible.contains (c / gs))
  sortBy (fun a b => decide (key b < key a)) cand

/-- The writes of VTOPK on row r, and its bits of OM (R141). -/
def topkRow (op : VOp) (t : Thread) (r r0 len k : Nat) (cands : List Nat) : List (Nat × Nat) × List (Nat × Bool) :=
  let rows := (List.range k).map (fun j =>
    let at_ := r * k + j
    match cands[j]? with
    | some c => ((2 * at_, t.elem op.a.toNat op.sew (r0 + c)), (2 * at_ + 1, c), (at_, true))
    | none => ((2 * at_, padKey op.keyKind), (2 * at_ + 1, 0xFFFF), (at_, false)))
  (rows.flatMap (fun p => [p.1, p.2.1]), if len = 0 then [] else rows.map (·.2.2))

/-- The writes of VMRGK on a row (R142). -/
def mrgkRow (op : VOp) (t : Thread) (r0 len : Nat) : List (Nat × Nat) :=
  let p := len / 2
  let kind := op.keyKind
  let pairs (base : BitVec 5) := (List.range p).map (fun j =>
    (t.elem base.toNat op.sew (r0 + 2 * j), t.elem base.toNat op.sew (r0 + 2 * j + 1)))
  let valid := (pairs op.a ++ pairs op.b).filter (fun q => q.2 != 0xFFFF)
  let before (x y : Nat × Nat) : Bool :=
    decide (keyOf kind op.sew y.1 < keyOf kind op.sew x.1) ||
      (keyOf kind op.sew x.1 == keyOf kind op.sew y.1 && decide (x.2 < y.2))
  let best := (sortBy before valid).take p ++ List.replicate (p - valid.length) (padKey kind, 0xFFFF)
  (best.zipIdx).flatMap (fun q => [(r0 + 2 * q.2, q.1.1), (r0 + 2 * q.2 + 1, q.1.2)])

/-- The keys of an instruction, for the NV of a signalling NaN. That a key which never competes (of a dead expert of VTOPK, of a padding
pair of VMRGK, of an element without a partner in VSORTSTEP) raises NV too is the model's choice (DESIGN CHOICE; log 128). -/
def sortKeys (o : SortOp) (op : VOp) (t : Thread) : List Nat :=
  let all (b : BitVec 5) := (List.range op.n_).map (fun i => t.elem b.toNat op.sew i)
  let evens (b : BitVec 5) := (rowsOf op.cols.toNat op.n_).flatMap (fun r =>
    (List.range (r.2 / 2)).map (fun j => t.elem b.toNat op.sew (r.1 + 2 * j)))
  match o with
  | .merge => all op.a ++ all op.b
  | .topk => all op.a
  | .step => all op.a
  | .mrgk => evens op.a ++ evens op.b

/-- What an instruction of major 0x1B writes. -/
def sortAct (o : SortOp) (op : VOp) (t : Thread) : Thread :=
  let rows := rowsOf op.cols.toNat op.n_
  let p := op.xb.toNat
  let writes (ws : List (Nat × Nat)) (t : Thread) : Thread :=
    ((t.setElems op.d.toNat op.sew ws).raise (keyFlags op.keyKind (sortKeys o op t))).mendWritten op.groupD
      (fun i => ws.any (fun w => w.1 == i))
  match o with
  | .merge => writes (rows.flatMap (fun r => mergeRow op t r.1 r.2 (2 * r.1))) t
  | .step => writes (rows.flatMap (fun r => sortRow op t r.1 r.2 (p % 2 ^ 16) (p / 2 ^ 16 % 2 ^ 16))) t
  | .mrgk => writes (rows.flatMap (fun r => mrgkRow op t r.1 r.2)) t
  | .topk =>
    let dead := vread t.m (p / 2 ^ 24 % 16)
    let rs := (rows.zipIdx).map (fun r => topkRow op t r.2 r.1.1 r.1.2 (p % 256)
      (topkCands op t r.1.1 r.1.2 (p / 256 % 256) (p / 2 ^ 16 % 256) dead))
    let bits := rs.flatMap (·.2)
    (bits.foldl (fun t b => t.setMaskBit (p / 2 ^ 28 % 16) b.1 b.2) (writes (rs.flatMap (·.1)) t)).mendMask (p / 2 ^ 28 % 16)
      (fun i => bits.any (fun b => b.1 == i))

/-- Whether an instruction has a second vector source. -/
def SortOp.readsB : SortOp → Bool
  | .merge => true
  | .mrgk => true
  | _ => false

/-- The groups an instruction of major 0x1B reads. -/
def sortSources (o : SortOp) (op : VOp) : List Grp :=
  op.groupA :: (if o.readsB then [⟨op.b.toNat, op.g, op.sew⟩] else [])

/-- How many elements of its sources an instruction of major 0x1B reads: VMRGK, whose rows have an even length but for the last one, leaves
the last element of an odd one out (R142). -/
def SortOp.reads (o : SortOp) (n : Nat) : Nat := if o == .mrgk then n / 2 * 2 else n

/-- The plan of an instruction of major 0x1B; VTOPK reads its DM mask first too, and its valid bits go with the places that they stand
for. -/
def sortPlan (o : SortOp) (op : VOp) : VPlan :=
  let p := wholePlan op op.sew [op.groupD] (sortSources o op) (sortAct o op) (o.reads op.n_)
  let om := op.xb.toNat / 2 ^ 28 % 16
  { p with
    keep := some (fun g old new =>
      let t := keepGroups op.sew [op.groupD] g old new
      match o with
      | .topk => { t with m := vwrite t.m om (keepBits (vread old.m om) (vread t.m om) (g * 4096 / op.sew / 2)) }
      | _ => t)
    gran := fun g s => match (match o with
        | .topk => s.th.badIn 2 (op.xb.toNat / 2 ^ 24 % 16) 0 (ceilDiv (rowLen op.cols.toNat op.n_) 8)
        | _ => none) with
      | some v => .error (.trap 0x2B v)
      | none => p.gran g s }

/-- The operand-value checks of R138 to R142, as the EVAL of cause 0x07. A K of 65 to 255 fails no check that R140 gives; the model's
choice (log 101) is that it selects K places. -/
def sortBad (o : SortOp) (op : VOp) (gang : Bool) : Option Word :=
  let maxvl := vlmax op.vtype gang
  let x := op.xb.toNat
  let d := x % 2 ^ 16
  let b := x / 2 ^ 16 % 2 ^ 16
  let pow2 (n : Nat) : Bool := n != 0 && n == 2 ^ n.log2
  match o with
  | .merge => if maxvl < 2 * op.n_ then some (op.vl.zeroExtend 64) else none
  | .step => if !pow2 d || !pow2 b || b < 2 * d || 2 ^ 32 ≤ x then some op.xb else none
  | .topk =>
    if x % 256 = 0 || 2 ^ 32 ≤ x || maxvl < 2 * (rowsOf op.cols.toNat op.n_).length * (x % 256) then some op.xb else none
  | .mrgk => if op.cols = 0 || op.cols.toNat % 2 = 1 then some (op.cols.zeroExtend 64) else none

/-- An instruction of major 0x1B (R137): SEW 32 for the top-k forms, no overlap at all. -/
def vecSort (s : State) (o : SortOp) (d a b : BitVec 5) (sb : Bool) (word : BitVec 32) : Outcome State Fault Refusal :=
  let op := { s.vop (.sort o) d a b word with s := sb }
  let srcs := sortSources o op
  issueVal s op (do
    need (match o with
      | .topk => op.sew == 32
      | .mrgk => op.sew == 32
      | _ => true) 0x03
    need (aligned d op.g && srcs.all (fun g => g.base % g.n == 0)) 0x05
    need (!srcs.any op.groupD.overlaps) 0x05) (sortBad o op s.th.gang) (sortPlan o op)

/-- VMERGE (R138). -/
def execVmerge (d a b : BitVec 5) (sb : Bool) (s : State) : Outcome State Fault Refusal :=
  vecSort s .merge d a b sb (wordOf (.vmerge d a b sb))
/-- VTOPK (R140, R141). -/
def execVtopk (d a b : BitVec 5) (sb : Bool) (s : State) : Outcome State Fault Refusal :=
  vecSort s .topk d a b sb (wordOf (.vtopk d a b sb))
/-- VMRGK (R142). -/
def execVmrgk (d a b : BitVec 5) (sb : Bool) (s : State) : Outcome State Fault Refusal :=
  vecSort s .mrgk d a b sb (wordOf (.vmrgk d a b sb))
/-- VSORTSTEP (R139). -/
def execVsortstep (d a b : BitVec 5) (sb : Bool) (s : State) : Outcome State Fault Refusal :=
  vecSort s .step d a b sb (wordOf (.vsortstep d a b sb))

end Sys2Proof.Machine
end

