-- ==== Sys2Proof/Machine/VecScale.lean ====
section
/-! DEFINITION. Majors 0x1C and 0x1D: scaled and quantised operations, and the configuration of vectors (05_vector_ops.md
R143-R147, 03_numbers.md R82-R86). -/

namespace Sys2Proof.Machine

open Host (Outcome)

/-! ## Scaled formats (R85) -/

/-- A scaled format. -/
inductive Scaled where
  | nq4
  | fp8 (f : FFmt)
  | int (w : Nat)
  deriving DecidableEq, Repr

/-- The scaled format that VTYPE selects (R85, R143). -/
def scaledFmt (fmt sew : Nat) : Option Scaled :=
  match fmt, sew with
  | 6, 4 => some .nq4
  | 4, 8 => some (.fp8 e4m3)
  | 5, 8 => some (.fp8 e5m2)
  | 0, 4 => some (.int 4)
  | 0, 8 => some (.int 8)
  | _, _ => none

/-- Elements per block. -/
abbrev Scaled.block : Scaled → Nat
  | .nq4 => 64
  | _ => 32

/-- The bits of a block's scale in v31 (R85). -/
abbrev Scaled.width : Scaled → Nat
  | .int _ => 16
  | _ => 8

/-- S of the super-block, from bytes 1,020-1,023 of v31. -/
def superScale (t : Thread) : FVal := fp32.decode (t.elem 31 32 255)

/-- A power of two. -/
def pow2Val (e : Int) : FVal := let (n, d) := scale2 1 1 e; .fin false n d

/-- A value times n / d. -/
def FVal.times (v : FVal) (n d : Nat) : FVal :=
  match v with
  | .fin s a b => .fin s (a * n) (b * d)
  | v => v

/-- The scale of block b (R145). -/
def blockScale (k : Scaled) (t : Thread) (b : Nat) : FVal :=
  match k with
  | .nq4 => (superScale t).times (t.elem 31 8 b + 1) 256
  | .fp8 _ => if t.elem 31 8 b = 0xFF then .nan false else pow2Val ((t.elem 31 8 b : Int) - 127)
  | .int _ => bf16.decode (t.elem 31 16 b)

/-- NV of a NaN scale (R145). -/
def scaleFlag (v : FVal) : Word := if v.isNan then flagNV else 0

/-- The value that a narrow element of block b decodes to, and the flags (R83, R85, R145). -/
def decodeScaled (k : Scaled) (t : Thread) (b x : Nat) : FVal × Word :=
  match k with
  | .nq4 =>
    let (v, i) := nq4Value x (t.elem 31 8 b) (superScale t)
    (v, if i then flagNV else 0)
  | .fp8 f =>
    let s := blockScale k t b
    let (v, i) := FVal.mul (f.decode x) s
    (v, scaleFlag s ||| (if i then flagNV else 0))
  | .int w =>
    let s := blockScale k t b
    let i := intVal true w x
    let (v, inv) := FVal.mul (.fin (decide (i < 0)) i.natAbs 1) s
    (v, scaleFlag s ||| (if inv then flagNV else 0))

/-- A finite quotient x / s rounded to an integer of w bits and clamped (R145). -/
def quantInt (m : Round) (x s : FVal) (w : Nat) : Nat × Word :=
  match x, s with
  | .nan _, _ => (0, flagNV)
  | _, .nan _ => (0, flagNV)
  | .inf _, .inf _ => (0, flagNV)
  | .fin _ _ _, .inf _ => (0, 0)
  | .inf a, .fin b n _ =>
    if n = 0 then (0, 0) else (intWrap w (if a != b then intMin true w else intMax true w), flagSAT)
  | .fin a n d, .fin b sn sd =>
    if sn = 0 then (0, 0) else
    let (k, nx) := roundAt m (a != b) (n * sd) (d * sn) 0
    let (v, fl) := intClamp true w (if a != b then -(k : Int) else k)
    (v, fl ||| (if nx then flagNX else 0))

/-- VQUANT of one FP32 element (R145). -/
def quantElem (k : Scaled) (m : Round) (s : FVal) (x : Nat) : Nat × Word :=
  let v := fp32.decode x
  match k with
  | .nq4 => toNq4 v s
  | .int w => quantInt m v s w
  | .fp8 f =>
    match s with
    | .fin _ n d => floatToFloat m (match v with
      | .fin a xn xd => .fin a (xn * d) (xd * n)
      | v => v) f false
    | _ => (f.nanBits, flagNV)

/-! ## VBMAX (R144) -/

/-- The magnitude of an element as R84 step 1 counts it: none for a NaN, the largest finite value for an infinity. -/
def magnitude (x : Nat) : Option Nat :=
  match fp32.decode x with
  | .nan _ => none
  | .inf _ => some fp32.maxBits
  | .fin _ _ _ => some (x % 2 ^ 31)

/-- ceil(n / d) of naturals. -/
abbrev ceilQuot (n d : Nat) : Nat := (n + d - 1) / d

/-- ceil(log2 (n / d)). -/
def clog2 (n d : Nat) : Int :=
  let e := flog2 n d
  let (a, b) := scale2 n d (-e)
  if a = b then e else e + 1

/-- n and d of the value of FP32 bits. -/
def fp32Frac (x : Nat) : Nat × Nat :=
  match fp32.decode x with
  | .fin _ n d => (n, d)
  | _ => (0, 1)

/-- The scale byte, or the BF16 scale, of a block whose absolute maximum has FP32 bits ab, under the super-scale bits S. -/
def blockCode (k : Scaled) (ab S : Nat) : Nat × Word :=
  let (n, d) := fp32Frac ab
  match k with
  | .nq4 =>
    let (sn, sd) := fp32Frac S
    (if sn = 0 then 0 else min 255 (ceilQuot (n * sd * 256) (d * sn) - 1), 0)
  | .fp8 f =>
    let top := if f.inf then 57344 else 448
    (if n = 0 then 127 else (max 0 (min 254 (127 + clog2 n (d * top)))).toNat, 0)
  | .int w =>
    if n = 0 then (0, 0) else bf16.round .rup .ieee false n (d * (2 ^ (w - 1) - 1))

/-- What VBMAX does (R144). -/
def bmaxAct (k : Scaled) (op : VOp) (t : Thread) : Thread :=
  let act := (List.range op.n_).filter (t.active op.k)
  let t := act.foldl (fun t _ => { t with srnd := (roundOf op.rm t.srnd).2 }) t
  let mag (i : Nat) := magnitude (t.elem op.a.toNat 32 i)
  let nv := if act.any (fun i => (mag i).isNone) then flagNV else 0
  let top (is : List Nat) : Nat := is.foldl (fun a i => max a ((mag i).getD 0)) 0
  let S := top act
  let blocks := List.range (ceilDiv op.n_ k.block)
  let codes := blocks.map (fun b => (b, blockCode k (top (act.filter (fun i => i / k.block == b))) S))
  let t := t.setElems 31 k.width (codes.map (fun c => (c.1, c.2.1)))
  let t := match k with
    | .nq4 => t.setElem 31 32 255 S
    | _ => t
  (t.raise (nv ||| orFlags (codes.map (·.2.2)))).mendWritten ⟨31, 1, k.width⟩ (fun i => i < blocks.length)

/-! ## Plans -/

/-- The scaled format of an instruction (checked at issue). -/
def VOp.scaled (op : VOp) : Scaled := (scaledFmt op.fmt op.sew).getD .nq4
/-- The registers of the wide FP32 group, Gw (R143). -/
def VOp.gw (op : VOp) : Nat := op.g * 32 / op.sew
/-- A wide group. -/
abbrev VOp.wide (op : VOp) (r : BitVec 5) : Grp := ⟨r.toNat, op.gw, 32⟩
/-- A narrow group. -/
abbrev VOp.narrow (op : VOp) (r : BitVec 5) : Grp := ⟨r.toNat, op.g, op.sew⟩

/-- The destination of a scaled instruction. -/
def ScaleOp.dst (o : ScaleOp) (op : VOp) : Grp :=
  match o with
  | .bmax => ⟨31, 1, 8⟩
  | .quant => op.narrow op.d
  | _ => op.wide op.d

/-- The groups that a scaled instruction reads, v31's scales apart. -/
def ScaleOp.reads (o : ScaleOp) (op : VOp) : List Grp :=
  match o with
  | .bmax => [op.wide op.a]
  | .scale => [op.wide op.a]
  | .quant => [op.wide op.a]
  | .deq => [op.narrow op.a]
  | .sfma => [op.wide op.a, op.narrow op.b, op.wide op.d]

/-- The scales that a scaled instruction reads: v31 as it stood at the dispatch (R86). -/
def VOp.scaleView (op : VOp) (t : Thread) : Thread := { t with v := vwrite t.v 31 op.scales }

/-- One element of VSCALE, VQUANT, VDEQ or VSFMA (R145). -/
def scaleElem (o : ScaleOp) (op : VOp) (t : Thread) (m : Round) (i : Nat) : Nat × Word :=
  let k := op.scaled
  let b := i / k.block
  let u := op.scaleView t
  let s := blockScale k u b
  let out (v : FVal) (inv : Bool) (fl : Word) : Nat × Word :=
    let (x, f) := fp32.deliver m .ieee v inv
    (x, fl ||| f)
  match o with
  | .bmax => (0, 0)
  | .quant => quantElem k m s (t.elem op.a.toNat 32 i)
  | .scale =>
    let (v, inv) := FVal.mul (fp32.decode (t.elem op.a.toNat 32 i)) s
    out v inv (scaleFlag s)
  | .deq =>
    let (v, fl) := decodeScaled k u b (t.elem op.a.toNat op.sew i)
    out v false fl
  | .sfma =>
    let (v, fl) := decodeScaled k u b (t.elem op.b.toNat op.sew i)
    let (p, inv) := FVal.mul (fp32.decode (t.elem op.a.toNat 32 i)) v
    let c := fp32.decode (t.elem op.d.toNat 32 i)
    let (r, inv') := FVal.add m p c
    out r (inv || inv' || c.snan) fl

/-- The lowest uncorrectable word of v31 among the scales of blocks below VL (R86). -/
def badScales (op : VOp) (t : Thread) : Option Word :=
  if t.badRegs.isEmpty then none else
  let n := ceilDiv op.n_ op.scaled.block
  let rb := match op.scaled with
    | .int _ => 2 * n
    | _ => n
  match t.badIn 1 31 0 rb with
  | some v => some v
  | none => if op.scaled == .nq4 then t.badIn 1 31 1020 1024 else none

/-- The plan of a scaled instruction: granules count over the wide group. A VBMAX that resumes keeps the scales of the blocks below its
granule. -/
def scalePlan (o : ScaleOp) (op : VOp) : VPlan :=
  match o with
  | .bmax => { wholePlan op 32 [⟨31, 1, 8⟩] [op.wide op.a] (bmaxAct op.scaled op) with
      keep := some (fun g old new => old.keepGroup new ⟨31, 1, 8⟩ (g * 128 / op.scaled.block * op.scaled.width)) }
  | _ =>
    { steps := liveGranules 32 op.n_, live := liveGranules 32 op.n_, cw := 32, dsts := [o.dst op]
      gran := fun g s => match badScales op s.th with
        | some v => .error (.trap 0x2B v)
        | none => elemGranule op 32 (o.dst op) (o.reads op) true (scaleElem o op) g s }

/-- A scaled instruction with its checks (R86, R143, R144). -/
def vecScale (s : State) (o : ScaleOp) (d a b : BitVec 5) (w : BitVec 2) (k : Bool) (word : BitVec 32) :
    Outcome State Fault Refusal :=
  let op := { s.vop (.scale o) d a b word with w2 := w, k := k, scales := vread s.th.v 31 }
  let dst := o.dst op
  let srcs := o.reads op
  issueVec s op (do
    need ((scaledFmt op.fmt op.sew).isSome && op.gw ≤ 8 && w == 0) 0x03
    need (dst.base % dst.n == 0 && srcs.all (fun g => g.base % g.n == 0)) 0x05
    need (match o with
      | .bmax => !srcs.any dst.overlaps
      | _ => dst.base + dst.n ≤ 31 && srcs.all (overlapOk s.th.gpr 32 dst)) 0x05)
    (scalePlan o op)

/-- VBMAX (R144). -/
def execVbmax (a : BitVec 5) (w : BitVec 2) (k : Bool) (s : State) : Outcome State Fault Refusal :=
  vecScale s .bmax 0 a 0 w k (wordOf (.vbmax a w k))
/-- VSCALE (R145). -/
def execVscale (d a : BitVec 5) (w : BitVec 2) (k : Bool) (s : State) : Outcome State Fault Refusal :=
  vecScale s .scale d a 0 w k (wordOf (.vscale d a w k))
/-- VQUANT (R145). -/
def execVquant (d a : BitVec 5) (w : BitVec 2) (k : Bool) (s : State) : Outcome State Fault Refusal :=
  vecScale s .quant d a 0 w k (wordOf (.vquant d a w k))
/-- VDEQ (R145). -/
def execVdeq (d a : BitVec 5) (w : BitVec 2) (k : Bool) (s : State) : Outcome State Fault Refusal :=
  vecScale s .deq d a 0 w k (wordOf (.vdeq d a w k))
/-- VSFMA (R145). -/
def execVsfma (d a b : BitVec 5) (w : BitVec 2) (k : Bool) (s : State) : Outcome State Fault Refusal :=
  vecScale s .sfma d a b w k (wordOf (.vsfma d a b w k))

/-! ## Configuration: major 0x1D (R146, R147) -/

/-- VL, VTYPE and xd after a configuration instruction asks for n elements (R146). -/
def setVector (s : State) (d : BitVec 5) (vtype : Word) (n : Word) : State :=
  let vl := BitVec.ofNat 15 (min n.toNat (vlmax vtype s.th.gang))
  { s with th := { s.th with vtype := vtype, vl := vl } }.ret d (vl.zeroExtend 64)

/-- VSETI (R146). -/
def execVseti (d a : BitVec 5) (t : BitVec 10) (s : State) : Outcome State Fault Refusal :=
  if vtypeLegal (t.zeroExtend 64) then .next (setVector s d (t.zeroExtend 64) (s.x a))
  else .next (trapAt s 0x03 ((wordOf (.vseti d a t)).zeroExtend 64) none)

/-- VSETVL (R146). -/
def execVsetvl (d a : BitVec 5) (s : State) : Outcome State Fault Refusal := .next (setVector s d s.th.vtype (s.x a))

/-- VSETT (R146). -/
def execVsett (d a : BitVec 5) (s : State) : Outcome State Fault Refusal :=
  if vtypeLegal (s.x a) then .next (setVector s d (s.x a) (s.th.vl.zeroExtend 64))
  else .next (trapAt s 0x03 (s.x a) none)

/-- VSHAPE (R146): the whole of xa is compared with 16,384 (R22). -/
def execVshape (a : BitVec 5) (s : State) : Outcome State Fault Refusal :=
  if (s.x a).toNat ≤ 16384 then .next { s with th := { s.th with cols := bits (s.x a) 0 15 } }.advance
  else .next (trapAt s 0x03 (s.x a) none)

/-- VSHAPEI (R146). -/
def execVshapei (c : BitVec 12) (s : State) : Outcome State Fault Refusal :=
  .next { s with th := { s.th with cols := c.zeroExtend 15 } }.advance

end Sys2Proof.Machine
end

