-- ==== Sys2Proof/Machine/ViewEngine.lean ====
section
/-! DEFINITION. The view engine: freshness, captures and reads through view handles (14_views_layouts.md R328-R335). -/

namespace Sys2Proof.Machine

open Host (Outcome)

/-! ## Views -/

/-- A live view of a die replaced. -/
def State.setView (s : State) (die view : Nat) (v : View) : State :=
  let d := s.die die
  s.setDie die { d with views := d.views.put view v }

/-- One block of a view changed. -/
def View.mapBlock (v : View) (b : Nat) (f : ViewBlock → ViewBlock) : View :=
  { v with blocks := (v.blocks.zipIdx).map (fun p => if p.2 = b then f p.1 else p.1) }

/-- Block b of a view. -/
abbrev View.block (v : View) (b : Nat) : ViewBlock := v.blocks.getD b {}

/-- The version MV of a view's master (R328). -/
def masterMv (d : Die) (v : View) : BitVec 16 :=
  match d.masters.find? (fun m => m.asid == v.asid && m.base == hBase v.master) with
  | some m => m.mv
  | none => 0

/-- How many captures a wait that begins now waits for: one that begins after it (R335, R339). -/
def View.target (v : View) (b : Nat) : Nat := (v.block b).captures + (if (v.block b).capturing then 2 else 1)

/-! ## Starting a capture (R333) -/

/-- The block that is due: one that is waited for before the others, then the one that became stale first. -/
def View.due (v : View) : Option Nat :=
  if v.blocks.any (·.capturing) then none else
  let pick (want : Bool) : Option Nat :=
    ((v.blocks.zipIdx).filter (fun p => (p.1.stale || p.1.wanted) && p.1.wanted == want)).foldl
      (fun best p => match best with
        | none => some p.2
        | some q => if p.1.since < (v.block q).since then some p.2 else some q) none
  match pick true with
  | some b => some b
  | none => pick false

/-- Whether a VIEWDROP waits for the end of a view's capture, so that no other one starts (R338). -/
def dropWaits (s : State) (die view : Nat) : Bool := s.slots.any (fun k => (s.thread k).wait == some (.drop die view))

/-- The engine starts the capture that is due: the block takes MV as its tag, and the next write to the master raises MV
(R328). Under SPLIT.VIEW the capture is posted to the host. -/
def startCapture (s : State) (die view : Nat) : State :=
  let d := s.die die
  match d.views.entry view with
  | none => s
  | some v =>
    if dropWaits s die view then s else
    match v.due with
    | none => s
    | some b =>
      let node := die / 8
      let host := (s.pkg node).split.getLsbD 2
      let tag := if host then s.nextTag node else none
      if host && tag.isNone then s else
      let mv := masterMv d v
      let v := v.mapBlock b (fun k => { k with
        capturing := true, again := false, wanted := false, synced := false, startFull := k.full, full := false, startTag := mv, host := tag })
      let masters := d.masters.map (fun m =>
        if m.asid == v.asid && m.base == hBase v.master then { m with captured := true } else m)
      let s := s.setDie die { d with views := d.views.put view v, masters := masters }
      if host then s.post node ⟨2, 0, BitVec.ofNat 64 (die % 8 + v.viewId.toNat * 2 ^ 16 + b * 2 ^ 32), hBase v.master, v.vb⟩
      else s

/-- VIEW_CAPTURE (R333). -/
def execViewCapture (die view : Nat) (s : State) : Outcome State Fault Refusal := .next (startCapture s die view)

/-! ## What a capture computes (R333, R334; 03_numbers.md R83, R84) -/

/-- The address of a master element: through steering while the master is under relayout. -/
def masterAddr (s : State) (die : Nat) (v : View) (c : Coord) : Except Stop (Word × Bool) :=
  let t := hShape v.master
  let here := elemAddr (hLayout v.master) (hBase v.master) t c
  match (s.die die).relays.find? (fun r => r.2.asid == v.asid && r.2.altBase == hBase v.master && r.2.steers) with
  | none => .ok here
  | some (i, r) =>
    let tile := storageTile (hLayout r.hand) t c
    match r.phase tile with
    | .waiting => .ok here
    | .converted => .ok (elemAddr (hLayout r.hand) (hBase r.hand) t c)
    | .converting => .error (.wait (.steer die i tile))

/-- One element of a block: its storage index, and the master's bits unless the read failed. -/
structure Captured where
  idx : Nat
  val : Option Nat
  deriving DecidableEq, Repr

/-- The master elements of a block, read once each; a read that waits stops the capture. -/
def readMaster (die : Nat) (v : View) (ag : Agent) : List (Nat × Coord) → State → Except Stop (List Captured × State)
  | [], s => .ok ([], s)
  | (i, c) :: r, s => do
    let (a, high) ← masterAddr s die v c
    let w := (hShape v.master).sew
    match enginePlace s ag false (max 1 (w / 8)) a with
    | .ok key =>
      let s := engineRead s ag a key (max 1 (w / 8))
      let (rest, s') ← readMaster die v ag r s
      return (⟨i, some (loadElem s key w high)⟩ :: rest, s')
    | .error (.trap cause e) =>
      let (rest, s') ← readMaster die v ag r (engineStop s ag (.trap cause e))
      return (⟨i, none⟩ :: rest, s')
    | .error st => .error st

/-- The value of master bits. -/
def masterVal (v : View) (x : Nat) : FVal :=
  if hFmt v.master ≤ 1 then
    let i := intVal (hFmt v.master == 0) (sewBits (hSew v.master)) x
    .fin (decide (i < 0)) i.natAbs 1
  else sourceVal (hFmt v.master) (hSew v.master) x

/-- The magnitude that R84 counts: none for a NaN, the largest finite FP32 value for an infinity. -/
def magFrac (x : FVal) : Option (Nat × Nat) :=
  match x with
  | .nan _ => none
  | .inf _ => some (fp32Frac fp32.maxBits)
  | .fin _ n d => some (n, d)

/-- The larger of two fractions. -/
def maxFrac (a b : Nat × Nat) : Nat × Nat := if a.1 * b.2 < b.1 * a.2 then b else a

/-- The largest magnitude of a list of values. -/
def topFrac (xs : List FVal) : Nat × Nat :=
  xs.foldl (fun m x => match magFrac x with
    | some q => maxFrac m q
    | none => m) (0, 1)

/-- S of step 1 of R84: the maximum rounded upwards to FP32, the largest finite value at most. -/
def superOf (q : Nat × Nat) : Nat :=
  let (b, _) := fp32.round .rup .ieee false q.1 q.2
  if fp32.maxBits < b then fp32.maxBits else b

/-- The code of a block of step 2 of R84. -/
def codeOf (q : Nat × Nat) (S : Nat) : Nat :=
  let (sn, sd) := fp32Frac S
  if sn = 0 then 0 else min 255 (ceilQuot (q.1 * sd * 256) (q.2 * sn) - 1)

/-- The line length of an NQ4 view (R330). -/
def View.line (v : View) : Nat := if v.layout = 1 then hDim v.master 1 else hDim v.master 0

/-- The offset of the super-scale words of an NQ4 view (R330). -/
def View.scaleOff (v : View) : Nat :=
  let n := v.shape.count
  (n / 2 + n / 64 + 3) / 4 * 4

/-- A write of a capture: its address, its bytes or its nibble. -/
structure CapWrite where
  addr : Word
  width : Nat
  high : Bool
  val : Nat
  deriving DecidableEq, Repr

/-- The writes of an NQ4 block in their order, whether it is poisoned, and its S (R333). -/
def captureNq4 (v : View) (b : Nat) (es : List Captured) : List CapWrite × Bool × Word :=
  let blk := v.block b
  let n := v.shape.count
  let val (e : Captured) : Option FVal := e.val.map (masterVal v)
  let S0 := superOf (topFrac (es.filterMap val))
  let S := if blk.startFull then S0 else max S0 blk.scale.toNat
  let lines := (es.map (fun e => e.idx / v.line)).eraseDups
  let blocks := (es.map (fun e => e.idx / 64)).eraseDups
  let codes := blocks.map (fun k => (k, codeOf (topFrac ((es.filter (fun e => e.idx / 64 == k)).filterMap val)) S))
  let codeFor (i : Nat) : Nat := ((codes.find? (fun p => p.1 == i / 64)).map (·.2)).getD 0
  let ws := lines.map (fun l => (⟨v.vb + BitVec.ofNat 64 (v.scaleOff + 4 * l), 32, false, S⟩ : CapWrite))
    ++ codes.map (fun p => (⟨v.vb + BitVec.ofNat 64 (n / 2 + p.1), 8, false, p.2⟩ : CapWrite))
    ++ es.filterMap (fun e => (val e).map (fun x =>
        let s := (fp32.decode S).times (codeFor e.idx + 1) 256
        (⟨v.vb + BitVec.ofNat 64 (e.idx / 2), 4, e.idx % 2 = 1, (toNq4 x s).1⟩ : CapWrite)))
  (ws, es.any (fun e => match val e with
    | some x => x.isNan
    | none => true), BitVec.ofNat 64 S)

/-- The writes of a block of another format, and whether it is poisoned: the bits unchanged in the master's own format, else
converted by R87 with SAT and RNE. -/
def capturePlain (v : View) (es : List Captured) : List CapWrite × Bool :=
  let same := v.fmt.toNat == hFmt v.master && v.sew.toNat == hSew v.master
  let w := sewBits v.sew.toNat
  (es.filterMap (fun e => e.val.map (fun x =>
      let y := if same then x else (convert .rne (hFmt v.master) (hSew v.master) v.fmt.toNat v.sew.toNat false x).1
      let (a, high) := storageAddr v.layout.toNat v.vb w e.idx
      (⟨a, w, high, y⟩ : CapWrite))),
    es.any (fun e => match e.val with
      | some x => v.fmt.toNat ≤ 1 && (masterVal v x).isNan
      | none => true))

/-- One write of a capture; a failed write poisons, a held one stops. -/
def writeCaptured (ag : Agent) : List CapWrite → State → Except Stop (Bool × State)
  | [], s => .ok (false, s)
  | w :: r, s =>
    match enginePlace s ag true (max 1 (w.width / 8)) w.addr with
    | .ok key =>
      let s := engineTouch s ag w.addr key (if w.width = 4 then [nibbleByte (memGet s.mem key) w.high w.val] else leBytes (w.width / 8) w.val)
      writeCaptured ag r (storeElem s ag.asid w.addr key w.width w.high w.val)
    | .error (.trap cause e) =>
      match writeCaptured ag r (engineStop s ag (.trap cause e)) with
      | .ok (_, s') => .ok (true, s')
      | .error st => .error st
    | .error st => .error st

/-- The elements of block b, with their coordinates. -/
def View.coords (v : View) (b : Nat) : List (Nat × Coord) :=
  (List.range 16384).filterMap (fun j => (coordAt v.layout.toNat v.shape (16384 * b + j)).map (fun c => (16384 * b + j, c)))

/-- The block's state after its capture: its tag, fresh unless a write has made it stale again, and its mark; a fresh block is captured again
only for a VIEWSYNC (R333, R339). -/
def View.captured (v : View) (b : Nat) (poisoned : Bool) (scale : Word) : View :=
  { v.mapBlock b (fun k => { k with
      capturing := false, stale := k.again, wanted := k.wanted && (k.again || k.synced), tag := k.startTag, poisoned := poisoned, startFull := false, host := none, written := none,
      scale := scale, captures := k.captures + 1, since := v.clock }) with clock := v.clock + 1 }

/-- The super-scales, codes and elements of a block that is captured: computed from the master and written (R333, R334). -/
def writeCapture (s : State) (die view b : Nat) (v : View) : State :=
  let ag := engineAgent die v.asid v.priv [2, view, b]
  match readMaster die v ag (v.coords b) s with
  | .error st => engineStop s ag st
  | .ok (es, s1) =>
    let (ws, bad, scale) := if v.fmt = 6 then captureNq4 v b es
      else let (ws, bad) := capturePlain v es; (ws, bad, (v.block b).scale)
    match writeCaptured ag ws s1 with
    | .error st => engineStop s ag st
    | .ok (bad', s2) =>
      match (s2.die die).views.entry view with
      | some v2 => s2.setView die view (v2.mapBlock b (fun k => { k with written := some (bad || bad', scale) }))
      | none => s2

/-- The capture that runs in a view goes on: its writes perform, and then it ends with the tag and the fresh state. A SERVE read between
the two finds the block stale and the contents of the capture in progress (R333, R335). -/
def finishCapture (s : State) (die view : Nat) : State :=
  match (s.die die).views.entry view with
  | none => s
  | some v =>
    match v.blocks.findIdx? (fun k => k.capturing && k.host.isNone) with
    | none => s
    | some b =>
      match (v.block b).written with
      | some (bad, scale) => s.setView die view (v.captured b bad scale)
      | none => writeCapture s die view b v

/-- VIEW_CAPTURE_END (R333). -/
def execViewCaptureEnd (die view : Nat) (s : State) : Outcome State Fault Refusal := .next (finishCapture s die view)

/-- The host's answer for a block (17_package_system.md R394): it has written the block, or could not, which poisons it. -/
def answerView (s : State) (node : Nat) (w1 : Word) (fail : Bool) : State :=
  let die := node * 8 + (bits w1 0 3).toNat
  let view := (bits w1 16 10).toNat
  let b := (bits w1 32 32).toNat
  match (s.die die).views.entry view with
  | none => s
  | some v =>
    if v.viewId != bits w1 16 16 || (v.block b).host.isNone then s
    else
      let S := if v.fmt = 6 then
          match enginePlace s (engineAgent die v.asid v.priv [2, view, b]) false 4
              (v.vb + BitVec.ofNat 64 (v.scaleOff + 4 * (16384 * b / v.line))) with
          | .ok key => BitVec.ofNat 64 (loadElem s key 32 false)
          | .error _ => (v.block b).scale
        else (v.block b).scale
      s.setView die view (v.captured b fail S)

/-! ## Reads through a view handle (R335) -/

/-- The live view that a handle or reference names at a die. -/
def viewOf (s : State) (die : Nat) (viewId : BitVec 16) (asid : BitVec 12) : Option View :=
  match (s.die die).views.entry (bits viewId 0 10).toNat with
  | some v => if v.viewId == viewId && v.asid == asid then some v else none
  | none => none

/-- The check of one element of a CLD through a view handle, after step 6 of R151: its policy, then poisoning. -/
def viewCheck (s : State) (slot : Nat) (h : BitVec 256) (c : Coord) (elem : Nat) : Except Stop State :=
  let die := s.homeOf (slotNode slot) (hAlt h)
  let t := s.thread slot
  match viewOf s die (hViewId h) t.asid with
  | none => .error (.trap 0x26 (hWord h 2))
  | some v =>
    let view := (bits (hViewId h) 0 10).toNat
    let b := storageIndex (hLayout h) (hShape h) c / 16384
    let k := v.block b
    let val : Word := BitVec.ofNat 64 (elem * 2 ^ 32 + b)
    let poisonCheck : Except Stop State := if k.poisoned then .error (.trap 0x51 val) else .ok s
    if !k.stale then poisonCheck else
    match v.policy.toNat with
    | 1 => if k.poisoned then .error (.served die view val) else .ok (s.setView die view { v with srv := true })
    | 2 => .error (.trap 0x50 val)
    | _ =>
      let n := match t.stalls.find? (fun q => q.1 == die && q.2.1 == view && q.2.2.1 == b) with
        | some q => q.2.2.2
        | none => v.target b
      if n ≤ k.captures then poisonCheck else .error (.wait (.stall die view b n))

end Sys2Proof.Machine
end

