-- ==== Sys2Proof/Machine/Combiner.lean ====
section
/-! DEFINITION. The combiner of a die and the fan-out of token rows (18_fabric.md R417-R427). -/

namespace Sys2Proof.Machine

open Host (Outcome)

/-! ## Descriptor fields (R418) -/

/-- KEY of word 0. -/
abbrev cwKey (w0 : Word) : BitVec 16 := bits w0 16 16
/-- OP. -/
abbrev cwOp (w0 : Word) : Nat := (bits w0 32 4).toNat
/-- SEW code. -/
abbrev cwSew (w0 : Word) : Nat := (bits w0 36 3).toNat
/-- FMT. -/
abbrev cwFmt (w0 : Word) : Nat := (bits w0 39 4).toNat
/-- The home die as a package sees it. -/
def cwHome (s : State) (node : Nat) (w0 : Word) : Nat :=
  s.packageOf node (bits w0 0 8).toNat * 8 + (bits w0 8 3).toNat
/-- LEN of word 1. -/
abbrev cwLen (w1 : Word) : Nat := (bits w1 0 9).toNat
/-- CIDX. -/
abbrev cwCidx (w1 : Word) : Nat := (bits w1 32 10).toNat
/-- NCONT. -/
abbrev cwNcont (w1 : Word) : Nat := (bits w1 48 11).toNat
/-- Word 1 without CIDX. -/
abbrev cwCommon (w1 : Word) : Word := w1 &&& ~~~(0x3FF00000000#64)

/-- Whether OP, FMT and SEW form a row of R417. -/
def collFmtOk (op fmt sew : Nat) : Bool :=
  if op ≤ 3 then (fmt == 2 && (sew == 2 || sew == 3 || sew == 4)) || (fmt == 3 && sew == 2)
  else if op ≤ 6 then fmt ≤ 1 && (sew == 3 || sew == 4)
  else false

/-- The checks of R417 and R418 on words 0 and 1 of a descriptor. -/
def collWordsOk (w0 w1 : Word) : Bool :=
  (bits w0 0 8).toNat ≤ 127 && bits w0 11 5 == 0 && bits w0 43 21 == 0 && bits w1 9 7 == 0 && bits w1 42 6 == 0 && bits w1 59 5 == 0
    && collFmtOk (cwOp w0) (cwFmt w0) (cwSew w0) && 1 ≤ cwLen w1 && cwLen w1 ≤ (if cwSew w0 = 4 then 64 else 256)
    && bits w1 16 16 != 0 && 1 ≤ cwNcont w1 && cwNcont w1 ≤ 1024 && cwCidx w1 < cwNcont w1

/-! ## Results (R417, R422; 03_numbers.md R92) -/

/-- One element of the result of a slot from its contributions' bits. -/
def collElem (op fmt sew : Nat) (xs : List Nat) : Nat :=
  let w := sewBits sew
  match floatFmt fmt sew with
  | some f =>
    let vs := xs.map f.decode
    if vs.any FVal.isNan then f.nanBits else
    match op with
    | 0 => (f.deliver .rne .ieee (exactSum vs) false).1
    | 1 => xs.foldl (fun m x => if FVal.lt (f.decode m) (f.decode x) then x else m) (xs.headD 0)
    | 2 => xs.foldl (fun m x => if FVal.lt (f.decode x) (f.decode m) then x else m) (xs.headD 0)
    | _ => (xs.map f.absBits).foldl max 0
  | none =>
    let sgn := fmt == 0
    match op with
    | 4 => xs.foldl (fun m x => (m + x) % 2 ^ w) 0
    | 5 => xs.foldl (fun m x => if intVal sgn w m < intVal sgn w x then x else m) (xs.headD 0)
    | _ => xs.foldl (fun m x => if intVal sgn w x < intVal sgn w m then x else m) (xs.headD 0)

/-- The contributions' bits of element j. -/
def Combiner.column (c : Combiner) (j : Nat) : List Nat := c.arrived.map (fun k => (k.data.getD j 0).toNat)

/-- The result, element by element. -/
def Combiner.result (c : Combiner) : List Nat :=
  (List.range (cwLen c.w1)).map (fun j => collElem (cwOp c.w0) (cwFmt c.w0) (cwSew c.w0) (c.column j))

/-- NAN: a NaN was contributed to a float operation. -/
def Combiner.nan (c : Combiner) : Bool :=
  match floatFmt (cwFmt c.w0) (cwSew c.w0) with
  | some f => cwOp c.w0 ≤ 3 && c.arrived.any (fun k => k.data.any (fun x => (f.decode x.toNat).isNan))
  | none => false

/-- INV: a signalling NaN, or infinities of both signs in one element of a sum. -/
def Combiner.inv (c : Combiner) : Bool :=
  match floatFmt (cwFmt c.w0) (cwSew c.w0) with
  | some f => cwOp c.w0 ≤ 3 && (c.arrived.any (fun k => k.data.any (fun x => (f.decode x.toNat).snan))
      || (cwOp c.w0 = 0 && (List.range (cwLen c.w1)).any (fun j =>
          let vs := (c.column j).map f.decode
          vs.any (· == .inf false) && vs.any (· == .inf true))))
  | none => false

/-- The contributor indices that have not arrived. -/
def Combiner.missing (c : Combiner) : List Nat :=
  (List.range (cwNcont c.w1)).filter (fun i => !c.arrived.any (fun k => cwCidx k.w1 == i))

/-- The status word of a slot (R419), with the flags LATE, DUP and REFUSED of one contribution. -/
def Combiner.status (c : Combiner) (late dup refused : Bool) : Word :=
  BitVec.ofNat 64 (c.state.toNat + c.nan.toNat * 4 + c.inv.toNat * 8 + late.toNat * 16 + dup.toNat * 32 + refused.toNat * 64
    + c.arrived.length * 2 ^ 8 + c.disc.toNat * 2 ^ 32 + (c.missing.headD 0x7FF) * 2 ^ 48)

/-- The status word that describes no slot. -/
def statusNone (refused : Bool) : Word := BitVec.ofNat 64 (0x7FF * 2 ^ 48 + refused.toNat * 64)

/-! ## Writes of a slot -/

/-- What names the slot of a key among those whose elements can be held. -/
def combWho (w0 : Word) (asid : BitVec 12) : List Nat := [6, (bits w0 0 32).toNat, asid.toNat]

/-- The agent of a contribution's elements, which its home makes: by the home's own routes to pod memory, and in the Larder of the
contributor's cluster. -/
def Contrib.agent (c : Contrib) (die : Nat) (a : Word) : Agent :=
  ⟨c.asid, c.priv, if tagOf a = 8 then c.slot else die * 256, combWho c.w0 c.asid⟩

/-- A write on behalf of a contributor: a failure is reported to it, and the other writes go on; a held one stops. -/
def collWrite (s : State) (die : Nat) (c : Contrib) (a : Word) (n v : Nat) : Except Stop State :=
  match engineStore s (c.agent die a) n a (leBytes n v) with
  | .ok s => .ok s
  | .error (.trap cause e) => .ok ((engineStop s (c.agent die a) (.trap cause e)).report c.slot c.grp ⟨cause, c.sn, if cause = 0x60 then c.desc else e, c.pc, 0⟩)
  | .error st => .error st

/-- The status word of a contribution, where it has an address, and the completion of its element, of which the home tells its die. -/
def collDone (s : State) (die : Nat) (c : Contrib) (w : Word) : Except Stop State := do
  let s ← if c.status = 0 then pure s else collWrite s die c c.status 8 w.toNat
  let s := message s die (slotDie c.slot) 0x14 (leBytes 8 c.desc.toNat)
  return s.complete c.slot c.op 1

/-- A list of steps that each may stop. -/
def foldStop {α : Type} (f : State → α → Except Stop State) : List α → State → Except Stop State
  | [], s => .ok s
  | x :: r, s => do
    let s ← f s x
    foldStop f r s

/-- The bitmap of missing contributors in words (R422). -/
def missWords (c : Combiner) : List Nat :=
  (List.range (ceilDiv (cwNcont c.w1) 64)).map (fun i =>
    (c.missing.filter (fun j => j / 64 == i)).foldl (fun m j => m + 2 ^ (j % 64)) 0)

/-- A combiner slot of a die replaced. -/
def State.setCombiner (s : State) (die k : Nat) (c : Combiner) : State :=
  let d := s.die die
  s.setDie die { d with combiners := d.combiners.put k c }

/-- The end of a slot (R422): results, bitmaps, then status words; COMPLETE frees the slot, PARTIAL keeps it for late
contributions. -/
def endCombiner (s : State) (die k : Nat) (c : Combiner) (partially : Bool) : Except Stop State := do
  let c := { c with state := if partially then 3 else 2, asked := false }
  let w := sewBits (cwSew c.w0) / 8
  let s ← foldStop (fun s p =>
    if p.dest = 0 then .ok s else
    foldStop (fun s e => collWrite s die p (p.dest + BitVec.ofNat 64 (e.2 * w)) w e.1) (c.result.zipIdx) s) c.arrived s
  let s ← foldStop (fun s p =>
    if p.miss = 0 then .ok s else
    foldStop (fun s e => collWrite s die p (p.miss + BitVec.ofNat 64 (e.2 * 8)) 8 e.1) ((missWords c).zipIdx) s) c.arrived s
  let s ← foldStop (fun s p => collDone s die p (c.status false false false)) c.arrived s
  let s ← foldStop (fun s p => collDone s die p (c.status false true false)) c.dups s
  let d := s.die die
  let node := die / 8
  let mine (func : BitVec 3) (w1 : Word) : Bool := func == 4 && (bits w1 0 3).toNat == die % 8 && (bits w1 8 6).toNat == k
  let s := s.unpost node (fun a => mine a.func a.w1) (fun r => mine r.func r.w1)
  return dropHolds (s.setDie die { d with
    combiners := if partially then d.combiners.put k { c with dups := [] } else d.combiners.drop k
    cbPartial := if partially then satAdd d.cbPartial 1 else d.cbPartial }) (· == combWho c.w0 c.asid)

/-! ## A contribution at its home (R421) -/

/-- A refused contribution: its report, its status word, its completion. -/
def refuseContrib (s : State) (die : Nat) (c : Contrib) (reason : Nat) (w : Word) : Except Stop State := do
  let d := s.die die
  let s := s.setDie die { d with cbRefused := satAdd d.cbRefused 1 }
  let s := s.report c.slot c.grp ⟨0x61, c.sn, BitVec.ofNat 64 ((cwKey c.w0).toNat + reason * 2 ^ 16), c.pc, 0⟩
  collDone s die c w

/-- The slot of a key. -/
def combinerOf (d : Die) (asid : BitVec 12) (key : BitVec 16) : Option (Nat × Combiner) :=
  d.combiners.find? (fun p => p.2.asid == asid && cwKey p.2.w0 == key)

/-- A contribution that its slot takes: accepted, late or duplicate. -/
def intoSlot (s : State) (die k : Nat) (b : Combiner) (c : Contrib) : Except Stop State :=
  if b.w0 != c.w0 || cwCommon b.w1 != cwCommon c.w1 then refuseContrib s die c 2 (b.status false false true)
  else if b.state != 1#2 then
    let b := { b with disc := satAdd b.disc 1 }
    collDone (s.setCombiner die k b) die c (b.status true false false)
  else if b.arrived.any (fun q => cwCidx q.w1 == cwCidx c.w1) then
    .ok (s.setCombiner die k { b with disc := satAdd b.disc 1, dups := b.dups ++ [{ c with dup := true }] })
  else
    let b := { b with arrived := b.arrived ++ [c] }
    if b.arrived.length = cwNcont b.w1 then endCombiner (s.setCombiner die k b) die k b false
    else .ok (s.setCombiner die k b)

/-- A contribution acted on at its home. -/
def takeContrib (s : State) (die : Nat) (c : Contrib) : Except Stop State :=
  let d := s.die die
  match combinerOf d c.asid (cwKey c.w0) with
  | some (k, b) => intoSlot s die k b c
  | none =>
    match s.pick (freeBelow (d.combiners.map (·.1)) 64) with
    | (none, s) => refuseContrib s die c 1 (statusNone true)
    | (some k, s) => intoSlot s die k { asid := c.asid, w0 := c.w0, w1 := c.w1 } c

/-- An action of a home or an engine: its state, or, where an element is held, the state before with the page asked for. -/
def orHeld (s : State) (ag : Agent) (r : Except Stop State) : State :=
  match r with
  | .ok s' => s'
  | .error st => engineStop s ag st

/-- The agent of a slot that ends. -/
def Combiner.agent (die : Nat) (c : Combiner) : Agent := ⟨c.asid, true, die * 256, combWho c.w0 c.asid⟩

/-- CONTRIBUTION (R421): the contribution at a place of the home's list is acted on. -/
def execContribution (die idx : Nat) (s : State) : Outcome State Fault Refusal :=
  let d := s.die die
  match d.contribs[idx]? with
  | none => .next s
  | some c => .next (orHeld s (c.agent die 0)
      (takeContrib (s.setDie die { d with contribs := d.contribs.eraseIdx idx }) die c))

/-- COMBINER_TIMEOUT (R422): an open slot ends PARTIAL, or the host is asked. -/
def execCombinerTimeout (die idx : Nat) (s : State) : Outcome State Fault Refusal :=
  match (s.die die).combiners.entry idx with
  | none => .next s
  | some c =>
    if c.state != 1#2 || c.asked then .next s
    else if (s.pkg (die / 8)).split.getLsbD 4 then
      .next ((s.setCombiner die idx { c with asked := true }).post (die / 8)
        ⟨4, 0, BitVec.ofNat 64 (die % 8 + idx * 2 ^ 8 + (cwKey c.w0).toNat * 2 ^ 16 + c.asid.toNat * 2 ^ 32),
          BitVec.ofNat 64 c.arrived.length, 0⟩)
    else .next (orHeld s (c.agent die) (endCombiner s die idx c true))

/-- COLLTO_ANSWER_TIMEOUT (R422): no answer within 10 ms of posting counts as PARTIAL. -/
def execColltoAnswerTimeout (die idx : Nat) (s : State) : Outcome State Fault Refusal :=
  match (s.die die).combiners.entry idx with
  | none => .next s
  | some c => if c.asked then .next (orHeld s (c.agent die) (endCombiner s die idx c true)) else .next s

/-- A write of CBANS (R422, R430): it names a slot that waits and the tag of its request; EXTEND starts another TIMEOUT, PARTIAL
ends the slot. -/
def answerCombiner (s : State) (die k : Nat) (tag : BitVec 16) (partially : Bool) : State :=
  let node := die / 8
  let p := s.pkg node
  let mine (a : Asked) : Bool := a.func == 4 && a.tag == tag && (bits a.w1 0 3).toNat == die % 8 && (bits a.w1 8 6).toNat == k
  match (s.die die).combiners.entry k with
  | none => s
  | some c =>
    if !c.asked || !p.asked.any mine then s
    else
      let s := s.setPkg node { p with asked := p.asked.filter (fun a => !mine a) }
      if partially then orHeld s (c.agent die) (endCombiner s die k c true)
      else s.setCombiner die k { c with asked := false }

/-- CBANS_EXTEND: a write from outside. -/
def execCbansExtend (die : Nat) (idx : BitVec 6) (tag : BitVec 16) (s : State) : Outcome State Fault Refusal :=
  .next (outside s (die / 8) (answerCombiner s die idx.toNat tag false))
/-- CBANS_PARTIAL: a write from outside. -/
def execCbansPartial (die : Nat) (idx : BitVec 6) (tag : BitVec 16) (s : State) : Outcome State Fault Refusal :=
  .next (outside s (die / 8) (answerCombiner s die idx.toNat tag true))

/-- COMBINER_SLOT_FREE (R422): a PARTIAL slot is freed after a further TIMEOUT. -/
def execCombinerSlotFree (die idx : Nat) (s : State) : Outcome State Fault Refusal :=
  let d := s.die die
  match d.combiners.entry idx with
  | some c => if c.state == 3#2 then .next (s.setDie die { d with combiners := d.combiners.drop idx }) else .next s
  | none => .next s

/-! ## Token rows (R425-R427) -/

/-- A word of the inbox on behalf of the sender, with the state after; none where a check fails (reason 1). A held element stops. -/
def inboxWord (s : State) (ag : Agent) (a : Word) : Except Stop (Option Word × State) :=
  match engineReach s ag 8 1 a none with
  | .ok (key, s) => .ok (some (memWord s.mem key), s)
  | .error (.trap cause v) => .ok (none, engineStop s ag (.trap cause v))
  | .error st => .error st

/-- n words of the inbox. -/
def inboxWords (ag : Agent) : Nat → State → Word → Except Stop (List (Option Word) × State)
  | 0, s, _ => .ok ([], s)
  | n + 1, s, a => do
    let (w, s) ← inboxWord s ag a
    let (ws, s) ← inboxWords ag n s (a + 8)
    return (w :: ws, s)

/-- What a readable inbox descriptor gives, and whether it passes its checks (R426). -/
structure Inbox where
  ok : Bool
  nexp : Nat
  rowb : Nat
  cap : Nat
  rbase : Word
  drops : Word
  deriving DecidableEq, Repr

/-- The descriptor, where its words are readable; its checks are reserved bits of 0 and a ring base at the home. -/
def readInbox (s : State) (ag : Agent) (xb : Word) : Except Stop (Option Inbox × State) := do
  let (ws, s) ← inboxWords ag 8 s xb
  match ws with
  | [some w0, some w1, some w2, some w3, some w4, some w5, some w6, some w7] =>
    let ok := !(bits w0 8 8 != 0 || bits w0 36 28 != 0 || bits w0 0 8 == 0 || bits w0 16 16 == 0 || bits w1 0 12 != 0
        || bits w1 49 15 != bits xb 49 15 || w3 != 0 || w4 != 0 || w5 != 0 || w6 != 0 || w7 != 0)
    return (some ⟨ok, (bits w0 0 8).toNat, 64 * (bits w0 16 16).toNat, 2 ^ (bits w0 32 4).toNat, w1, w2⟩, s)
  | _ => return (none, s)

/-- Bytes written on behalf of the sender; nothing where a check fails. -/
def inboxWrite (s : State) (ag : Agent) (a : Word) (bs : List Byte) : Except Stop (Option State) :=
  match engineStore s ag 1 a bs with
  | .ok s => .ok (some s)
  | .error (.trap _ _) => .ok none
  | .error st => .error st

/-- Bytes written piece by piece, each within a line. -/
def inboxBytes (ag : Agent) : Nat → State → Word → List Byte → Except Stop (Option State)
  | 0, s, _, _ => .ok (some s)
  | _ + 1, s, _, [] => .ok (some s)
  | n + 1, s, a, bs => do
    let k := 128 - a.toNat % 128
    match ← inboxWrite s ag a (bs.take k) with
    | none => return none
    | some s => inboxBytes ag n s (a + BitVec.ofNat 64 k) (bs.drop k)

/-- One used slot of a row: the reason of its drop, 0 for none, and the state after (R427). -/
def fanOne (s : State) (ag : Agent) (r : TokenRow) (j : Nat) (id : BitVec 16) : Except Stop (Nat × State) := do
  let e := id.toNat
  let (inbox, s) ← readInbox s ag r.inbox
  match inbox with
  | none => return (1, s)
  | some b =>
    let drop (reason : Nat) : Except Stop (Nat × State) := do
      match ← inboxWrite s ag (r.inbox + 16) (leBytes 8 (b.drops + 1).toNat) with
      | some s => return (reason, s)
      | none => return (reason, s)
    if !b.ok then drop 1
    else if b.nexp ≤ e then drop 2
    else if b.rowb - 8 < r.row.length then drop 3
    else
      let wa := r.inbox + BitVec.ofNat 64 (64 + 16 * e)
      let (ptrs, s) ← inboxWords ag 2 s wa
      match ptrs with
      | [some wr, some rd] =>
        if b.cap ≤ (wr - rd).toNat then drop 4
        else
          let at_ := b.rbase + BitVec.ofNat 64 (e * b.cap * b.rowb + wr.toNat % b.cap * b.rowb)
          let header := leBytes 8 (r.row.length + e * 2 ^ 32 + j * 2 ^ 48)
          match ← inboxBytes ag (r.row.length + 2) s at_ (header ++ r.row) with
          | none => drop 1
          | some s =>
            match ← inboxWrite s ag wa (leBytes 8 (wr + 1).toNat) with
            | none => drop 1
            | some s => return (0, s)
      | _ => drop 1

/-- The agent of a row's elements, which its home makes. -/
def TokenRow.agent (r : TokenRow) (die : Nat) : Agent := ⟨r.asid, r.priv, die * 256, [8, r.slot, r.op]⟩

/-- The used slots of a row in ascending order. -/
def fanOut (s : State) (die : Nat) (r : TokenRow) : Except Stop State :=
  foldStop (fun s p => do
    let (reason, s) ← fanOne s (r.agent die) r p.1 p.2
    let s := if reason = 0 then s
      else s.report r.slot r.grp ⟨0x62, r.sn, BitVec.ofNat 64 (p.2.toNat + reason * 2 ^ 16), r.pc, BitVec.ofNat 32 p.1⟩
    let s := message s die (slotDie r.slot) 0x12 (leBytes 8 r.inbox.toNat)
    return s.complete r.slot r.op 1) r.ids s

/-- A row at a home fans out, once the rows that arrived at its inbox before it have (R427). -/
def fanRow (s : State) (die idx : Nat) : State :=
  let d := s.die die
  match d.rows[idx]? with
  | none => s
  | some r =>
    if (d.rows.take idx).any (fun q => q.asid == r.asid && q.inbox == r.inbox) then s
    else orHeld s (r.agent die) (fanOut (s.setDie die { d with rows := d.rows.eraseIdx idx }) die r)

/-- TOKEN_ROW_FANOUT (R427). -/
def execTokenRowFanout (die idx : Nat) (s : State) : Outcome State Fault Refusal := .next (fanRow s die idx)

end Sys2Proof.Machine
end

