-- ==== Sys2Proof/Machine/Fabric.lean ====
section
/-! DEFINITION. The fabric: route tables, planes and ports, flits and notices, buffered stores and pending elements, and requests
that end (18_fabric.md R401-R416; 06_memory_isa.md R152-R154; 07_streams.md R185, R192; 17_package_system.md R394). -/

namespace Sys2Proof.Machine

open Host (Outcome)

/-! ## Route tables (R404) -/

/-- The dies of a package. -/
def nodeDies (node : Nat) : List Nat := (List.range 8).map (· + node * 8)

/-- The check of one valid shadow entry of die d for plane q. -/
def routeOk (d q : Nat) (e : Word) : Bool :=
  !bit e 7 || (9 * d ≤ (bits e 0 7).toNat && (bits e 0 7).toNat < 9 * d + 9 && (bits e 0 7).toNat % 4 == q && bits e 8 2 != 3)

/-- RTCTL.COMMIT: the shadow tables become active in all dies, or ERR is set. -/
def commitRoutes (s : State) (node : Nat) : State :=
  let ok := (nodeDies node).all (fun k => (s.die k).shadow.all (fun e => routeOk (k % 8) (e.1 % 4) e.2))
  let p := s.pkg node
  if ok then
    let s := (nodeDies node).foldl (fun s k => s.setDie k { s.die k with active := (s.die k).shadow }) s
    s.setPkg node { s.pkg node with rtver := p.rtver + 1 }
  else s.setPkg node { p with rterr := true }

/-- ROUTE_COMMIT: a write from outside. -/
def execRouteCommit (node : Nat) (s : State) : Outcome State Fault Refusal := .next (outside s node (commitRoutes s node))

/-- The planes that are enabled and not draining and hold a valid entry of a die for a node, in the given tables. -/
def goodPlanes (active : SMap Word) (en drain : BitVec 4) (n : Nat) : Nat :=
  ((List.range 4).filter (fun q => en.getLsbD q && !drain.getLsbD q && bit (active.look 0 (4 * n + q)) 7)).length

/-- R405: whether a change would leave a node that is reachable from a die with fewer than two enabled, undrained planes that
hold a valid entry for it; the package's own node needs none. -/
def planesRefused (s : State) (node : Nat) (en drain : BitVec 4) (active : Nat → SMap Word) : Bool :=
  let p := s.pkg node
  (nodeDies node).any (fun k => p.rtnode.any (fun r =>
    r.1 != p.rtself.toNat && s.reachable k r.1 && decide (goodPlanes (active k) en drain r.1 < 2)))

/-- A write of PLANE.DRAIN (R405). -/
def writeDrain (s : State) (node : Nat) (v : BitVec 4) : State :=
  let p := s.pkg node
  if v &&& ~~~p.planeDrain != 0 && planesRefused s node p.planeEn v (fun k => (s.die k).active)
  then s.setPkg node { p with rterr := true }
  else s.setPkg node { p with planeDrain := v, planeIdle := p.planeIdle &&& v }

/-- A write of PLANE.EN (R405). -/
def writeEnable (s : State) (node : Nat) (v : BitVec 4) : State :=
  let p := s.pkg node
  if p.planeEn &&& ~~~v != 0 && planesRefused s node v p.planeDrain (fun k => (s.die k).active)
  then s.setPkg node { p with rterr := true }
  else s.setPkg node { p with planeEn := v }

/-- PLANE_DRAIN: a write from outside. -/
def execPlaneDrain (node : Nat) (bits : BitVec 4) (s : State) : Outcome State Fault Refusal := .next (outside s node (writeDrain s node bits))
/-- PLANE_ENABLE: a write from outside. -/
def execPlaneEnable (node : Nat) (bits : BitVec 4) (s : State) : Outcome State Fault Refusal := .next (outside s node (writeEnable s node bits))

/-- PLANE_IDLE (R405): a drained plane whose flits are all acknowledged sets IDLE, which is posted under SPLIT.ROUTE. -/
def execPlaneIdle (node : Nat) (plane : BitVec 2) (s : State) : Outcome State Fault Refusal :=
  let p := s.pkg node
  let q := plane.toNat
  let busy := (nodeDies node).any (fun k => (s.die k).links.any (fun l => l.2.sent.any (fun f => f.port.isSome && f.plane.toNat == q)))
  if p.planeDrain.getLsbD q && !p.planeIdle.getLsbD q && !busy then
    let s := s.setPkg node { p with planeIdle := p.planeIdle ||| (1 <<< q) }
    .next (if p.split.getLsbD 1 then s.post node ⟨1, 1, BitVec.ofNat 64 q, 1, 0⟩ else s)
  else .next s

/-! ## Ports (17_package_system.md R394) -/

/-- The shadow entries of a package that name a port and are valid. -/
def entriesOf (s : State) (node port : Nat) : List (Nat × Nat) :=
  (nodeDies node).flatMap (fun k => ((s.die k).shadow.filter (fun e => bit e.2 7 && (bits e.2 0 7).toNat == port)).map
    (fun e => (k, e.1)))

/-- V of shadow entries set or cleared. -/
def setValid (s : State) (es : List (Nat × Nat)) (v : Bool) : State :=
  es.foldl (fun s e =>
    let d := s.die e.1
    let w := d.shadow.look 0 e.2
    s.setDie e.1 { d with shadow := d.shadow.put e.2 (if v then w ||| 0x80 else w &&& ~~~(0x80#64)) }) s

/-- In hardware mode, a port that goes DOWN loses its entries, unless R405 would refuse the change. -/
def portDown (s : State) (node port : Nat) : State :=
  let es := entriesOf s node port
  let s' := setValid s es false
  let p := s.pkg node
  if planesRefused s node p.planeEn p.planeDrain (fun k => (s'.die k).shadow) then s.setPkg node { p with rterr := true }
  else commitRoutes (s'.setPkg node { p with cleared := p.cleared ++ es }) node

/-- A port that is UP again gets its entries back. -/
def portUp (s : State) (node port : Nat) : State :=
  let p := s.pkg node
  let mine (e : Nat × Nat) : Bool := (bits ((s.die e.1).shadow.look 0 e.2) 0 7).toNat == port
  let es := p.cleared.filter mine
  if es.isEmpty then s else
  commitRoutes (setValid (s.setPkg node { p with cleared := p.cleared.filter (fun e => !mine e) }) es true) node

/-- PORT_STATE_CHANGE (R394 FUNC 1). -/
def execPortStateChange (node port : Nat) (st : BitVec 2) (s : State) : Outcome State Fault Refusal :=
  let p := s.pkg node
  let q := p.ports.look {} port
  if q.state == st then .next s else
  let s := s.setPort node port { q with state := st }
  if p.split.getLsbD 1 then .next (s.post node ⟨1, 0, BitVec.ofNat 64 port, st.zeroExtend 64, 0⟩)
  else if st = 0 then .next (portDown s node port)
  else if st = 2 then .next (portUp s node port)
  else .next s

/-! ## Flits (R406-R408) -/

/-- FLIT_RECEIVE. -/
def execFlitReceive (die : Nat) (flit : Flit) (crcOk : Bool) (s : State) : Outcome State Fault Refusal :=
  .next (receiveFlit s die flit crcOk)

/-- REPLAY_REQUEST (R407, R408): a gap at the receiver in the bulk flits of a die, or else in its control flits, is counted at the port of the
early flit, and the first missing number is asked for; the sender's REPLAY answers. -/
def execReplayRequest (die src : Nat) (s : State) : Outcome State Fault Refusal :=
  let node := die / 8
  let ctl := (s.link die (linkKey src false)).early.isEmpty
  let l := s.link die (linkKey src ctl)
  match l.early with
  | [] => .next s
  | f :: _ =>
    let s := match f.port with
      | none => s
      | some k => let q := (s.pkg node).ports.look {} k; s.setPort node k { q with replay := satAdd q.replay 1 }
    .next (sendControl s die src 0x15 (leBytes 4 l.nextRx.toNat ++ [BitVec.ofNat 8 ctl.toNat]))

/-- REPLAY (R407, R408): of the control flits where the receiver has its gap at the number in them, and else of the bulk flits. -/
def execReplay (die dst : Nat) (seq : BitVec 32) (s : State) : Outcome State Fault Refusal :=
  let gap (ctl : Bool) : Bool := let l := s.link dst (linkKey die ctl); l.nextRx == seq && !l.early.isEmpty
  .next (resend s die dst (gap true && !gap false) seq)

/-! ## Transfers and notices (R410) -/

/-- The effect of a notice: what its transfer carries reaches the place where it is acted on. -/
def noticeEffect (s : State) (die : Nat) (w : Transfer) : State :=
  let d := s.die die
  match w with
  | .line l => s.setDie die { d with lineWrites := d.lineWrites ++ [l] }
  | .contribution c => s.setDie die { d with contribs := d.contribs ++ [c] }
  | .row r => s.setDie die { d with rows := d.rows ++ [r] }
  | .data slot op idx =>
    let t := s.thread slot
    match t.pend.findIdx? (fun p => p.got.isSome && p.op == op && p.idx == idx) with
    | none => s
    | some i => match t.pend[i]? with
      | some p => (match p.got with
        | some (v, bad) => arrivePend (s.setThread slot { t with pend := t.pend.eraseIdx i }) slot p v bad
        | none => s)
      | none => s
  | .chunk job _ count => match job.slot with
    | some k => s.complete k job.op count
    | none => s

/-- A notice takes its effect once it has arrived and every bulk flit of its source up to its number has been delivered. -/
def takeNotice (s : State) (die idx : Nat) : State :=
  let d := s.die die
  match d.notices[idx]? with
  | none => s
  | some n => if n.due s die then noticeEffect (s.setDie die { d with notices := d.notices.eraseIdx idx }) die n.what else s

/-- NOTICE (R410). -/
def execNotice (die idx : Nat) (s : State) : Outcome State Fault Refusal := .next (takeNotice s die idx)

/-- A transfer whose home its die does not reach waits there (R414). -/
def waitSent (s : State) (die : Nat) (w : Transfer) : State :=
  let d := s.die die
  s.setDie die { d with unsent := d.unsent ++ [w] }

/-- A contribution on its way to its home (R421). -/
def sendContrib (s : State) (c : Contrib) : State :=
  let src := slotDie c.slot
  let home := cwHome s (src / 8) c.w0
  if !s.reachable src (bits c.w0 0 8).toNat then waitSent s src (.contribution c)
  else if src = home then let d := s.die home; s.setDie home { d with contribs := d.contribs ++ [c] }
  else startTransfer s src home 3
    (dataFlits (BitVec.ofNat 64 c.op) (c.data.flatMap (fun v => leBytes (sewBits (cwSew c.w0) / 8) v.toNat))) (.contribution c)

/-- A token row on its way to its inbox's home (R425). -/
def sendRow (s : State) (r : TokenRow) : State :=
  let src := slotDie r.slot
  let home := s.homeOf (src / 8) r.inbox
  if !s.reachable src (nodeOf r.inbox) then waitSent s src (.row r)
  else if src = home then let d := s.die home; s.setDie home { d with rows := d.rows ++ [r] }
  else startTransfer s src home 3 (dataFlits (BitVec.ofNat 64 r.op) r.row) (.row r)

/-- What waits at a die for its home is sent again: it goes, or waits on (R414). -/
def sendUnsent (s : State) (die : Nat) : State :=
  let d := s.die die
  d.unsent.foldl (fun s w => match w with
    | .contribution c => sendContrib s c
    | .row r => sendRow s r
    | _ => s) (s.setDie die { d with unsent := [] })

/-! ## Buffered stores (R412, R413) -/

/-- WRITE_BUFFER_SEND: an entry of a core's write buffer is sent as one line write; one whose home is not reachable waits (R414). -/
def execWriteBufferSend (core idx : Nat) (s : State) : Outcome State Fault Refusal :=
  match (s.core core).wbuf[idx]? with
  | none => .next s
  | some w => .next (sendWhere s core (· == w))

/-- LINE_WRITE: the home applies a line write that has arrived, in the order of arrival at its line, unless an engine owns the line
(R413; 07 R191). -/
def execLineWrite (die idx : Nat) (s : State) : Outcome State Fault Refusal :=
  let d := s.die die
  match d.lineWrites[idx]? with
  | none => .next s
  | some w =>
    match d.lineWrites.find? (fun q => keyLine q.key == keyLine w.key) with
    | some q => if s.lineFree q.key then .next (applyLine (s.setDie die { d with lineWrites := d.lineWrites.erase q }) q) else .next s
    | none => .next s

/-- MERGE_AGE_EXPIRY (07 R192): an entry of a combining buffer merges 2 µs after its first contribution, or when its line
is free again. -/
def execMergeAgeExpiry (core idx : Nat) (s : State) : Outcome State Fault Refusal :=
  let c := s.core core
  match c.comb[idx]? with
  | none => .next s
  | some e => if c.dead || !s.combFree e then .next s else .next (mergeComb (s.setCore core { c with comb := c.comb.eraseIdx idx }) e)

/-! ## Pending elements (06 R152-R154) -/

/-- ELEMENT_COMPLETE (R153): an element of a non-blocking operation performs, behind the thread's earlier ones to its line (13 R301). -/
def execElementComplete (slot idx : Nat) (s : State) : Outcome State Fault Refusal :=
  match (s.thread slot).pend[idx]? with
  | none => .next s
  | some p => .next (performWhere s slot (· == p))

/-- RETURNED_VALUE (R154): the value of an element that returns one is written. -/
def execReturnedValue (slot idx : Nat) (s : State) : Outcome State Fault Refusal :=
  match (s.thread slot).pend[idx]? with
  | none => .next s
  | some p => if p.returns then execElementComplete slot idx s else .next s

/-- CHECK_REQUEST (R152): a home checks an element of a slot's thread and holds or discards its data; a missing page under fault
service is asked for. -/
def execCheckRequest (slot : Nat) (addr : BitVec 64) (size : Nat) (wr : Bool) (_data : BitVec 64) (s : State) :
    Outcome State Fault Refusal :=
  match checkAccess s (s.agentOf slot) wr size size 0 addr with
  | .error (.wait (.service home img)) => .next (requestPage s home img)
  | _ => .next s

/-- STREAM_EXHAUSTION_END (07 R185): a thread held by an exhausted stream goes on once an operation of it has completed. -/
def execStreamExhaustionEnd (slot : Nat) (sn : BitVec 3) (s : State) : Outcome State Fault Refusal :=
  let t := s.thread slot
  if t.wait == some (.exhausted sn) && t.oc sn < 256 then .next (s.setThread slot { t with stalled := false }) else .next s

/-! ## Requests that end (R414, R415) -/

/-- The slot whose request a transfer is. -/
def Transfer.slot? (w : Transfer) : Option Nat :=
  match w with
  | .line w => some w.slot
  | .contribution c => some c.slot
  | .row r => some r.slot
  | .data slot _ _ => some slot
  | .chunk job _ _ => job.slot

/-- A transfer whose answer has not come ends: its elements count complete, and each failure is reported. -/
def endTransfer (s : State) (w : Transfer) : State :=
  match w with
  | .line w => endLine s w
  | .contribution c => (s.report c.slot c.grp ⟨0x60, c.sn, c.desc, c.pc, 0⟩).complete c.slot c.op 1
  | .row r => r.ids.foldl (fun s p => (s.report r.slot r.grp ⟨0x60, r.sn, r.inbox, r.pc, BitVec.ofNat 32 p.1⟩).complete r.slot r.op 1) s
  | .data slot op idx =>
    let t := s.thread slot
    match t.pend.find? (fun p => p.got.isSome && p.op == op && p.idx == idx) with
    | some p => endPend (s.setThread slot { t with pend := t.pend.erase p }) slot p
    | none => s
  | .chunk job first count => match job.slot with
    | some k => (List.range count).foldl (fun s j =>
        s.report k job.grp ⟨0x60, job.sn, job.dst + BitVec.ofNat 64 (16 * (first + j)), job.pc, BitVec.ofNat 32 (first + j)⟩)
        (s.complete k job.op count)
    | none => s

/-- A combining-buffer entry whose home is not reached ends: each of its contributions is reported. -/
def endComb (s : State) (e : Comb) : State :=
  e.vals.foldl (fun s v => v.parts.foldl (fun s q =>
    s.report e.slot (s.thread e.slot).grp ⟨0x60, e.sn, e.line + BitVec.ofNat 64 v.off, q.1, BitVec.ofNat 32 q.2⟩) s) s

/-- The requests of a slot that have stayed unanswered for FABTO end: those whose home its die does not reach, and those whose transfer has
not arrived (R414). -/
def endTransfers (s : State) (slot : Nat) : State :=
  let t := s.thread slot
  let lost (p : Pend) : Bool := p.got.isNone && keyUnreachable s slot p.key
  let s := (t.pend.filter lost).foldl (fun s p => endPend s slot p) (s.setThread slot { t with pend := t.pend.filter (fun p => !lost p) })
  let s := (s.coresOf slot).foldl (fun s c =>
    let k := s.core c
    let gone (w : LineWr) : Bool := w.slot == slot && keyUnreachable s slot w.key
    (k.wbuf.filter gone).foldl endLine (s.setCore c { k with wbuf := k.wbuf.filter (fun w => !gone w) })) s
  let s := (s.coresOf slot).foldl (fun s c =>
    let k := s.core c
    let gone (e : Comb) : Bool := e.slot == slot && keyUnreachable s slot e.key
    (k.comb.filter gone).foldl endComb (s.setCore c { k with comb := k.comb.filter (fun e => !gone e) })) s
  let here := s.die (slotDie slot)
  let mine (w : Transfer) : Bool := w.slot? == some slot
  let s := if !here.unsent.any mine then s else
    (here.unsent.filter mine).foldl endTransfer (s.setDie (slotDie slot) { here with unsent := here.unsent.filter (fun w => !mine w) })
  s.dies.foldl (fun s p =>
    let d := s.die p.1
    let mine (n : NoticeRec) : Bool := n.what.slot? == some slot
    if !d.notices.any mine then s else
    (d.notices.filter mine).foldl (fun s n => endTransfer s n.what) (s.setDie p.1 { d with notices := d.notices.filter (fun n => !mine n) })) s

/-- The engines' requests of a die that have waited for a node for FABTO fail when they are tried again (R414). -/
def loseHolds (s : State) (die : Nat) : State :=
  let d := s.die die
  if d.lost.all (·.failed) then s else s.setDie die { d with lost := d.lost.map (fun h => { h with failed := true }) }

/-- DORMER_DEAD (R415): a Dormer whose home has been unreachable for FABTO; its lines are dropped. -/
def execDormerDead (die idx : Nat) (s : State) : Outcome State Fault Refusal :=
  let d := s.die die
  match d.dormers.find? (fun e => e.didx == idx) with
  | none => .next s
  | some e =>
    if s.reachable die (nodeOf e.base) then .next s
    else .next ((dropDormerLines s die e).setDie die { d with dormers := d.dormers.map (fun q => if q.didx == idx then { q with dead := true } else q) })

/-- REGISTRATION_RELEASE (R415): a registration whose reader has been unreachable for 2 FABTO. -/
def execRegistrationRelease (die idx : Nat) (s : State) : Outcome State Fault Refusal :=
  let d := s.die die
  match d.registry[idx]? with
  | none => .next s
  | some r =>
    if s.reachesDie die r.reader then .next s
    else .next (s.setDie die { d with registry := d.registry.eraseIdx idx })

end Sys2Proof.Machine
end

