-- ==== Sys2Proof/Machine/HostLink.lean ====
section
/-! DEFINITION. The package's host link, partitions, energy, light, boot, Strongroom and attestation (17_package_system.md
R385-R400). -/

namespace Sys2Proof.Machine

open Host (Outcome)

/-- A word with fields (value, lowest bit). -/
def fields (fs : List (Nat × Nat)) : Word := BitVec.ofNat 64 (fs.foldl (fun n f => n + f.1 * 2 ^ f.2) 0)

/-! ## Partitions and ASIDs (R386, R387) -/

/-- A partition of a package. -/
abbrev Package.part (p : Package) (k : Nat) : Partition := p.parts.look {} k

/-- The partition replaced. -/
def State.setPart (s : State) (node k : Nat) (q : Partition) : State :=
  let p := s.pkg node
  s.setPkg node { p with parts := p.parts.put k q }

/-- Whether a slot of a cluster of the package is not FREE (CLPART.BUSY). -/
def clusterBusy (s : State) (node c : Nat) : Bool :=
  s.slots.any (fun k => slotCluster k == node * 128 + c && (s.thread k).slot != .free)

/-- CLPART of a cluster as it reads (R387). -/
def clpartWord (s : State) (node c : Nat) : Word :=
  fields [(((s.pkg node).clpart.look 0 c).toNat, 0), ((clusterBusy s node c).toNat, 6)]

/-- A bit of SYSERR set: 0 MAPBUSY, 1 BUDOVER. -/
def setSysErr (s : State) (node b : Nat) : State :=
  let p := s.pkg node
  s.setPkg node { p with syserr := p.syserr ||| (1 <<< b) }

/-- A write of CLPART (R387). -/
def writeClpart (s : State) (node c : Nat) (v : Word) : State :=
  if clusterBusy s node c then setSysErr s node 0
  else let p := s.pkg node; s.setPkg node { p with clpart := p.clpart.put c (bits v 0 6) }

/-- A write of ASIDMAP (R387). -/
def writeAsidmap (s : State) (node a : Nat) (v : Word) : State :=
  let p := s.pkg node
  if p.runs.any (fun r => r.2.asid.toNat == a) || p.saved.any (fun c => c.asid.toNat == a) then setSysErr s node 0
  else s.setPkg node { p with asidmap := p.asidmap.put a (bits v 0 6) }

/-- CLPART_WRITE: a write from outside. -/
def execClpartWrite (node idx : Nat) (v : BitVec 64) (s : State) : Outcome State Fault Refusal := .next (outside s node (writeClpart s node idx v))
/-- ASIDMAP_WRITE: a write from outside. -/
def execAsidmapWrite (node idx : Nat) (v : BitVec 64) (s : State) : Outcome State Fault Refusal :=
  .next (outside s node (writeAsidmap s node idx v))

/-- The partition of an ASID, while it is live. -/
def Package.partOf (p : Package) (asid : BitVec 12) : Option Nat :=
  let m := p.asidmap.look 0 asid.toNat
  if m.getLsbD 5 then some (bits m 0 5).toNat else none

/-- The clusters of a partition, in ascending order. -/
def Package.clusters (p : Package) (part : Nat) : List Nat :=
  (p.clpart.filter (fun c => c.2.getLsbD 5 && (bits c.2 0 5).toNat == part && !p.withdrawn.contains (c.1 / 16))).map (·.1)

/-- The cores of a partition, by key. -/
def partCores (p : Package) (node part : Nat) : List Nat :=
  (p.clusters part).flatMap (fun c => (List.range 4).map (fun i => (node * 128 + c) * 4 + i))

/-! ## Energy (R390-R392) -/

/-- A write of PBUD (R390, R391): ignored, with BUDOVER, when the budgets would exceed the package's. -/
def writePbud (s : State) (node k : Nat) (v : Word) : State :=
  let p := s.pkg node
  let others := p.parts.foldl (fun n q => if q.1 = k then n else n + q.2.budget.toNat) 0
  if p.pkgbud.toNat < others + (bits v 0 32).toNat then setSysErr s node 1
  else
    let nmax := if (bits v 32 8).toNat < 2 then 2 else bits v 32 8
    s.setPart node k { p.part k with budget := bits v 0 32, nmax := nmax }

/-- PBUD_WRITE: a write from outside. -/
def execPbudWrite (node idx : Nat) (v : BitVec 64) (s : State) : Outcome State Fault Refusal := .next (outside s node (writePbud s node idx v))

/-- A partition at the start of a period (R391, R392), in 1/1,024 uJ: the written budget takes effect, less what the period
before exceeded its limit by; what exceeds the budget is carried again. -/
def Partition.nextPeriod (q : Partition) : Partition :=
  let excess := q.used.toNat - q.limit
  let rest := q.carry - q.inBudget.toNat * 1024
  let carry := if q.inBudget = 0 then 0 else excess + rest
  { q with
    inBudget := q.budget, inNmax := q.nmax, carry := carry, limit := q.budget.toNat * 1024 - carry, charged := 0, used := 0,
    n := if q.used.toNat ≤ q.limit then 1 else q.n, tick := 0 }

/-- BUDGET_PERIOD_START: new budgets; contexts held for the period are candidates again (16 R371); deferred reclaims are due
(R395). What the base die, unassigned clusters and light have used is charged to the package: a free value (R390, R395; log 5). -/
def startPeriod (s : State) (node : Nat) : State :=
  let (w, s) := s.fresh
  let p := s.pkg node
  s.setPkg node { p with
    period := p.period + 1
    energy := p.energy + w
    parts := p.parts.map (fun q => (q.1, q.2.nextPeriod))
    saved := p.saved.map (fun c => { c with untilPeriod := false })
    ports := p.ports.map (fun q => (q.1, { q.2 with deferred := false, reclaimed := none })) }

/-- BUDGET_PERIOD_START (R391). -/
def execBudgetPeriodStart (node : Nat) (s : State) : Outcome State Fault Refusal := .next (startPeriod s node)

/-- N at a tick (R392). -/
def Partition.tickN (q : Partition) : BitVec 8 :=
  let u := q.used.toNat
  if q.inBudget = 0 then 1
  else if q.limit ≤ u then q.inNmax
  else if q.limit * q.tick < u * 50 then BitVec.ofNat 8 (min (2 * q.n.toNat) q.inNmax.toNat)
  else if u * 500 < 9 * q.limit * q.tick then BitVec.ofNat 8 (max (q.n.toNat / 2) 1)
  else q.n

/-- A tick of 20 us of a partition that used an amount in it: GATE of its cores is written, or the figures are posted. -/
def budgetTick (s : State) (node part used : Nat) : State :=
  let p := s.pkg node
  let q := { p.part part with used := (p.part part).used + BitVec.ofNat 64 used, tick := min 50 ((p.part part).tick + 1) }
  let s := s.setPkg node { p with energy := p.energy + BitVec.ofNat 64 used }
  if p.split.getLsbD 7 then
    (s.setPart node part q).post node ⟨7, 0, BitVec.ofNat 64 (part + q.tick * 2 ^ 8), q.used, BitVec.ofNat 64 q.limit⟩
  else
    let q := { q with n := q.tickN }
    (partCores p node part).foldl (fun s k => s.setCore k { s.core k with gate := q.n }) (s.setPart node part q)

/-- BUDGET_TICK (R392). -/
def execBudgetTick (node part used : Nat) (s : State) : Outcome State Fault Refusal := .next (budgetTick s node part used)

/-! ## Light (R395) -/

/-- LIGHT_RECLAIM: the power manager reclaims a port's power, unless the error monitor wins or the reclaim is deferred. -/
def execLightReclaim (node port : Nat) (berHigh : Bool) (s : State) : Outcome State Fault Refusal :=
  let p := s.pkg node
  let q := p.ports.look {} port
  if q.deferred then .next s
  else if q.request && berHigh then
    .next ((s.setPkg node { p with light := satAdd p.light 1 }).setPort node port
      { q with low := false, request := false, deferred := true })
  else .next (s.setPort node port { q with low := true, reclaimed := some berHigh })

/-- ERROR_MONITOR_REQUEST: a port's monitor asks for more power. It wins against a reclaim of the same period at a high error ratio. -/
def execErrorMonitorRequest (node port : Nat) (s : State) : Outcome State Fault Refusal :=
  let p := s.pkg node
  let q := p.ports.look {} port
  if q.reclaimed == some true then
    .next ((s.setPkg node { p with light := satAdd p.light 1 }).setPort node port
      { q with low := false, request := false, deferred := true, reclaimed := none })
  else .next (s.setPort node port { q with request := true })

/-! ## The host's answers (R394) -/

/-- The host's answer to the k-th extraction that is posted: the rings that it names, as they stood when it was posted, are copied, and
nothing where the host could not do the work. -/
def takeOffer (s : State) (node : Nat) (asked : List Asked) (a : Asked) (fail : Bool) : State :=
  let p := s.pkg node
  let k := asked.findIdx (· == a)
  let copied := (p.offered.getD k []).foldl (fun (m : SMap (List Event)) r => if bit a.w1 r.1 then m.put r.1 r.2 else m) p.bbox
  s.setPkg node { p with offered := p.offered.eraseIdx k, bbox := if fail then p.bbox else copied }

/-- A write of HANS: an answer that matches a posted request of routing, views, relayout or extraction ends it. -/
def writeHans (s : State) (node : Nat) (v : Word) : State :=
  let p := s.pkg node
  let func := bits v 0 3
  match p.asked.find? (fun a => a.func == func && a.tag == bits v 16 16) with
  | none => s
  | some a =>
    let done := s.setPkg node { p with asked := p.asked.filter (fun b => !(b.func == func && b.tag == a.tag)) }
    match func.toNat with
    | 1 => done
    | 2 => answerView done node a.w1 (bit v 32)
    | 3 => answerRelay done node a.tag a.w1 (bit v 32)
    | 6 => takeOffer done node (p.asked.filter (·.func == 6)) a (bit v 32)
    | _ => s

/-- HANS: a write from outside. -/
def execHans (node : Nat) (v : BitVec 64) (s : State) : Outcome State Fault Refusal := .next (outside s node (writeHans s node v))

/-- A write of HRCTL: LOGN and RD, and the requests that wait are posted as far as the ring takes them. -/
def writeHrctl (s : State) (node : Nat) (v : Word) : State :=
  let p := { s.pkg node with logn := bits v 0 4, hrrd := bits v 32 16 }
  s.setPkg node (p.flushPosts p.posts)

/-- HRCTL_WRITE: a write from outside. -/
def execHrctlWrite (node : Nat) (v : BitVec 64) (s : State) : Outcome State Fault Refusal := .next (outside s node (writeHrctl s node v))

/-- SPLIT.PEND (R393): the functions with requests in the mode that they are leaving. -/
def splitPend (s : State) (node : Nat) : Nat :=
  let p := s.pkg node
  let hostBusy (f : Nat) : Bool := p.asked.any (fun a => a.func.toNat == f) || p.posts.any (fun a => a.func.toNat == f)
  let dies := (nodeDies node).map s.die
  let hardBusy (f : Nat) : Bool := match f with
    | 0 => dies.any (fun d => d.fsreqs.any (fun r => !r.host))
    | 2 => dies.any (fun d => d.views.any (fun v => v.2.blocks.any (fun b => b.capturing && b.host.isNone)))
    | 3 => dies.any (fun d => d.relays.any (fun r => (r.2.tiles.zipIdx).any (fun t =>
        t.1 == .converting && !r.2.host.any (fun h => h.1 == t.2))))
    | _ => false
  (List.range 8).foldl (fun n f => n + (if (if p.split.getLsbD f then hardBusy f else hostBusy f) then 2 ^ f else 0)) 0

/-- SPLIT as it reads (R393). -/
def splitWord (s : State) (node : Nat) : Word := fields [((s.pkg node).split.toNat, 0), (splitPend s node, 8)]

/-! ## Boot (R396) -/

/-- Whether a step is mandatory. -/
def bootMandatory (n : Nat) : Bool := n ≤ 7 || n == 24 || n == 25 || n == 31

/-- The replacement action of an optional step. Which ports of a die have failed their step is a free value (log 5); none of those of a
step that has not run is up. -/
def bootReplace (s : State) (node n : Nat) (run : Bool) : State :=
  let p := s.pkg node
  if 8 ≤ n && n ≤ 15 then s.setPkg node { p with withdrawn := p.withdrawn ++ [n - 8] }
  else if 16 ≤ n && n ≤ 23 then
    let (w, s) := if run then s.fresh else (0x1FF, s)
    ((List.range 9).filter (bit w)).foldl (fun s i =>
      let q := (s.pkg node).ports.look {} (9 * (n - 16) + i)
      s.setPort node (9 * (n - 16) + i) { q with state := 0 }) s
  else s.setPkg node { p with modulesOff := p.modulesOff ++ [n] }

/-- What a step that passes does beyond its record: step 24 empties the route machinery (18_fabric.md R401), step 31 hands off
to the Distributor and extracts the Strongroom (R399). -/
def bootEffect (s : State) (node n : Nat) : State :=
  let p := s.pkg node
  if n = 24 then
    let s := s.setPkg node { p with rtself := 0, rtnode := [] }
    commitRoutes ((nodeDies node).foldl (fun s k => s.setDie k { s.die k with shadow := [] }) s) node
  else if n = 31 then extractRings s node
  else s

/-- The record of a step replaced, and whether boot goes on behind it. -/
def setBootRec (s : State) (node n : Nat) (r : BootRec) (go : Bool) : State :=
  let p := s.pkg node
  s.setPkg node { p with bootrec := vwrite p.bootrec n r, bootStep := if go then n + 1 else n, bootWait := false }

/-- n bytes of a package's firmware image from an offset (R397). -/
def imageBytesAt (node off n : Nat) : List Byte := (List.range n).map (fun i => Config.image node (off + i))

/-- LEN of the image: the bytes of its body. -/
def imageLen (node : Nat) : Nat := leNat (imageBytesAt node 8 8)

/-- D: the digest of the image's header and body. -/
def imageDigest (node : Nat) : List Byte := sha384 (imageBytesAt node 0 (0x100 + imageLen node))

/-- The failure code that the image gives a boot step, 0 where it gives none (R397). A LEN that is no multiple of 4,096 fails with the
header (log 108). -/
def imageCode (node n : Nat) : BitVec 8 :=
  let len := imageLen node
  match n with
  | 1 =>
    if leNat (imageBytesAt node 0 4) != 0x4D494B53 || leNat (imageBytesAt node 4 4) != 1 || len % 4096 != 0
        || (imageBytesAt node 0x10 8 ++ imageBytesAt node 0x79 7 ++ imageBytesAt node 0xBC 68).any (· != 0)
        || Config.imageStore node < 0x160 + len + 3284 then 1 else 0
  | 2 =>
    let key := imageBytesAt node 0x18 97
    if beNat (sha384 key) != (Config.fusedEc node).toNat then 2
    else if ecdsaVerifies key (imageBytesAt node (0x100 + len) 96) (imageDigest node) then 0 else 1
  | 3 =>
    let key := imageBytesAt node 0x80 60
    if beNat (sha384 key) != (Config.fusedHss node).toNat then 2
    else if hssVerifies key (imageBytesAt node (0x160 + len) 3284) (imageDigest node) then 0 else 1
  | _ => 0

/-- One attempt of the step that boot is at: it passes where its hardware and the image do. -/
def bootStep (s : State) (node : Nat) (pass : Bool) (code : BitVec 8) : State :=
  let p := s.pkg node
  let n := p.bootStep
  if 32 ≤ n || p.rescue || p.bootWait then s else
  let bad := imageCode node n
  let pass := pass && bad == 0
  let code := if bad == 0 then code else bad
  let r := vread p.bootrec n
  if !bootMandatory n && r.skipNext && r.tries = 0 then
    bootReplace (setBootRec s node n { r with result := 3 } true) node n false
  else
    let tries := satAdd r.tries 1
    if pass then bootEffect (setBootRec s node n { r with result := 1, tries := tries, code := 0, skipNext := false } true) node n
    else
      let s := s.record node 8 (eventWord 0 3 0 0 0 0) (BitVec.ofNat 64 n) (code.zeroExtend 64)
      let r := { r with result := 2, tries := tries, code := code, skipNext := !bootMandatory n }
      let asks := p.split.getLsbD 5
      let s := if asks then s.post node ⟨5, 0, BitVec.ofNat 64 (n + code.toNat * 2 ^ 8 + tries.toNat * 2 ^ 16), 0, 0⟩ else s
      if bootMandatory n && 3 < tries.toNat then
        let s := setBootRec s node n r false
        s.setPkg node { s.pkg node with rescue := true }
      else if asks then
        let s := setBootRec s node n r false
        s.setPkg node { s.pkg node with bootWait := true }
      else if bootMandatory n then setBootRec s node n r false
      else bootReplace (setBootRec s node n r true) node n true

/-- BOOT_STEP. -/
def execBootStep (node : Nat) (pass : Bool) (code : BitVec 8) (s : State) : Outcome State Fault Refusal :=
  .next (bootStep s node pass code)

/-- The answer to a failed step that waits for the host (R396): retry it, or force an optional one to REPL. -/
def answerBoot (s : State) (node : Nat) (step : BitVec 5) (skip : Bool) : State :=
  let p := s.pkg node
  let n := step.toNat
  if !p.bootWait || n != p.bootStep then s
  else
    let s := (s.setPkg node { p with bootWait := false }).unpost node (fun a => a.func == 5) (fun r => r.func == 5)
    if !skip then s
    else if bootMandatory n then s.setPkg node p
    else bootReplace (setBootRec s node n { vread p.bootrec n with result := 3 } true) node n true

/-- BOOTCTL_GO: a write from outside. -/
def execBootctlGo (node : Nat) (step : BitVec 5) (s : State) : Outcome State Fault Refusal := .next (answerBoot s node step false)
/-- BOOTCTL_SKIP: a write from outside. -/
def execBootctlSkip (node : Nat) (step : BitVec 5) (s : State) : Outcome State Fault Refusal := .next (answerBoot s node step true)

/-- A package after a reset (R396, R398): its reset values, with the retention rings, companion memory and the steps to skip. -/
def Package.afterReset (p : Package) : Package :=
  { rings := p.rings, bbox := p.bbox, companion := p.companion, standby := p.standby, period := 0
    bootrec := p.bootrec.map (fun r => { skipNext := r.skipNext }) }

/-- RESET: the package's threads, cores, clusters and dies return to their reset values and boot starts again. -/
def execReset (node : Nat) (s : State) : Outcome State Fault Refusal :=
  .next { s with
    th := if slotNode s.cur = node then {} else s.th
    parked := s.parked.filter (fun p => slotNode p.1 != node)
    ahead := s.ahead.filter (fun k => slotNode k != node)
    cores := s.cores.filter (fun p => p.1 / 512 != node)
    clusters := s.clusters.filter (fun p => p.1 / 128 != node)
    dies := s.dies.filter (fun p => p.1 / 8 != node)
    pkgs := s.pkgs.put node (s.pkg node).afterReset }

/-- STANDBY_POWER_LOSS (R398): the rings are lost. -/
def execStandbyPowerLoss (node : Nat) (s : State) : Outcome State Fault Refusal :=
  .next (s.setPkg node { s.pkg node with rings := [], standby := false })

/-- STANDBY_POWER_ON (R398): retention starts with the rings empty. -/
def execStandbyPowerOn (node : Nat) (s : State) : Outcome State Fault Refusal :=
  let p := s.pkg node
  .next (if p.standby then s else s.setPkg node { p with rings := [], standby := true })

/-! ## The Strongroom and attestation (R399, R400) -/

/-- A write of SRSEL: the selection, and SRDATA starts at word 0. -/
def writeSrsel (s : State) (node : Nat) (v : Word) : State :=
  s.setPkg node { s.pkg node with srsel := bits v 0 16, srread := 0, srpos := (bits v 0 12).toNat }

/-- SRSEL_WRITE: a write from outside. -/
def execSrselWrite (node : Nat) (v : BitVec 64) (s : State) : Outcome State Fault Refusal := .next (writeSrsel s node v)

/-- The ring that SRSEL selects; rings 9 to 15 read as empty. -/
def Package.ring (p : Package) : List Event :=
  if (bits p.srsel 12 4).toNat ≤ 8 then p.rings.look [] (bits p.srsel 12 4).toNat else []

/-- A read of SRDATA: the next word of the selected event, 0 where there is none. -/
def readSrdata (s : State) (node : Nat) : Word × State :=
  let p := s.pkg node
  let w := match p.ring[p.srpos]? with
    | none => 0
    | some e => match p.srread.toNat with
      | 0 => e.time
      | 1 => e.w1
      | 2 => e.w2
      | _ => e.w3
  (w, s.setPkg node { p with srread := p.srread + 1 })

/-- SRDATA_READ: a read from outside. -/
def execSrdataRead (node : Nat) (s : State) : Outcome State Fault Refusal := .next (readSrdata s node).2

/-- SRSEL as it reads. -/
def readSrsel (p : Package) : Word :=
  let n := p.ring.length
  BitVec.ofNat 64 (p.srsel.toNat + (n - 1) * 2 ^ 16 + (if n = 0 then 2 ^ 28 else 0))

/-- A write of ATCTL.GO: a quote is begun, unless one is being formed. -/
def startQuote (s : State) (node : Nat) : State :=
  let p := s.pkg node
  if p.atGo && !p.atDone then s else s.setPkg node { p with atGo := true, atDone := false, quote := [] }

/-- ATTESTATION: a write from outside. -/
def execAttestation (node : Nat) (s : State) : Outcome State Fault Refusal := .next (outside s node (startQuote s node))

/-- A number of n bits as n / 64 words, the lowest first. -/
def wordsOf {n : Nat} (v : BitVec n) : List Word := (List.range (n / 64)).map (fun i => v.extractLsb' (64 * i) 64)

/-- BOOTREC of a step. -/
def BootRec.word (r : BootRec) : Word :=
  BitVec.ofNat 64 (r.result.toNat + r.tries.toNat * 2 ^ 2 + r.code.toNat * 2 ^ 6 + r.skipNext.toNat * 2 ^ 14)

/-- What a quote says, in the order of R400: the image digest, BOOTREC 0-31, SPLIT, the digest of CLPART and ASIDMAP, each register as
its 8 bytes, and the nonce (log 109). -/
def quoteWords (s : State) (node : Nat) : List Word :=
  let p := s.pkg node
  let maps := (List.range 128).map (clpartWord s node) ++ (List.range 4096).map (fun i => (p.asidmap.look 0 i).zeroExtend 64)
  bytesWords (imageDigest node) ++ p.bootrec.toList.map BootRec.word ++ [splitWord s node] ++ bytesWords (sha384 (wordsBytes maps))
    ++ wordsOf p.nonce

/-- QUOTE_READY (R400): the 512-byte quote stands in ATQUOTE and DONE rises: what it says, its signature, and a last word that the manual
gives nothing for (log 109). -/
def execQuoteReady (node : Nat) (s : State) : Outcome State Fault Refusal :=
  let p := s.pkg node
  if !p.atGo || p.atDone then .next s else
  let (w, s) := s.fresh
  let ws := quoteWords s node
  .next (s.setPkg node { p with
    atDone := true, quote := ws ++ wordsOf (Config.quoteSignature node (wordsBytes ws) s.free) ++ [w] })

end Sys2Proof.Machine
end

