-- ==== Sys2Proof/Machine/RegSpace.lean ====
section
/-! DEFINITION. Register space: what each control register reads as and what a write to it does (09_core.md R216, 12_cluster.md
R295, 13_die_memory.md R325, 14_views_layouts.md R350, 16_package_scheduling.md R379, 17_package_system.md R385-R400,
18_fabric.md R430). Offsets that no table names read 0, and writes to them are ignored. -/

namespace Sys2Proof.Machine

open Host (Outcome)

/-! ## The core control block (R216) -/

/-- SLOTn.STATE. -/
def SlotState.code : SlotState → Nat
  | .free => 0
  | .loading => 1
  | .running => 2
  | .draining => 3

/-- The threads of a core. -/
def coreThreads (s : State) (core : Nat) : List Thread := (List.range 4).map (fun i => s.thread (core * 4 + i))

/-- CSTAT. -/
def cstat (s : State) (core : Nat) : Word :=
  let ts := coreThreads s core
  fields (((ts.zipIdx).map (fun p => ((p.1.slot != .free).toNat, p.2)))
    ++ [((ts.any (·.gang)).toNat, 4), ((ts.any (·.gangHigh)).toNat, 5), ((s.core core).dead.toNat, 6)])

/-- SLOTn. -/
def slotWord (t : Thread) : Word :=
  fields [(t.slot.code, 0), (t.asid.toNat, 2), (t.sys.toNat, 14), (t.pbase.toNat, 16), (t.psize.toNat, 20)]

/-- A register of a core's block. -/
def readCore (s : State) (core off : Nat) : Word :=
  let c := s.core core
  match off with
  | 0x000 => cidOf core
  | 0x008 => cstat s core
  | 0x010 => c.gate.zeroExtend 64
  | 0x020 => slotWord (s.thread (core * 4))
  | 0x028 => slotWord (s.thread (core * 4 + 1))
  | 0x030 => slotWord (s.thread (core * 4 + 2))
  | 0x038 => slotWord (s.thread (core * 4 + 3))
  | 0x040 => fields [(c.errcePant.toNat, 0), (c.errceRegf.toNat, 16), (c.errceCache.toNat, 32)]
  | 0x048 => c.errue.zeroExtend 64
  | 0x050 => c.erraddr
  | 0x058 => flag c.scrubEn
  | _ => 0

/-- A write to a core's block. -/
def writeCore (s : State) (core off : Nat) (v : Word) : State :=
  let c := s.core core
  match off with
  | 0x010 => s.setCore core { c with gate := if bits v 0 8 = 0 then 1 else bits v 0 8 }
  | 0x018 => invalCode s core (bits v 0 12) (bit v 12)
  | 0x040 => s.setCore core { c with errcePant := bits v 0 16, errceRegf := bits v 16 16, errceCache := bits v 32 16 }
  | 0x048 => s.setCore core { c with errue := c.errue &&& ~~~(bits v 0 3) }
  | 0x058 => s.setCore core { c with scrubEn := bit v 0 }
  | _ => s

/-- ICINV (R209): a write from outside. -/
def execIcinv (core : Nat) (asid : BitVec 12) (all : Bool) (s : State) : Outcome State Fault Refusal :=
  .next (outside s (core / 512) (invalCode s core asid all))

/-! ## The cluster control block (R295) -/

/-- Every crossbar entry of a cluster is released. -/
def Cluster.clearCrossbar (c : Cluster) : Cluster :=
  { c with counters := Vector.replicate 16 {}, terms := Vector.replicate 16 {}, targets := Vector.replicate 32 {}, pulses := [], again := false }

/-- EVCTL_CLEAR: a write from outside. -/
def execEvctlClear (cluster : Nat) (s : State) : Outcome State Fault Refusal :=
  .next (outside s (cluster / 128) (s.setCluster cluster (s.cluster cluster).clearCrossbar))

/-- Whether a program of a sequencer still runs or waits: one that MACRO started, while its thread waits at it. -/
def seqAlive (s : State) (q : SeqRun) : Bool :=
  q.byTarget || ((s.thread q.slot).slot == .running && (s.thread q.slot).grp == q.grp && (s.thread q.slot).wait.isSome)

/-- The program that a cluster's sequencer runs. -/
def seqRunning (s : State) (cluster : Nat) : Option SeqRun :=
  match (s.cluster cluster).seqNow with
  | some q => if seqAlive s q then some q else none
  | none => none

/-- The programs that wait, in order of arrival. -/
def seqWaiting (s : State) (cluster : Nat) : List SeqRun := (s.cluster cluster).seqQueue.filter (seqAlive s)

/-- SEQSTAT. -/
def seqstat (s : State) (cluster : Nat) : Word :=
  let waiting := min 16 (seqWaiting s cluster).length
  match seqRunning s cluster with
  | none => fields [(waiting, 1)]
  | some q => fields [(1, 0), (waiting, 1), (if q.byTarget then 0 else q.slot % 16, 6), (q.asid.toNat, 10),
      (q.byTarget.toNat, 22)]

/-- A register of a cluster's block. -/
def readCluster (s : State) (cluster off : Nat) : Word :=
  let c := s.cluster cluster
  match off with
  | 0x000 => fields [(c.feto.toNat, 0), (c.phto.toNat, 16)]
  | 0x008 => c.lead.zeroExtend 64
  | 0x010 => seqstat s cluster
  | 0x018 => c.lerrce.zeroExtend 64
  | 0x020 => c.lerraddr.zeroExtend 64
  | _ => 0

/-- A write to a cluster's block. -/
def writeCluster (c : Cluster) (off : Nat) (v : Word) : Cluster :=
  match off with
  | 0x000 => { c with feto := bits v 0 16, phto := bits v 16 16 }
  | 0x008 => if bits v 0 4 = 0 then c else { c with lead := bits v 0 4 }
  | 0x018 => { c with lerrce := bits v 0 16 }
  | 0x020 => if bit v 23 then { c with lerraddr := c.lerraddr &&& 0x7FFFFF } else c
  | 0x028 => if bit v 0 then c.clearCrossbar else c
  | _ => c

/-! ## The die memory control block (13 R325) -/

/-- A page field register: PAGE, CHAN and ASID. -/
abbrev pageField (v : Word) : Word := v &&& 0x1FFFFFFFFFFF0000#64
/-- A DPA field of 64 KiB granularity. -/
abbrev dpaField (v : Word) : BitVec 37 := bits v 0 37 &&& 0x1FFFFF0000

/-- A register of a die's memory block; FSREQ has its own read. -/
def readDieMem (d : Die) (off : Nat) : Word :=
  match off with
  | 0x000 => fields [(d.pfen.toNat, 0), (d.pfdrop.toNat, 32)]
  | 0x008 => d.atpeak0
  | 0x010 => d.atpeak1
  | 0x018 => d.asidtab.zeroExtend 64
  | 0x030 => d.invaddr
  | 0x038 => fields [(d.invctl.toNat, 0), ((!d.invals.isEmpty).toNat, 63)]
  | 0x040 => d.migaddr
  | 0x048 => d.migdst.zeroExtend 64
  | 0x050 => fields [(d.migbig.toNat, 0), (d.migerr.toNat, 61), (d.mig.isSome.toNat, 63)]
  | 0x058 => fields [(d.celerrAttic.toNat, 0), (d.celerrCellar.toNat, 32)]
  | 0x060 => d.celerraddr
  | _ => if 0x80 ≤ off && off < 0x100 then vread d.atacc ((off - 0x80) / 8) else 0

/-- A write to a die's memory block. -/
def writeDieMem (s : State) (die off : Nat) (v : Word) : State :=
  let d := s.die die
  match off with
  | 0x000 => s.setDie die { d with pfen := bit v 0, pfdrop := bits v 32 32 }
  | 0x008 => s.setDie die { d with atpeak0 := v }
  | 0x010 => s.setDie die { d with atpeak1 := v }
  | 0x018 => s.setDie die { d with asidtab := dpaField v }
  | 0x028 => answerPage s die (pageName v) (bit v 0)
  | 0x030 => s.setDie die { d with invaddr := pageField v }
  | 0x038 =>
    let s := s.setDie die { d with invctl := bits v 0 33 }
    if bit v 62 then startInval s die else s
  | 0x040 => s.setDie die { d with migaddr := pageField v }
  | 0x048 => s.setDie die { d with migdst := dpaField v }
  | 0x050 =>
    let s := s.setDie die { d with migbig := bit v 0, migerr := d.migerr && !bit v 61 }
    if bit v 62 then startMigration s die else s
  | 0x058 => s.setDie die { d with celerrAttic := bits v 0 32, celerrCellar := bits v 32 32 }
  | 0x060 => if bit v 63 then s.setDie die { d with celerraddr := d.celerraddr &&& 0x7FFFFFFFFFFFFFFF#64 } else s
  | _ => if 0x80 ≤ off && off < 0x100 then s.setDie die { d with atacc := vwrite d.atacc ((off - 0x80) / 8) v } else s

/-! ## The view and relayout control block (14 R350) -/

/-- A register of a die's view block. -/
def readViewBlock (s : State) (die off : Nat) : Word :=
  let d := s.die die
  let split := (s.pkg (die / 8)).split
  match off with
  | 0x000 =>
    let queued := d.views.foldl (fun n v => n + (v.2.blocks.filter (fun b =>
      if b.capturing then b.again || b.wanted else b.stale || b.wanted)).length) 0
    fields [(d.views.length, 0), (min queued 0xFFFF, 16), ((split.getLsbD 2).toNat, 32), ((split.getLsbD 3).toNat, 33)]
  | 0x008 => d.rlsel.zeroExtend 64
  | 0x010 =>
    match d.relays.entry d.rlsel.toNat with
    | none => 0
    | some r => fields [(r.state.toNat, 0), (min (r.tiles.filter (· == .converted)).length 0xFFFFFFFF, 8), (r.aband, 40),
        (r.cause.toNat, 48)]
  | 0x018 =>
    match d.relays.entry d.rlsel.toNat with
    | none => 0
    | some r => r.fail
  | _ => 0

/-- A write to a die's view block. -/
def writeViewBlock (s : State) (die off : Nat) (v : Word) : State :=
  match off with
  | 0x008 => s.setDie die { s.die die with rlsel := bits v 0 8 }
  | 0x020 => if bit v 8 then resumeRelay s die (bits v 0 8).toNat else s
  | _ => s

/-! ## The die fabric block (18 R404, R430) -/

/-- A register of a die's fabric block. -/
def readDieFabric (d : Die) (off : Nat) : Word :=
  if off < 0x1000 then d.shadow.look 0 (off / 8)
  else if off < 0x2000 then d.active.look 0 ((off - 0x1000) / 8)
  else if off = 0x2000 then fields [(d.combiners.length, 0), (d.cbRefused.toNat, 16), (d.cbPartial.toNat, 32)]
  else 0

/-- A write to a die's fabric block. -/
def writeDieFabric (s : State) (die off : Nat) (v : Word) : State :=
  let d := s.die die
  if off < 0x1000 then s.setDie die { d with shadow := d.shadow.put (off / 8) (v &&& 0x3FF) }
  else if off = 0x2000 then s.setDie die { d with cbRefused := bits v 16 16, cbPartial := bits v 32 16 }
  else if off = 0x2008 then answerCombiner s die (bits v 0 6).toNat (bits v 16 16) (bit v 6)
  else s

/-! ## Queues and scheduling (16 R379) -/

/-- A register of the Distributor's block. -/
def readQueues (p : Package) (off : Nat) : Word :=
  if off < 0x1000 then
    let q := p.queues.look {} (off / 16)
    if off % 16 = 0 then q.base else q.ctl
  else if 0x2000 ≤ off && off < 0x2100 then
    let q := p.part ((off - 0x2000) / 8)
    fields [(q.rmax.toNat, 0), (q.pre.toNat, 3)]
  else 0

/-- A write to the Distributor's block. -/
def writeQueues (p : Package) (off : Nat) (v : Word) : Package :=
  if off < 0x1000 then
    let q := p.queues.look {} (off / 16)
    { p with queues := p.queues.put (off / 16)
              (if off % 16 = 0 then { q with base := v &&& 0xFFFFFFFFFFFFF000#64 } else { q with ctl := v &&& 0x7FFFFF }) }
  else if 0x2000 ≤ off && off < 0x2100 then
    let k := (off - 0x2000) / 8
    let r := (bits v 0 3).toNat
    { p with parts := p.parts.put k { p.part k with
        rmax := if 1 ≤ r && r ≤ 4 then bits v 0 3 else 4, pre := bit v 3 } }
  else p

/-! ## The base-die system block (17) -/

/-- The frames of a partition's pool that groups hold (R389). -/
def framesHeld (s : State) (node part : Nat) : List Nat :=
  let p := s.pkg node
  let mine (asid : BitVec 12) : Bool := p.partOf asid == some part
  s.slots.filterMap (fun k => let t := s.thread k
      if slotNode k == node && t.slot != .free && !t.gangHigh && mine t.asid then t.frame else none)
    ++ p.saved.filterMap (fun c => if mine c.asid then c.frame else none)
    ++ p.runs.flatMap (fun r => if r.2.part.toNat == part then r.2.frames.map (fun f => f.2.2) else [])

/-- A trap-setting or frame-pool word of a partition (R389). -/
def readTrapSettings (s : State) (node part off : Nat) : Word :=
  let q := (s.pkg node).part part
  match off with
  | 0x00 => q.tvec
  | 0x08 => q.troute0
  | 0x10 => q.troute1
  | 0x18 => q.fpbase
  | 0x20 => fields [(q.fpn.toNat, 0), (q.stride.toNat, 16)]
  | 0x28 => BitVec.ofNat 64 (q.fpn.toNat - ((framesHeld s node part).filter (· < q.fpn.toNat)).length)
  | _ => 0

/-- A write to the same. -/
def Partition.writeTrapSettings (q : Partition) (off : Nat) (v : Word) : Partition :=
  match off with
  | 0x00 => { q with tvec := v &&& 0xFFFFFFFFFFFC#64 }
  | 0x08 => { q with troute0 := v }
  | 0x10 => { q with troute1 := v }
  | 0x18 => { q with fpbase := v &&& 0xFFFFFFFFFFFFF000#64 }
  | 0x20 => { q with fpn := bits v 0 16, stride := bits v 16 16 }
  | _ => q

/-- Whether a package in RESCUE answers an offset of the system block: BOOTREC, the Strongroom's SRSEL and SRDATA, and FITIAR of the Fitia
link only (R396). -/
def rescueAnswers (off : Nat) : Bool := (0x10300 ≤ off && off < 0x10410) || (0x10600 ≤ off && off < 0x10680)

/-- A register of the system block; SRDATA has its own read. -/
def readSystem (s : State) (node off : Nat) : Word :=
  let p := s.pkg node
  if off < 0x400 then clpartWord s node (off / 8)
  else if 0x8000 ≤ off && off < 0x10000 then (p.asidmap.look 0 ((off - 0x8000) / 8)).zeroExtend 64
  else if 0x10000 ≤ off && off < 0x10100 then
    let q := p.part ((off - 0x10000) / 8)
    fields [(q.budget.toNat, 0), (q.nmax.toNat, 32)]
  else if 0x10300 ≤ off && off < 0x10400 then (vread p.bootrec ((off - 0x10300) / 8)).word
  else if 0x10500 ≤ off && off < 0x10530 then (p.nonce.extractLsb' ((off - 0x10500) * 8) 64)
  else if 0x10600 ≤ off && off < 0x10680 then (vread p.fitiar ((off - 0x10600) / 8)).zeroExtend 64
  else if 0x10800 ≤ off && off < 0x10A00 then (if p.atDone then p.quote.getD ((off - 0x10800) / 8) 0 else 0)
  else if 0x11000 ≤ off && off < 0x11800 then (p.queues.look {} ((off - 0x11000) / 8)).qen
  else if 0x12000 ≤ off && off < 0x12800 then readTrapSettings s node ((off - 0x12000) / 64) (off % 64)
  else match off with
    | 0x10100 => p.pkgbud.zeroExtend 64
    | 0x10200 => splitWord s node
    | 0x10208 => fields [(p.light.toNat, 0), ((p.ports.filter (fun q => q.2.low)).length, 32)]
    | 0x10210 => fields [(p.syserr.toNat, 0), (p.rescue.toNat, 2)]
    | 0x10220 => p.hrbase
    | 0x10228 => fields [(p.logn.toNat, 0), (p.hrwr.toNat, 16), (p.hrrd.toNat, 32)]
    | 0x10238 => p.bootctl.zeroExtend 64
    | 0x10400 => readSrsel p
    | 0x10530 => flag p.atDone <<< 1
    | _ => 0

/-- A write to the system block. -/
def writeSystem (s : State) (node off : Nat) (v : Word) : State :=
  let p := s.pkg node
  if off < 0x400 then writeClpart s node (off / 8) v
  else if 0x8000 ≤ off && off < 0x10000 then writeAsidmap s node ((off - 0x8000) / 8) v
  else if 0x10000 ≤ off && off < 0x10100 then writePbud s node ((off - 0x10000) / 8) v
  else if 0x10300 ≤ off && off < 0x10400 then
    let i := (off - 0x10300) / 8
    let r := vread p.bootrec i
    s.setPkg node { p with bootrec := vwrite p.bootrec i { r with skipNext := r.skipNext && !bit v 14 } }
  else if 0x10500 ≤ off && off < 0x10530 then
    s.setPkg node { p with nonce := setBits p.nonce ((off - 0x10500) * 8) 64 v.toNat }
  else if 0x10600 ≤ off && off < 0x10680 then
    s.setPkg node { p with fitiar := vwrite p.fitiar ((off - 0x10600) / 8) (bits v 0 14) }
  else if 0x11000 ≤ off && off < 0x11800 then
    let i := (off - 0x11000) / 8
    s.setPkg node { p with queues := p.queues.put i { p.queues.look {} i with qen := v } }
  else if 0x12000 ≤ off && off < 0x12800 then
    let k := (off - 0x12000) / 64
    s.setPart node k ((p.part k).writeTrapSettings (off % 64) v)
  else match off with
    | 0x10100 => s.setPkg node { p with pkgbud := bits v 0 32 }
    | 0x10200 => s.setPkg node { p with split := bits v 0 8 }
    | 0x10208 => s.setPkg node { p with light := bits v 0 32 }
    | 0x10210 => s.setPkg node { p with syserr := p.syserr &&& ~~~(bits v 0 2) }
    | 0x10220 => s.setPkg node { p with hrbase := v &&& 0xFFFFFFFFFFFFF000#64 }
    | 0x10228 => writeHrctl s node v
    | 0x10230 => writeHans s node v
    | 0x10238 =>
      let s := s.setPkg node { p with bootctl := bits v 0 5 }
      let s := if bit v 5 then answerBoot s node (bits v 0 5) false else s
      if bit v 6 then answerBoot s node (bits v 0 5) true else s
    | 0x10400 => writeSrsel s node v
    | 0x10530 => if bit v 0 then startQuote s node else s
    | _ => s

/-! ## The base-die fabric block (18 R430) -/

/-- A register of the fabric block. -/
def readFabric (p : Package) (off : Nat) : Word :=
  if 0x100 ≤ off && off < 0x500 then (p.rtnode.look 0 ((off - 0x100) / 8)).zeroExtend 64
  else if 0x800 ≤ off && off < 0xA40 then
    let q := p.ports.look {} ((off - 0x800) / 8)
    fields [(q.crcerr.toNat, 0), (q.replay.toNat, 16), (q.uncor.toNat, 32), (q.state.toNat, 48)]
  else match off with
    | 0x000 => p.fabto.zeroExtend 64
    | 0x008 => fields [(p.rtver.toNat, 0), (p.rterr.toNat, 17)]
    | 0x010 => fields [(p.planeEn.toNat, 0), (p.planeDrain.toNat, 4), (p.planeIdle.toNat, 8)]
    | 0x018 => fields [(p.rtself.toNat, 0), (p.phys.toNat, 8)]
    | 0x020 => fields [(p.misroute.toNat, 0), (p.dupdisc.toNat, 32)]
    | _ => 0

/-- A write to the fabric block. -/
def writeFabric (s : State) (node off : Nat) (v : Word) : State :=
  let p := s.pkg node
  if 0x100 ≤ off && off < 0x500 then s.setPkg node { p with rtnode := p.rtnode.put ((off - 0x100) / 8) (bits v 0 33) }
  else if 0x800 ≤ off && off < 0xA40 then
    let i := (off - 0x800) / 8
    s.setPort node i { p.ports.look {} i with crcerr := bits v 0 16, replay := bits v 16 16, uncor := bits v 32 16 }
  else match off with
    | 0x000 =>
      let n := (bits v 0 24).toNat
      s.setPkg node { p with fabto := BitVec.ofNat 24 (if n = 0 then 1 else min n 10000) }
    | 0x008 =>
      let s := s.setPkg node { p with rterr := p.rterr && !bit v 17 }
      if bit v 16 then commitRoutes s node else s
    | 0x010 => writeDrain (writeEnable s node (bits v 0 4)) node (bits v 4 4)
    | 0x018 => if (bits v 0 8).toNat ≤ 127 then s.setPkg node { p with rtself := bits v 0 8 } else s
    | 0x020 => s.setPkg node { p with misroute := bits v 0 32, dupdisc := bits v 32 32 }
    | _ => s

/-! ## All of register space -/

/-- Whether a register answers: in RESCUE only those that R396 leaves do. -/
def answers (s : State) (die a : Nat) : Bool := !(s.pkg (die / 8)).rescue || (a / 2 ^ 24 == 0x11 && rescueAnswers (a % 2 ^ 24))

/-- A register read at a die (by key) and an address field: its value and the state after. -/
def regReadAt (s : State) (die a : Nat) : Word × State :=
  let off := a % 2 ^ 24
  let node := die / 8
  let base := die % 8 == 0
  if !answers s die a then (0, s) else
  match a / 2 ^ 24 with
  | 0x01 => (if off / 0x1000 < 64 then readCore s (die * 64 + off / 0x1000) (off % 0x1000) else 0, s)
  | 0x02 => (if off / 0x1000 < 16 then readCluster s (die * 16 + off / 0x1000) (off % 0x1000) else 0, s)
  | 0x03 => if off = 0x020 then readFsreq s die else (readDieMem (s.die die) off, s)
  | 0x04 => (readViewBlock s die off, s)
  | 0x05 => (readDieFabric (s.die die) off, s)
  | 0x10 => (if base then readQueues (s.pkg node) off else 0, s)
  | 0x11 => if !base then (0, s) else if off = 0x10408 then readSrdata s node else (readSystem s node off, s)
  | 0x13 => (if base then readFabric (s.pkg node) off else 0, s)
  | _ => (0, s)

/-- A register write at a die and an address field. -/
def regWriteAt (s : State) (die a : Nat) (v : Word) : State :=
  let off := a % 2 ^ 24
  let node := die / 8
  let base := die % 8 == 0
  if !answers s die a then s else
  match a / 2 ^ 24 with
  | 0x01 => if off / 0x1000 < 64 then writeCore s (die * 64 + off / 0x1000) (off % 0x1000) v else s
  | 0x02 =>
    let k := die * 16 + off / 0x1000
    if off / 0x1000 < 16 then s.setCluster k (writeCluster (s.cluster k) (off % 0x1000) v) else s
  | 0x03 => writeDieMem s die off v
  | 0x04 => writeViewBlock s die off v
  | 0x05 => writeDieFabric s die off v
  | 0x10 => if base then s.setPkg node (writeQueues (s.pkg node) off v) else s
  | 0x11 => if base then writeSystem s node off v else s
  | 0x13 => if base then writeFabric s node off v else s
  | _ => s

/-- A register read by a slot's thread; an unreachable node waits (R414). -/
def regRead (s : State) (slot : Nat) (a : Word) : Except Stop (Word × State) :=
  if !s.reachable (slotDie slot) (nodeOf a) then .error (.wait (.unreachable a (nodeOf a)))
  else let home := s.homeOf (slotNode slot) a; .ok (regReadAt (exchange s (slotDie slot) home 0x10 a) home (bits a 0 49).toNat)

/-- A register write by a slot's thread. -/
def regWrite (s : State) (slot : Nat) (a v : Word) : Except Stop State :=
  if !s.reachable (slotDie slot) (nodeOf a) then .error (.wait (.unreachable a (nodeOf a)))
  else let home := s.homeOf (slotNode slot) a; .ok (regWriteAt (exchange s (slotDie slot) home 0x10 a) home (bits a 0 49).toNat v)

/-- REGISTER_WRITE: a write from outside. -/
def execRegisterWrite (addr v : BitVec 64) (s : State) : Outcome State Fault Refusal :=
  .next (regWriteAt s (nodeOf addr * 8 + dieOf addr) (bits addr 0 49).toNat v)

/-! ## The Fitia link (17 R385) -/

/-- The agent of an access that is held. -/
def HeldAccess.agent (w : HeldAccess) (node : Nat) : Agent :=
  ⟨w.asid, w.sys, node * 2048, [if w.req.isSome then 9 else if w.qp.isSome then 12 else 7, node, w.addr.toNat]⟩

/-- Whether a line is one that a view or a relayout engine owns for a request posted to the host, whose writes the home serves as the
engine's own (R394). -/
def hostOwned (s : State) (key : Nat) : Bool := viewOwns s true key || relayOwns s true key

/-- An access that is held performs, or is held on. The companion's waits for the recall of a line that an engine owns,
unless the engine has posted its request; its write to a tile that it converts is the carry-over, and it may cache lines of its own
package (R385, R394; 13_die_memory.md R310). -/
def performHeld (s : State) (node : Nat) (w : HeldAccess) : Except Stop State := do
  let align := if w.req.isSome then w.size else 1
  match ← checkPlace s (w.agent node) w.bytes.isSome w.size align 0 w.addr with
  | .reg r =>
    if w.req.isNone then return s
    if !s.reachable (node * 8) (nodeOf r) then
      throw (if nodeLost s (w.agent node) (nodeOf r) then .trap 0x60 r else .wait (.unreachable r (nodeOf r)))
    let die := s.homeOf node r
    match w.bytes with
    | some bs => return regWriteAt s die (bits r 0 49).toNat (BitVec.ofNat 64 (leNat bs))
    | none => return (regReadAt s die (bits r 0 49).toNat).2
  | .mem key =>
    let mine := w.req.isSome && hostOwned s key
    match (if mine then none else (spanKeys key w.size).find? (fun k => !s.lineFree k)) with
    | some k => throw (.wait (.recall k))
    | none => pure ()
    let s := reachFrom s w.asid (node * 8) none w.addr key w.size w.bytes
    match w.bytes with
    | some bs =>
      if s.partPoison key w.size then throw (.trap 0x2C w.addr)
      if mine && relayOwns s true key then
        return noteWrite (((dropCached s w.asid w.addr key w.size).putBytes key bs).clearPoison key w.size) w.asid w.addr w.size true
      return storeBytes s w.asid w.addr key bs
    | none =>
      if s.poisoned key w.size then throw (.trap 0x2C w.addr)
      let d := s.die (keyDie key)
      let s := s.correct key w.size
      if w.req.isSome && keyDie key / 8 = node && !d.hostLines.contains (keyLine key)
      then return s.setDie (keyDie key) { s.die (keyDie key) with hostLines := (s.die (keyDie key)).hostLines ++ [keyLine key] }
      return s

/-- Whether two accesses that are held keep their order: they are of one requester of the companion, or of one queue pair (R385; 18_fabric.md
R429). -/
def HeldAccess.sameSource (a b : HeldAccess) : Bool := (a.req.isSome && a.req == b.req) || (a.qp.isSome && a.qp == b.qp)

/-- What an inbound message delivers reaches its queue pair (18_fabric.md R429). -/
def deliver (s : State) (node qp : Nat) (m : List Byte) : State :=
  let p := s.pkg node
  let q := p.qpairs.look {} qp
  if m.isEmpty then s else s.setPkg node { p with qpairs := p.qpairs.put qp { q with delivered := q.delivered ++ [m] } }

/-- An access that is held at a package is tried again, behind the earlier ones that it keeps its order with. -/
def retryHeld (s : State) (node idx : Nat) : State :=
  let p := s.pkg node
  match p.writes[idx]? with
  | none => s
  | some w =>
    if (p.writes.take idx).any (fun q => q.sameSource w) then s else
    let out (s : State) : State := s.setPkg node { s.pkg node with writes := (s.pkg node).writes.eraseIdx idx }
    match w.msg with
    | some m => deliver (out s) node (w.qp.getD 0) m
    | none =>
    match performHeld s node w with
    | .ok s' => out s'
    | .error (.wait st) => engineStop s (w.agent node) (.wait st)
    | .error st => engineStop (out s) (w.agent node) st

/-- FITIA_REQUEST: a request of the companion processor, translated and checked as a thread's access is, and held where one is; a requester
that is not enabled, or that may not reach the space, has no effect. -/
def execFitiaRequest (node : Nat) (req : BitVec 4) (addr : BitVec 64) (size : Nat) (wr : Bool) (data : BitVec 64) (s : State) :
    Outcome State Fault Refusal :=
  let f := vread (s.pkg node).fitiar req.toNat
  if !bit f 13 then .next s
  else if tagOf addr != 0xF && (tagOf addr != 0 || (s.pkg node).rescue) then .next s
  else
    let w : HeldAccess := ⟨bits f 0 12, bit f 12, some req.toNat, addr, size, if wr then some (leBytes size data.toNat) else none, none, none⟩
    let p := s.pkg node
    let held := s.setPkg node { p with writes := p.writes ++ [w] }
    if p.writes.any (fun q => q.req == w.req) then .next held else
    match performHeld s node w with
    | .ok s' => .next s'
    | .error (.wait st) => .next (engineStop held (w.agent node) (.wait st))
    | .error st => .next (engineStop s (w.agent node) st)

end Sys2Proof.Machine
end

