-- ==== Sys2Proof/Machine/ScalarMem.lean ====
section
/-! DEFINITION. Majors 0x20 and 0x21, HLD, HST, HGET, HSET, and JTAB: the memory accesses of the scalar part (06_memory_isa.md R157,
R167, 04_scalar_control.md R107, R108). -/

namespace Sys2Proof.Machine

open Host (Outcome)

/-! ## When a scalar access may perform (01_thread.md R28, R29) -/

/-- Whether a queued instruction accesses memory. -/
def VKind.touchesMemory : VKind → Bool
  | .load _ => true
  | .store _ => true
  | .atom _ => true
  | .comb _ => true
  | .fullEmpty _ => true
  | .pop => true
  | .tsend => true
  | .copy => true
  | .tileLoad _ => true
  | _ => false

/-- A scalar access behind queued vector instructions: one that performs at its commit waits for the queue, and so does one that
older queued memory instructions may still order (R28, R29; 07_streams.md R179, R182; log 6). -/
def scalarReady (s : State) (atCommit : Bool) : Except Stop Unit :=
  match s.th.vq with
  | [] => .ok ()
  | q => if atCommit || q.any (fun v => v.op.kind.touchesMemory) then .error (.wait .queue) else .ok ()

/-- The edge mask that an es field names; e0 reads 0 (07 R179). -/
abbrev Thread.edge (t : Thread) (e : BitVec 3) : BitVec 8 := vread t.e e.toNat

/-- A store of a stream makes the thread's held contributions of that stream merge (07 R192). -/
def mergeStream (s : State) (sn : BitVec 3) : State :=
  (s.coresOf s.cur).foldl (fun s c => mergeWhere s c (fun e => e.slot == s.cur && e.sn == sn)) s

/-- The line write that carries one store element of a slot, a store's element as it would be pending (18_fabric.md R412). -/
def lineWriteOf (slot : Nat) (p : Pend) : LineWr :=
  let off := p.key % 128
  let data := if p.sew = 4 then [BitVec.ofNat 8 (p.data.toNat % 16 * 17)] else leBytes (p.sew / 8) p.data.toNat
  { slot := slot, sn := p.sn, asid := p.asid, line := p.addr - BitVec.ofNat 64 off, key := p.key - off,
    elems := [⟨p.op, p.idx, p.pc, off, data, if p.sew = 4 then some p.high else none⟩] }

/-! ## The scalar data cache (09_core.md R208, R217; 13_die_memory.md R310) -/

/-- Whether a scalar load of a slot at an address may leave its line in the core's cache: the line is of the core's own die and in a range
registered for the slot or in a sealed region, or it is read through a Dormer. -/
def allocates (s : State) (slot : Nat) (a : Word) (key : Nat) : Bool :=
  let t := s.thread slot
  let line := a.toNat / 128 * 128
  key < 2 ^ 60 && (tagOf a == 0xC || (tagOf a == 0 && keyDie key == slotDie slot
    && ((s.die (keyDie key)).ranges.any (fun r => r.slot == slot && r.base.toNat ≤ line && line < r.base.toNat + r.len)
      || sealedAt (s.die (keyDie key)) t.asid (BitVec.ofNat 64 line) 128)))

/-- A scalar load of a slot reads a line: from the core's cache, or with a request to the home, which a line with an error needs too. A
set of the cache has 8 lines; which set a line has and which line leaves are not architectural, and the model takes the address modulo
64 and the oldest one. -/
def readLine (s : State) (slot : Nat) (a : Word) (key : Nat) : State :=
  let core := slotCore slot
  let asid := (s.thread slot).asid
  let line := BitVec.ofNat 64 (a.toNat / 128 * 128)
  let home (s : State) : State :=
    let s := if tagOf a = 0xC then s else fetchData s (core / 64) line (key / 128 * 128) 128
    countRequest (touchLine s core key) asid (core / 64) a key
  if !s.caching.contains core then home s else
  let c := s.core core
  let same (l : DataLine) : Bool := l.asid == asid && l.addr == line
  match c.dcache.find? same with
  | some l =>
    if !l.err then s
    else home (s.setCore core { c with errceCache := satAdd c.errceCache 1
                                       dcache := c.dcache.map (fun l => if same l then { l with err := false } else l) })
  | none =>
    if !allocates s slot a key then home s else
    let inSet (l : DataLine) : Bool := l.addr.toNat / 128 % 64 == line.toNat / 128 % 64
    let kept := match (c.dcache.filter inSet).length, c.dcache.find? inSet with
      | 8, some l => c.dcache.erase l
      | _, _ => c.dcache
    home (s.setCore core { c with dcache := kept ++ [⟨asid, line, key / 128 * 128, false, slot⟩] })

/-- A scalar store or atomic of a slot writes bytes at the home; the copies that the slot's own loads brought to its core stay, with the
bytes written, but for those of a block that lies in a registered range of another slot (R208, R310, R311). -/
def storeOwn (s : State) (slot : Nat) (asid : BitVec 12) (a : Word) (key : Nat) (bs : List Byte) : State :=
  let core := slotCore slot
  let old := (s.core core).dcache
  let others (l : DataLine) : Bool := (s.die (core / 64)).ranges.any (fun r => r.slot != slot && l.asid == asid
    && r.base.toNat / 256 * 256 < l.addr.toNat + 128 && l.addr.toNat < r.base.toNat + r.len)
  let s := storeBytes s asid a key bs
  if old.isEmpty then s else
  let now := (s.core core).dcache
  s.setCore core { s.core core with dcache := old.filter (fun l => now.contains l || (l.slot == slot && !others l)) }

/-! ## One scalar access (R151, R153, R157) -/

/-- The part that all scalar accesses share: their place, the edges, the room in their stream, and everything that is ordered
before them at that place. -/
def scalarAccess (s : State) (write atCommit : Bool) (n : Nat) (sn e : BitVec 3) (a : Word)
    (act : State → Place → Except Stop State) : Except Stop State := do
  scalarReady s (atCommit || tagOf a == 0xF)
  let p ← checkAccess s s.agent write n n 0 a
  let s ← edgeOrder s (s.th.edge e)
  checkExhausted s sn 1
  match p with
  | .mem key => act (flushLine (forceOverlap s s.cur key n) key) p
  | .reg _ => act s p

/-- A scalar access to a line reaches its home. -/
def State.touch (s : State) (core : Nat) (a : Word) (key : Nat) : State :=
  countRequest (touchLine s core key) s.th.asid (core / 64) a key

/-- A read of n bytes of a line reaches its home, which sends them (18_fabric.md R410). -/
def State.touchRead (s : State) (core : Nat) (a : Word) (key n : Nat) : State := (fetchData s (core / 64) a key n).touch core a key

/-- A scalar access of the thread counts and completes; behind queued vector instructions it counts when they have committed, since
every older instruction must have passed its fault point (07_streams.md R186). -/
def State.countScalar (s : State) (sn : BitVec 3) : State :=
  match s.th.vq.getLast? with
  | none => { s with th := s.th.countNow sn 1 }
  | some q => { s with th := { s.th with vq := s.th.vq.dropLast ++ [{ q with counts := q.counts ++ [sn] }] } }

/-- Bytes read by a scalar access, with the state after. -/
def scalarRead (s : State) (sn e : BitVec 3) (n : Nat) (a : Word) (k : State → Nat → State) : Except Stop State :=
  scalarAccess s false false n sn e a fun s p => do
    match p with
    | .mem key =>
      if remoteKey s.cur key then ownWrites s s.cur key
      meetsBad s s.agent false key n 0 a
      return k ((readLine (s.correct key n) s.cur a key).countScalar sn) (leNat (memBytes s.mem key n))
    | .reg r =>
      let (v, s) ← regRead s s.cur r
      return k (s.countScalar sn) v.toNat

/-- A store of bytes at a place of another die, after its check there (06 R152), waits until its core's write buffer has room, and enters it
(18_fabric.md R412). -/
def remoteStore (s : State) (sn : BitVec 3) (a : Word) (key : Nat) (bs : List Byte) : Except Stop State := do
  if !bufferRoom s s.coreKey 1 then throw (.wait (.recall key))
  let s := mergeStream (askHome s s.dieKey a key) sn
  let op := s.th.nextOp
  let s := { s with th := s.th.issueOp sn op 1 }
  return bufferStore s s.coreKey { slot := s.cur, sn := sn, asid := s.th.asid, line := a - BitVec.ofNat 64 (key % 128), key := key - key % 128,
                                   elems := [⟨op, 0, s.th.pc, key % 128, bs, none⟩] }

/-- A blocking write of bytes at a place: its effect at the home, which takes it in a line write from another die (18_fabric.md R412). A
write of part of an uncorrectable word in pod memory performs nothing and is reported (13_die_memory.md R324). -/
def blockingWrite (s : State) (sn : BitVec 3) (a : Word) (key : Nat) (bs : List Byte) : Except Stop State := do
  if remoteKey s.cur key then ownWrites s s.cur key
  meetsBad s s.agent true key bs.length 0 a
  let s := (s.coresOf s.cur).foldl (fun s c => sendWhere s c (fun w => w.slot == s.cur)) (mergeStream s sn)
  if remoteKey s.cur key then
    let op := s.th.nextOp
    return landLines (← remoteStore s sn a key bs) s.cur (fun w => w.elems.any (fun e => e.op == op))
  let s := if s.partPoison key bs.length then s.report s.cur s.th.grp ⟨0x2C, sn, a, s.th.pc, 0⟩
    else storeOwn s s.cur s.th.asid a key bs
  return (s.touch s.coreKey a key).countScalar sn

/-- A non-blocking store has issued: its element is buffered for a remote home, or pending (R154; 18 R412). -/
def issueStore (s : State) (sn : BitVec 3) (a : Word) (key : Nat) (bs : List Byte) : Except Stop State := do
  if 2 ^ 60 ≤ key then meetsBad s s.agent true key bs.length 0 a
  if remoteKey s.cur key then
    heldReads s s.cur key
    return ← remoteStore s sn a key bs
  let s := mergeStream s sn
  let op := s.th.nextOp
  let s := { s with th := s.th.issueOp sn op 1 }
  let p : Pend := { kind := .store, op := op, sn := sn, asid := s.th.asid, addr := a, key := key, sew := 8 * bs.length,
                    data := BitVec.ofNat 64 (leNat bs), pc := s.th.pc }
  return { countRequest s s.th.asid s.dieKey a key with th := { s.th with pend := s.th.pend ++ [p] } }

/-- A scalar load of n bytes (R157). -/
def loadScalar (s : State) (t b i : BitVec 5) (sn e : BitVec 3) (n : Nat) (signed : Bool) : Outcome State Fault Refusal :=
  scalarOut s (scalarRead s sn e n (s.x b + s.x i) fun s v =>
    s.ret t (if signed then BitVec.ofInt 64 (intVal true (8 * n) v) else BitVec.ofNat 64 v))

/-- A scalar store of n bytes (R157). -/
def storeScalar (s : State) (t b i : BitVec 5) (sn e : BitVec 3) (nb : Bool) (n : Nat) : Outcome State Fault Refusal :=
  let a := s.x b + s.x i
  let v := s.x t
  scalarOut s (scalarAccess s true true n sn e a fun s p => do
    match p with
    | .mem key =>
      let s ← if nb then issueStore s sn a key (leBytes n v.toNat) else blockingWrite s sn a key (leBytes n v.toNat)
      return s.advance
    | .reg r => return ((← regWrite s s.cur r v).countScalar sn).advance)

/-- A scalar atomic (R157): f gives the new value from the old one. -/
def atomicScalar (s : State) (t : BitVec 5) (sn e : BitVec 3) (a : Word) (f : Word → Word) : Outcome State Fault Refusal :=
  scalarOut s (scalarAccess s true true 8 sn e a fun s p => do
    match p with
    | .mem key =>
      if remoteKey s.cur key then ownWrites s s.cur key
      meetsBad s s.agent false key 8 0 a
      let old := memWord s.mem key
      let s := askHome s s.dieKey a key
      let s := if key < 2 ^ 60 then registerLine (s.correct key 8) s.coreKey key else s.correct key 8
      let s := storeOwn (mergeStream s sn) s.cur s.th.asid a key (leBytes 8 (f old).toNat)
      return ((s.touch s.coreKey a key).countScalar sn).ret t old
    | .reg r =>
      let (old, s) ← regRead s s.cur r
      return ((← regWrite s s.cur r (f old)).countScalar sn).ret t old)

/-- LDS8 (R157). -/
def execLds8 (t b i : BitVec 5) (sn e : BitVec 3) (s : State) : Outcome State Fault Refusal := loadScalar s t b i sn e 1 true
/-- LDN8 (R157). -/
def execLdn8 (t b i : BitVec 5) (sn e : BitVec 3) (s : State) : Outcome State Fault Refusal := loadScalar s t b i sn e 1 false
/-- LDS16 (R157). -/
def execLds16 (t b i : BitVec 5) (sn e : BitVec 3) (s : State) : Outcome State Fault Refusal := loadScalar s t b i sn e 2 true
/-- LDN16 (R157). -/
def execLdn16 (t b i : BitVec 5) (sn e : BitVec 3) (s : State) : Outcome State Fault Refusal := loadScalar s t b i sn e 2 false
/-- LDS32 (R157). -/
def execLds32 (t b i : BitVec 5) (sn e : BitVec 3) (s : State) : Outcome State Fault Refusal := loadScalar s t b i sn e 4 true
/-- LDN32 (R157). -/
def execLdn32 (t b i : BitVec 5) (sn e : BitVec 3) (s : State) : Outcome State Fault Refusal := loadScalar s t b i sn e 4 false
/-- LD64 (R157). -/
def execLd64 (t b i : BitVec 5) (sn e : BitVec 3) (s : State) : Outcome State Fault Refusal := loadScalar s t b i sn e 8 false
/-- ST8 (R157). -/
def execSt8 (t b i : BitVec 5) (sn e : BitVec 3) (n : Bool) (s : State) : Outcome State Fault Refusal := storeScalar s t b i sn e n 1
/-- ST16 (R157). -/
def execSt16 (t b i : BitVec 5) (sn e : BitVec 3) (n : Bool) (s : State) : Outcome State Fault Refusal := storeScalar s t b i sn e n 2
/-- ST32 (R157). -/
def execSt32 (t b i : BitVec 5) (sn e : BitVec 3) (n : Bool) (s : State) : Outcome State Fault Refusal := storeScalar s t b i sn e n 4
/-- ST64 (R157). -/
def execSt64 (t b i : BitVec 5) (sn e : BitVec 3) (n : Bool) (s : State) : Outcome State Fault Refusal := storeScalar s t b i sn e n 8
/-- SAADD (R157). -/
def execSaadd (t b i : BitVec 5) (sn e : BitVec 3) (s : State) : Outcome State Fault Refusal :=
  atomicScalar s t sn e (s.x b + s.x i) (fun old => old + s.x t)
/-- SAMAX (R157). -/
def execSamax (t b i : BitVec 5) (sn e : BitVec 3) (s : State) : Outcome State Fault Refusal :=
  atomicScalar s t sn e (s.x b + s.x i) (fun old => if old.slt (s.x t) then s.x t else old)
/-- SASWAP (R157). -/
def execSaswap (t b i : BitVec 5) (sn e : BitVec 3) (s : State) : Outcome State Fault Refusal :=
  atomicScalar s t sn e (s.x b + s.x i) (fun _ => s.x t)
/-- SACAS (R157): i names the expected value, and the address is the base alone. -/
def execSacas (t b i : BitVec 5) (sn e : BitVec 3) (s : State) : Outcome State Fault Refusal :=
  atomicScalar s t sn e (s.x b) (fun old => if old = s.x i then s.x t else old)

/-! ## Handles (R165, R167) -/

/-- HLD (R167): the reserved bits of a handle read 0 from then on (R165; 00_scope.md R6). -/
def execHld (t : BitVec 4) (b : BitVec 5) (sn e : BitVec 3) (s : State) : Outcome State Fault Refusal :=
  scalarOut s (scalarRead s sn e 32 (s.x b) fun s v =>
    { s with th := { s.th with h := vwrite s.th.h t.toNat (hClean (BitVec.ofNat 256 v)) } }.advance)

/-- HST (R167). -/
def execHst (t : BitVec 4) (b : BitVec 5) (sn e : BitVec 3) (s : State) : Outcome State Fault Refusal :=
  let a := s.x b
  let v := vread s.th.h t.toNat
  scalarOut s (scalarAccess s true true 32 sn e a fun s p => do
    match p with
    | .mem key => return (← blockingWrite s sn a key (leBytes 32 v.toNat)).advance
    | .reg _ => throw (.trap 0x25 a))

/-- HGET (R167): a selector above 3 takes cause 0x26. -/
def execHget (t : BitVec 5) (b : BitVec 4) (i : BitVec 5) (s : State) : Outcome State Fault Refusal :=
  if 3 < (s.x i).toNat then .next (trapAt s 0x26 (s.x i) none)
  else .next (s.ret t (hWord (vread s.th.h b.toNat) (s.x i).toNat))

/-- The RW bits of word i of a handle (R165). -/
def handleRw (i : Nat) : Word :=
  match i with
  | 2 => 0x100FF7F#64
  | 3 => 0
  | _ => BitVec.allOnes 64

/-- A handle with word i written in its RW fields (R167). -/
def setHandleWord (h : BitVec 256) (i : Nat) (v : Word) : BitVec 256 :=
  let w (j : Nat) : Word := if j = i then (hWord h j &&& ~~~handleRw j) ||| (v &&& handleRw j) else hWord h j
  hOfWords (w 0) (w 1) (w 2) (w 3)

/-- HSET (R167): a selector above 3, or a write of words 0 to 2 while RLP = 1, takes cause 0x26. R176 gives EVAL as word 2 of the handle
or xi without saying which; the model's choice is xi for both (DESIGN CHOICE; log 105). -/
def execHset (t : BitVec 4) (b i : BitVec 5) (s : State) : Outcome State Fault Refusal :=
  let h := vread s.th.h t.toNat
  let sel := (s.x i).toNat
  if 3 < sel || (sel < 3 && hRlp h) then .next (trapAt s 0x26 (s.x i) none)
  else .next { s with th := { s.th with h := vwrite s.th.h t.toNat (setHandleWord h sel (s.x b)) } }.advance

/-! ## JTAB (04 R107, R108) -/

/-- JTAB: the table's entry is read as LD64 would read it, in no stream. -/
def execJtab (d a : BitVec 5) (l : BitVec 12) (s : State) : Outcome State Fault Refusal :=
  let index := s.x a
  if l.toNat ≤ index.toNat then .next s.advance
  else
    let ea := s.x d + 8 * index
    let read : Except Stop (Word × State) := do
      scalarReady s (tagOf ea == 0xF)
      match ← checkAccess s s.agent false 8 8 0 ea with
      | .mem key =>
        let s := flushLine (forceOverlap s s.cur key 8) key
        if remoteKey s.cur key then ownWrites s s.cur key
        meetsBad s s.agent false key 8 0 ea
        return (memWord s.mem key, readLine (s.correct key 8) s.cur ea key)
      | .reg r => regRead s s.cur r
    match read with
    | .error st => stopAt s st none
    | .ok (entry, s') => if targetOk entry then transfer s' entry 0 else .next (trapAt s 0x08 entry none)

end Sys2Proof.Machine
end

