-- ==== Sys2Proof/Machine/VecMem.lean ====
section
/-! DEFINITION. Majors 0x22 to 0x2A: vector loads and stores, gathers and scatters, atomics and reduces, tensor handles, feeds and
Pantry access (06_memory_isa.md R153-R176, 09_core.md R210). -/

namespace Sys2Proof.Machine

open Host (Outcome)

/-! ## Element addresses -/

/-- The bytes that an element of w bits takes at its address. -/
abbrev elemBytes (w : Nat) : Nat := max 1 (w / 8)

/-- An address n elements of w bits above a base, with the nibble of a 4-bit element (R4, R158). -/
def stepAddr (base : Word) (w : Nat) (n : Int) : Word × Bool :=
  if w = 4 then (base + BitVec.ofInt 64 (n / 2), n % 2 == 1) else (base + BitVec.ofInt 64 (n * (w / 8 : Nat)), false)

/-- A(i) of VLDS: i strides from the base; a stride counts nibbles at SEW 4 (R158). -/
def strideAddr (base stride : Word) (w i : Nat) : Word × Bool :=
  if w = 4 then stepAddr base 4 (i * stride.toInt) else (base + BitVec.ofNat 64 i * stride, false)

/-- A(i) of VLD2D (R158). At SEW 4, where the stride counts nibbles, the model takes it as signed, as R158 does for VLDS (DESIGN CHOICE;
log 104); at other widths the sum modulo 2^64 is the same either way. -/
def gridAddr (base stride : Word) (w cols i : Nat) : Word × Bool :=
  if w = 4 then stepAddr base 4 (rowOf cols i * stride.toInt + colOf cols i)
  else (base + BitVec.ofNat 64 (rowOf cols i) * stride + BitVec.ofNat 64 (colOf cols i * (w / 8)), false)

/-- An indexed address inside the channel window that the base names (R161); none for the masking index. -/
def indexAddr (base : Word) (w i idx : Nat) : Except Stop (Option (Word × Bool)) :=
  if idx = 0xFFFFFFFF then .ok none
  else
    let o := offOf base + (if w = 4 then idx / 2 else idx * (w / 8))
    if 2 ^ 43 ≤ o then .error (.trap 0x23 (BitVec.ofNat 64 (i * 2 ^ 32 + idx)))
    else .ok (some ((base &&& 0xFFFFF80000000000#64) ||| BitVec.ofNat 64 o, w = 4 && idx % 2 = 1))

/-- The logical coordinates of element i of CLD and CST (R168): none beyond the last element of a linear walk. -/
def elemCoord (t : Shape) (start : Word) (cols i : Nat) : Coord :=
  let c : Coord := ⟨(bits start 0 16).toNat, (bits start 16 16).toNat, (bits start 32 16).toNat, (bits start 48 16).toNat⟩
  if cols = 0 then
    if c.c0 < t.d0 && c.c1 < t.d1 && c.c2 < t.d2 && c.c3 < t.d3 then
      let n := storageIndex 0 t c + i
      ⟨n % t.d0, n / t.d0 % t.d1, n / (t.d0 * t.d1) % t.d2, n / (t.d0 * t.d1 * t.d2)⟩
    else c
  else { c with c0 := c.c0 + colOf cols i, c1 := c.c1 + rowOf cols i }

/-- The first coordinate that lies outside the tensor. -/
def badCoord (t : Shape) (c : Coord) : Option Nat :=
  if t.d0 ≤ c.c0 then some c.c0 else if t.d1 ≤ c.c1 then some c.c1 else if t.d2 ≤ c.c2 then some c.c2
  else if t.d3 ≤ c.c3 then some c.c3 else none

/-! ## Pantry addresses (R175, 09 R210) -/

/-- The lane of a group byte of the thread, lanes 64 to 127 on the higher core of a gang (R175, 01_thread.md R44). -/
def laneOf (t : Thread) (y : Nat) : Nat := y % (t.rb / 8) / 1024 * 64 + y % 512 / 8

/-- The slot of a group byte: that lane's 8-byte pieces below it. -/
def laneSlot (t : Thread) (y : Nat) : Nat := y / (t.rb / 8) * 2 + y % 1024 / 512

/-- The lane and window offset of element i of PLD and PST, with its nibble. -/
def pantryDirect (op : VOp) (t : Thread) (i : Nat) : Nat × Nat × Bool :=
  let y := i * op.sew / 8
  (laneOf t y, (bits op.xb 0 14).toNat + 8 * laneSlot t y + y % 8, op.sew = 4 && i % 2 = 1)

/-- The same of PLDX and PSTX; none for the masking index. -/
def pantryIndexed (op : VOp) (t : Thread) (i : Nat) : Option (Nat × Nat × Bool) :=
  let idx := t.elem op.a.toNat 32 i
  if idx = 0xFFFFFFFF then none
  else some (laneOf t (i * op.sew / 8), (bits op.xb 0 14).toNat + (if op.sew = 4 then idx / 2 else idx * (op.sew / 8)),
    op.sew = 4 && idx % 2 = 1)

/-! ## Where elements go -/

/-- Whether an instruction is a store. -/
def VKind.stores : VKind → Bool
  | .store _ => true
  | _ => false

/-- An element that an instruction accesses: its number, its address and nibble, and its place. -/
structure Hit where
  i : Nat
  addr : Word
  high : Bool
  place : Place
  deriving DecidableEq, Repr

/-- The checks of R151 on an element access, and those of uncorrectable words at its place: a load, a returning atomic, or a write
in the Larder or a Pantry (R218, R271, R324); a non-blocking load of pod memory meets them when it completes. -/
def placeHit (s : State) (op : VOp) (write reads : Bool) (i : Nat) (a : Word) (high : Bool) : Except Stop Hit := do
  let n := elemBytes op.sew
  let p ← checkAccess s s.agent write n (if op.sew = 4 then 1 else n) i a
  match p with
  | .mem key =>
    if remoteKey s.cur key && (!op.n || (write && !reads && !op.kind.stores)) then ownWrites s s.cur key
    if remoteKey s.cur key && op.n && op.kind.stores then heldReads s s.cur key
    if reads then (if op.n && key < 2 ^ 60 then pure () else meetsBad s s.agent false key n i a)
    else if write then (if key < 2 ^ 60 then pure () else meetsBad s s.agent true key n i a)
  | .reg r => if s.reachable (slotDie s.cur) (nodeOf r) then pure () else throw (.wait (.unreachable r (nodeOf r)))
  return ⟨i, a, high, p⟩

/-- The checks of R151 on an element that is read through a view handle: a block that its engine is capturing does not hold the read,
which finds the contents of the previous capture (14_views_layouts.md R335). -/
def viewHit (s : State) (op : VOp) (i : Nat) (a : Word) (high : Bool) : Except Stop Hit :=
  match placeHit s op false true i a high with
  | .error (.wait (.recall key)) =>
    if ownedByCopy s key || ownedByRelay s key then .error (.wait (.recall key))
    else do
      if op.n then pure () else meetsBad s s.agent false key (elemBytes op.sew) i a
      return ⟨i, a, high, .mem key⟩
  | r => r

/-- The Pantry element of a lane and window offset: its range check, and the marks of its word, unless a store of the same granule
writes all 8 bytes of it (R175, R210, R218). -/
def pantryHit (s : State) (op : VOp) (write : Bool) (covered : Nat → Bool) (i lane off : Nat) (high : Bool) : Except Stop Hit := do
  let n := elemBytes op.sew
  let t := s.th
  let val : Word := BitVec.ofNat 64 (i * 2 ^ 32 + off % 2 ^ 32)
  if t.psize.toNat * 1024 < off + n then throw (.trap 0x29 val)
  let key := windowPlace t s.cur lane + off
  let bad := if write then s.partPoison key n && !covered (key / 8) else s.poisoned key n
  if bad then throw (.pantry (((s.poisonAt key n).getD 0) * 8) val)
  return ⟨i, BitVec.ofNat 64 (9 * 2 ^ 60 + lane * 2 ^ 14 + off), high, .mem key⟩

/-- Whether the active elements of a granule write a word of the Pantry whole, all sixteen 4-bit halves of its bytes. -/
def pantryCovered (s : State) (op : VOp) (act : List Nat) (word : Nat) : Bool :=
  let t := s.th
  let first := act.filterMap (fun i =>
    let p := if op.kind == .store .pantryX then pantryIndexed op t i else some (pantryDirect op t i)
    p.map (fun q => (windowPlace t s.cur q.1 + q.2.1) * 2 + q.2.2.toNat))
  (List.range 16).all (fun b => first.any (fun q => q ≤ word * 16 + b && word * 16 + b < q + op.sew / 4))

/-- The index of element i that VGATHF and VSCATF read from their feed (R172): the masking index beyond the feed's end. -/
def feedIndex (s : State) (op : VOp) (act : List Nat) (i : Nat) : Except Stop (Nat × State) := do
  let a := op.xt + BitVec.ofNat 64 (4 * i)
  if op.feedEnd.toNat < op.xt.toNat + 4 * i + 4 then return (0xFFFFFFFF, s)
  match ← checkAccess s s.agent false 4 4 i a with
  | .mem key =>
    let s := flushLine (forceOverlap s s.cur key 4) key
    if remoteKey s.cur key then ownWrites s s.cur key
    meetsBad s s.agent false key 4 i a
    let s := s.correct key 4
    let before := (act.filter (· < i)).getLast?
    let first := match before with
      | none => true
      | some j => (op.xt.toNat + 4 * j) / 128 != a.toNat / 128
    let s := touchLine s s.coreKey key
    return (leNat (memBytes s.mem key 4), if first then countRequest (fetchData s s.dieKey a key 4) s.th.asid s.dieKey a key else s)
  | .reg _ => throw (.trap 0x25 a)

/-- A contribution waits until the combining buffer of its core has room for it (13_die_memory.md R312). -/
def combRoomFor (w i : Nat) (r : Option Hit × State) : Except Stop (Option Hit × State) :=
  match r.1.map Hit.place with
  | some (.mem key) =>
    if key < 2 ^ 60 && !combRoom r.2 (elemCore r.2 r.2.cur w i) then .error (.wait (.recall key)) else .ok r
  | _ => .ok r

/-- Element i of an instruction resolved: nothing when it is masked, else where it goes (R151, R158-R161, R168, R169, R172, R175). -/
def resolve (s : State) (op : VOp) (act : List Nat) (i : Nat) : Except Stop (Option Hit × State) := do
  let w := op.sew
  let plain (write reads : Bool) (p : Word × Bool) : Except Stop (Option Hit × State) := do
    return (some (← placeHit s op write reads i p.1 p.2), s)
  let indexed (s : State) (write reads : Bool) (idx : Nat) : Except Stop (Option Hit × State) := do
    match ← indexAddr op.xb w i idx with
    | none => return (none, s)
    | some p => return (some (← placeHit s op write reads i p.1 p.2), s)
  let form (f : AddrForm) (write : Bool) : Except Stop (Option Hit × State) := do
    match f with
    | .unit => plain write (!write) (stepAddr op.xb w i)
    | .strided => plain write (!write) (strideAddr op.xb op.xa w i)
    | .twoD => plain write (!write) (gridAddr op.xb op.xa w op.cols.toNat i)
    | .index => indexed s write (!write) (s.th.elem op.a.toNat 32 i)
    | .addrs =>
      let a := s.th.elem op.a.toNat 64 i
      if a = 2 ^ 64 - 1 then return (none, s) else plain write (!write) (BitVec.ofNat 64 a, w = 4 && i % 2 = 1)
    | .feed =>
      let (idx, s) ← feedIndex s op act i
      indexed s write (!write) idx
    | .handle =>
      let t := hShape op.hand
      let c := elemCoord t op.xa op.cols.toNat i
      match badCoord t c with
      | some k => throw (.trap 0x27 (BitVec.ofNat 64 (i * 2 ^ 32 + k)))
      | none =>
        if hVw op.hand then
          let die := s.homeOf s.nodeKey (hAlt op.hand)
          if !s.reachable s.dieKey (nodeOf (hAlt op.hand)) then throw (.wait (.unreachable (hAlt op.hand) (nodeOf (hAlt op.hand))))
          if (viewOf s die (hViewId op.hand) s.th.asid).isNone then throw (.trap 0x26 (hWord op.hand 2))
        let (a, high) ← steer s s.cur (elemCore s s.cur w i) op.hand c
        if hVw op.hand then
          let h ← viewHit s op i a high
          return (some h, ← viewCheck s s.cur op.hand c i)
        else
          let h ← placeHit s op write (!write) i a high
          let die := s.homeOf s.nodeKey (hBase op.hand)
          if (recordOf s die op.hand s.th.asid).isSome then
            return (some h, cacheTile s (elemCore s s.cur w i) die (hRlid op.hand) (storageTile (hLayout op.hand) t c))
          else return (some h, s)
    | .pantry =>
      let (lane, off, high) := pantryDirect op s.th i
      return (some (← pantryHit s op write (pantryCovered s op act) i lane off high), s)
    | .pantryX =>
      match pantryIndexed op s.th i with
      | none => return (none, s)
      | some (lane, off, high) => return (some (← pantryHit s op write (pantryCovered s op act) i lane off high), s)
  match op.kind with
  | .load f => form f false
  | .store f => form f true
  | .pop =>
    let (a, high) := stepAddr op.xt w i
    if op.feedEnd.toNat < op.xt.toNat + i * w / 8 + elemBytes w then return (none, s)
    else plain false true (a, high)
  | .atom _ => indexed s true true (s.th.elem op.a.toNat 32 i)
  | .comb _ => (indexed s true false (s.th.elem op.a.toNat 32 i)).bind (if op.n then .ok else combRoomFor w i)
  | _ => return (none, s)

/-- The active elements of a granule resolved in ascending order; the lowest one that fails stops the granule. -/
def resolveAll (op : VOp) (act : List Nat) : List Nat → State → Except Stop (List Hit × State)
  | [], s => .ok ([], s)
  | i :: r, s => do
    let (h, s) ← resolve s op act i
    let (hs, s) ← resolveAll op act r s
    return (h.toList ++ hs, s)

/-! ## What elements do -/

/-- An element that issues without completing: it joins its operation (R154). -/
def Thread.issueElem (t : Thread) (op : VOp) : Thread := { t.issueOp op.sn op.id 1 with nextOp := t.nextOp }

/-- A pending element of an instruction. -/
def VOp.pend (op : VOp) (asid : BitVec 12) (kind : PendKind) (h : Hit) (key data data2 : Nat) (signed : Bool) : Pend :=
  { kind := kind, op := op.id, sn := op.sn, asid := asid, addr := h.addr, key := key, sew := op.sew, high := h.high, signed := signed,
    dst := op.d, idx := h.i, data := BitVec.ofNat 64 data, data2 := BitVec.ofNat 64 data2, pc := op.addr }

/-- A pending element joins the thread's. -/
def addPend (s : State) (op : VOp) (p : Pend) : State :=
  let t := s.th.issueElem op
  { s with th := { t with pend := t.pend ++ [p] } }

/-- A loading element. -/
def loadHit (s : State) (op : VOp) (h : Hit) : State :=
  match h.place with
  | .mem key =>
    let s := forceOverlap s s.cur key (elemBytes op.sew)
    if op.n then addPend s op (op.pend s.th.asid .load h key 0 0 false)
    else
      let s := (flushLine s key).correct key (elemBytes op.sew)
      let s := { s with th := (s.th.setElem op.d.toNat op.sew h.i (loadElem s key op.sew h.high)).countNow op.sn 1 }
      touchLine s (elemCore s s.cur op.sew h.i) key
  | .reg r =>
    match regRead s s.cur r with
    | .ok (v, s) => { s with th := (s.th.setElem op.d.toNat op.sew h.i v.toNat).countNow op.sn 1 }
    | .error _ => s

/-- A storing element of value v; one of another die goes by a line write, which a blocking instruction completes at its end (18_fabric.md
R412). A partial write of an uncorrectable word of pod memory performs nothing and is reported (R324). -/
def storeHit (s : State) (op : VOp) (h : Hit) (v : Nat) : State :=
  match h.place with
  | .mem key =>
    let w := op.sew
    let n := elemBytes w
    let s := forceOverlap s s.cur key n
    let p := op.pend s.th.asid .store h key v 0 false
    if remoteKey s.cur key then bufferStore { s with th := s.th.issueElem op } (elemCore s s.cur w h.i) (lineWriteOf s.cur p)
    else if op.n then addPend s op p
    else
      let s := flushLine s key
      let s := if key < 2 ^ 60 && s.partPoison key n
        then s.report s.cur s.th.grp ⟨0x2C, op.sn, h.addr, op.addr, BitVec.ofNat 32 h.i⟩
        else storeElem s s.th.asid h.addr key w h.high v
      touchLine { s with th := s.th.countNow op.sn 1 } (elemCore s s.cur w h.i) key
  | .reg r =>
    match regWrite s s.cur r (BitVec.ofNat 64 v) with
    | .ok s => { s with th := s.th.countNow op.sn 1 }
    | .error _ => s

/-- An element of a returning atomic (R163): x its operand, y the expected value of a compare and swap. -/
def atomHit (s : State) (op : VOp) (o : AtomOp) (h : Hit) (x y : Nat) : State :=
  let signed := op.fmt == 0
  match h.place with
  | .mem key =>
    let s := forceOverlap s s.cur key (elemBytes op.sew)
    let s := if key < 2 ^ 60 then registerLine s (elemCore s s.cur op.sew h.i) key else s
    if op.n then addPend s op (op.pend s.th.asid (.atom o) h key x y signed)
    else
      let s := (flushLine s key).correct key (elemBytes op.sew)
      let old := loadElem s key op.sew false
      let s := storeElem s s.th.asid h.addr key op.sew false (atomApply o op.sew signed old x y)
      touchLine { s with th := (s.th.setElem op.d.toNat op.sew h.i old).countNow op.sn 1 } (elemCore s s.cur op.sew h.i) key
  | .reg r =>
    match regRead s s.cur r with
    | .error _ => s
    | .ok (old, s) =>
      match regWrite s s.cur r (BitVec.ofNat 64 (atomApply o op.sew signed old.toNat x y)) with
      | .ok s => { s with th := (s.th.setElem op.d.toNat op.sew h.i old.toNat).countNow op.sn 1 }
      | .error _ => s

/-- A contribution (R164); one of a non-blocking instruction waits for its acceptance as a pending element (R153). -/
def combHit (s : State) (op : VOp) (o : CombOp) (h : Hit) (v : Nat) : State :=
  match h.place with
  | .mem key =>
    let s := forceOverlap s s.cur key (elemBytes op.sew)
    let p := op.pend s.th.asid (.comb o) h key v 0 (op.fmt == 0)
    if op.n then addPend s op p
    else let s := contributeElem s s.cur p o; { s with th := s.th.countNow op.sn 1 }
  | .reg r =>
    match regRead s s.cur r with
    | .error _ => s
    | .ok (old, s) =>
      match regWrite s s.cur r (BitVec.ofNat 64 (combApply o op.sew (op.fmt == 0) old.toNat v)) with
      | .ok s => { s with th := s.th.countNow op.sn 1 }
      | .error _ => s

/-- What an accessing element does; t0 is the thread as it stood before the granule. -/
def performHit (op : VOp) (t0 : Thread) (s : State) (h : Hit) : State :=
  let v := t0.elem op.d.toNat op.sew h.i
  match op.kind with
  | .load _ => loadHit s op h
  | .pop => loadHit s op h
  | .store _ => storeHit s op h v
  | .atom .cas => atomHit s op .cas h (t0.elem (op.d.toNat + op.g) op.sew h.i) v
  | .atom o => atomHit s op o h v 0
  | .comb o => combHit s op o h v
  | _ => s

/-! ## Plans (R156) -/

/-- The index or address group of an instruction (R160). -/
def VOp.groupIx (op : VOp) : List Grp :=
  let grp (w : Nat) : List Grp := [⟨op.a.toNat, groupSize op.vtype w, w⟩]
  match op.kind with
  | .load .index => grp 32
  | .store .index => grp 32
  | .load .pantryX => grp 32
  | .store .pantryX => grp 32
  | .atom _ => grp 32
  | .comb _ => grp 32
  | .load .addrs => grp 64
  | .store .addrs => grp 64
  | _ => []

/-- The register groups that an instruction reads as data. -/
def VOp.memData (op : VOp) : List Grp :=
  match op.kind with
  | .store _ => [op.groupD]
  | .comb _ => [op.groupD]
  | .atom .cas => [op.groupD, { op.groupD with base := op.d.toNat + op.g }]
  | .atom _ => [op.groupD]
  | _ => []

/-- Whether it writes its register group. -/
def VKind.loads : VKind → Bool
  | .load _ => true
  | .pop => true
  | .atom _ => true
  | _ => false

/-- The feed that a popping instruction advances, with the width of what it pops in bits (R172). -/
def VOp.popped (op : VOp) : Option (Nat × Nat) :=
  match op.kind with
  | .pop => some (op.b.toNat, op.sew)
  | .load .feed => some (op.a.toNat, 32)
  | .store .feed => some (op.a.toNat, 32)
  | _ => none

/-- A feed's program-order POS after an instruction's pops (R172). -/
def Thread.popFeed (t : Thread) (op : VOp) : Thread :=
  match op.popped with
  | none => t
  | some (f, w) =>
    let b := vread t.feeds f
    let pos := b.pos.toNat + ceilDiv (op.n_ * w) 8
    { t with feeds := vwrite t.feeds f { b with pos := if b.last.toNat < pos then b.last else BitVec.ofNat 64 pos } }

/-- The line requests of a granule (13_die_memory.md R300): one for each line of pod memory that its accessing elements touch. The
contributions to a combining buffer and the stores to another die leave theirs later. -/
def lineRequests (slot : Nat) (op : VOp) (hits : List Hit) : List (Word × Nat) :=
  let later (key : Nat) : Bool := match op.kind with
    | .comb _ => true
    | .store _ => remoteKey slot key
    | _ => false
  ((hits.filterMap (fun h => match h.place with
    | .mem key => if key < 2 ^ 60 && !later key then some (h.addr.toNat / 128, keyLine key) else none
    | .reg _ => none)).eraseDups).map (fun q => (BitVec.ofNat 64 (q.1 * 128), q.2 * 128))

/-- The lines of other dies that a granule's elements reach, and what travels: the data of a blocking load, the request of a non-blocking
load or atomic, whose answer follows, and an atomic or a check with its answer (R152; 18_fabric.md R406, R411). -/
def askLines (op : VOp) (hits : List Hit) (s : State) : State :=
  let lines := (hits.filterMap (fun h => match h.place with
    | .mem key => if remoteKey s.cur key then some (h.addr.toNat / 128, keyLine key) else none
    | .reg _ => none)).eraseDups
  lines.foldl (fun s q =>
    let a : Word := BitVec.ofNat 64 (q.1 * 128)
    let key := q.2 * 128
    match op.kind with
    | .store _ => askHome s s.dieKey a key
    | .comb _ => askHome s s.dieKey a key
    | .atom _ => if op.n then message s s.dieKey (keyDie key) 0x10 (leBytes 8 a.toNat) else askHome s s.dieKey a key
    | _ => if op.n then message s s.dieKey (keyDie key) 0x10 (leBytes 8 a.toNat)
      else if tagOf a = 0xC then s else fetchData s s.dieKey a key 128) s

/-- A granule's stores to another die wait until their cores' write buffers have room (18_fabric.md R412, R414). -/
def storeRoom (s : State) (op : VOp) (hits : List Hit) : Except Stop Unit :=
  let new (core : Nat) : List Nat := (hits.filterMap (fun h => match h.place with
    | .mem key => if remoteKey s.cur key && elemCore s s.cur op.sew h.i == core
        && !(s.core core).wbuf.any (fun e => e.slot == s.cur && e.sn == op.sn && e.key == key / 128 * 128) then some (key / 128) else none
    | .reg _ => none)).eraseDups
  if !op.kind.stores then .ok () else
  match (s.coresOf s.cur).find? (fun c => !bufferRoom s c (new c).length) with
  | some _ => .error (.wait .queue)
  | none => .ok ()

/-- A granule of a memory instruction (R156): the checks of all its elements, then the counts, then what they do. A word of the Pantry that
its elements write whole is fresh, and no error of it is met (09_core.md R218). -/
def memGranule (op : VOp) (last : Bool) (g : Nat) (s : State) : Except Stop State := do
  let t0 := s.th
  let es := granuleElems op.sew op.n_ g
  match t0.badRead op.k (op.groupIx ++ op.memData) es with
  | some v => throw (.trap 0x2B v)
  | none => pure ()
  let s ← edgeOrder s op.edge
  if !s.th.ops.any (fun o => o.id == op.id) then checkExhausted s op.sn es.length
  let act := es.filter (t0.active op.k)
  let (hits, s) ← resolveAll op act act s
  storeRoom s op hits
  let covered := match op.kind with
    | .store .pantry => true
    | .store .pantryX => true
    | _ => false
  let keeps (w : Nat) : Bool := w * 8 < 2 ^ 61 || !pantryCovered { s with th := t0 } op act w
  let s := if covered then { s with poison := s.poison.filter keeps, soft := s.soft.filter (fun w => keeps w.1) } else s
  let s := askLines op hits (if op.kind.stores then mergeStream s op.sn else s)
  let s := (lineRequests s.cur op hits).foldl (fun s (p : Word × Nat) => countRequest s s.th.asid s.dieKey p.1 p.2) (hits.foldl (performHit op t0) s)
  let s := if op.kind.stores && !op.n then landLines s s.cur (fun w => w.elems.any (fun e => e.op == op.id)) else s
  let t := s.th.countNow op.sn (es.length - hits.length)
  let t := if op.kind.loads then t.mendWritten op.groupD (fun i => hits.any (fun h => h.i == i)) else t
  let t := if last then { t with nextOp := max t.nextOp (op.id + 1) } else t
  return { s with th := { t with stalls := [] } }

/-- The plan of a memory instruction. -/
def memPlan (op : VOp) : VPlan :=
  let n := liveGranules op.sew op.n_
  { steps := n, live := n, cw := op.sew, dsts := if op.kind.loads then [op.groupD] else [],
    gran := fun g => memGranule op (g + 1 == n) g }

/-- The checks of R53 on a memory instruction's groups (R19, R20, R160). R160 lets a gather use its own index group as vt only with the
same base at SEW 32; the model refuses every other overlap of a gather's vt with its 32-bit index group too (DESIGN CHOICE; log 103). -/
def memChecks (t : Thread) (op : VOp) (typeOk : Bool) : Check := do
  need (typeOk && op.groupIx.all (fun g => g.n ≤ 8)) 0x03
  need (aligned op.d (if op.kind == .atom .cas then 2 * op.g else op.g) && op.groupIx.all (fun g => g.base % g.n == 0)) 0x05
  need (!op.kind.loads || op.groupIx.all (fun g =>
    if op.kind = .load .index then !op.groupD.overlaps g || (op.d == op.a && op.sew = 32) else overlapOk t.gpr op.sew op.groupD g)) 0x05

/-- Whether an instruction may access the register and control space, tag 0xF: one of 8-byte elements at system privilege outside the
Pantry (R149, R151). -/
def VOp.serialises (op : VOp) (t : Thread) : Bool :=
  t.priv && op.sew == 64 && op.kind != .load .pantry && op.kind != .store .pantry && op.kind != .load .pantryX
    && op.kind != .store .pantryX

/-- A memory instruction issues: the checks of its word, a scalar faulting point of its own, then its granules (R53, R176). A popping
one advances its feed when it is pushed, or when it commits. One that may access tag 0xF serialises: it waits for the queue and runs at
once (R149, R29). -/
def issueMem (s : State) (op : VOp) (typeOk : Bool) (bad : Option (BitVec 7 × Word)) : Outcome State Fault Refusal :=
  match memChecks s.th op typeOk, bad with
  | .error c, _ => .next (trapAt s c op.word none)
  | .ok _, some (c, v) => .next (trapAt s c v none)
  | .ok _, none =>
    if s.runsAhead && !(op.serialises s.th && s.th.vq.isEmpty) then
      if s.th.queueRoom && !op.serialises s.th then
        let s := pushVec s op
        .next { s with th := s.th.popFeed op }
      else .next (s.enterWait .queue none)
    else startVec s op (memPlan op) (fun s => { s with th := s.th.popFeed op }.advance)

/-- A memory instruction as the scalar part captures it: t the transfer group, b the base, i the third field. -/
def State.mop (s : State) (kind : VKind) (t b i : BitVec 5) (sn e : BitVec 3) (k n : Bool) (word : BitVec 32) : VOp :=
  { s.vop kind t i b word with sn := sn, edge := s.th.edge e, k := k, n := n }

/-! ## Majors 0x22 and 0x23 (R158) -/

/-- VLD (R158). -/
def execVld (t b : BitVec 5) (sn e : BitVec 3) (k n : Bool) (s : State) : Outcome State Fault Refusal :=
  issueMem s (s.mop (.load .unit) t b 0 sn e k n (wordOf (.vld t b sn e k n))) true none
/-- VLDS (R158). -/
def execVlds (t b i : BitVec 5) (sn e : BitVec 3) (k n : Bool) (s : State) : Outcome State Fault Refusal :=
  issueMem s (s.mop (.load .strided) t b i sn e k n (wordOf (.vlds t b i sn e k n))) true none
/-- VLD2D (R158). -/
def execVld2d (t b i : BitVec 5) (sn e : BitVec 3) (k n : Bool) (s : State) : Outcome State Fault Refusal :=
  issueMem s (s.mop (.load .twoD) t b i sn e k n (wordOf (.vld2d t b i sn e k n))) true none
/-- VST (R158). -/
def execVst (t b : BitVec 5) (sn e : BitVec 3) (k n : Bool) (s : State) : Outcome State Fault Refusal :=
  issueMem s (s.mop (.store .unit) t b 0 sn e k n (wordOf (.vst t b sn e k n))) true none
/-- VSTS (R158). -/
def execVsts (t b i : BitVec 5) (sn e : BitVec 3) (k n : Bool) (s : State) : Outcome State Fault Refusal :=
  issueMem s (s.mop (.store .strided) t b i sn e k n (wordOf (.vsts t b i sn e k n))) true none
/-- VST2D (R158). -/
def execVst2d (t b i : BitVec 5) (sn e : BitVec 3) (k n : Bool) (s : State) : Outcome State Fault Refusal :=
  issueMem s (s.mop (.store .twoD) t b i sn e k n (wordOf (.vst2d t b i sn e k n))) true none

/-! ## Majors 0x24 and 0x25 (R159-R162) -/

/-- The checks of a feed at push (R172): unbound, cause 0x28 with the feed's number; P0 no multiple of W, cause 0x25. -/
def feedFails (t : Thread) (f : BitVec 2) (w : Nat) : Option (BitVec 7 × Word) :=
  let b := vread t.feeds f.toNat
  if !b.bound then some (0x28, f.zeroExtend 64)
  else if b.pos.toNat % elemBytes w != 0 then some (0x25, b.pos)
  else none

/-- A popping instruction's capture of its feed: P0 and END (R172). -/
def VOp.withFeed (op : VOp) (t : Thread) (f : BitVec 2) : VOp :=
  { op with xt := (vread t.feeds f.toNat).pos, feedEnd := (vread t.feeds f.toNat).last }

/-- VGATH (R159, R161). -/
def execVgath (t b i : BitVec 5) (sn e : BitVec 3) (k n : Bool) (s : State) : Outcome State Fault Refusal :=
  issueMem s (s.mop (.load .index) t b i sn e k n (wordOf (.vgath t b i sn e k n))) true none
/-- VGATHA (R159, R161). -/
def execVgatha (t i : BitVec 5) (sn e : BitVec 3) (k n : Bool) (s : State) : Outcome State Fault Refusal :=
  issueMem s (s.mop (.load .addrs) t 0 i sn e k n (wordOf (.vgatha t i sn e k n))) true none
/-- VGATHF (R159, R161, R172). -/
def execVgathf (t b : BitVec 5) (i : BitVec 2) (sn e : BitVec 3) (k n : Bool) (s : State) : Outcome State Fault Refusal :=
  issueMem s ((s.mop (.load .feed) t b (i.zeroExtend 5) sn e k n (wordOf (.vgathf t b i sn e k n))).withFeed s.th i) true
    (feedFails s.th i 32)
/-- VSCAT (R159, R161). -/
def execVscat (t b i : BitVec 5) (sn e : BitVec 3) (k n : Bool) (s : State) : Outcome State Fault Refusal :=
  issueMem s (s.mop (.store .index) t b i sn e k n (wordOf (.vscat t b i sn e k n))) true none
/-- VSCATA (R159, R161). -/
def execVscata (t i : BitVec 5) (sn e : BitVec 3) (k n : Bool) (s : State) : Outcome State Fault Refusal :=
  issueMem s (s.mop (.store .addrs) t 0 i sn e k n (wordOf (.vscata t i sn e k n))) true none
/-- VSCATF (R159, R161, R172). -/
def execVscatf (t b : BitVec 5) (i : BitVec 2) (sn e : BitVec 3) (k n : Bool) (s : State) : Outcome State Fault Refusal :=
  issueMem s ((s.mop (.store .feed) t b (i.zeroExtend 5) sn e k n (wordOf (.vscatf t b i sn e k n))).withFeed s.th i) true
    (feedFails s.th i 32)

/-! ## Majors 0x26 and 0x27 (R163, R164) -/

/-- SEW of 32 or 64. -/
def wideSew (w : Word) : Bool := vtBits w == 32 || vtBits w == 64

/-- A returning atomic or commutative reduce with its type rule. -/
def issueAtom (s : State) (op : VOp) (fmtOk : Bool) : Outcome State Fault Refusal := issueMem s op (wideSew op.vtype && fmtOk) none

/-- VAADD (R163). -/
def execVaadd (t b i : BitVec 5) (sn e : BitVec 3) (k n : Bool) (s : State) : Outcome State Fault Refusal :=
  issueAtom s (s.mop (.atom .add) t b i sn e k n (wordOf (.vaadd t b i sn e k n))) (vtFmt s.th.vtype ≤ 1)
/-- VAMIN (R163). -/
def execVamin (t b i : BitVec 5) (sn e : BitVec 3) (k n : Bool) (s : State) : Outcome State Fault Refusal :=
  issueAtom s (s.mop (.atom .min) t b i sn e k n (wordOf (.vamin t b i sn e k n))) (vtFmt s.th.vtype ≤ 1)
/-- VAMAX (R163). -/
def execVamax (t b i : BitVec 5) (sn e : BitVec 3) (k n : Bool) (s : State) : Outcome State Fault Refusal :=
  issueAtom s (s.mop (.atom .max) t b i sn e k n (wordOf (.vamax t b i sn e k n))) (vtFmt s.th.vtype ≤ 1)
/-- VAOR (R163). -/
def execVaor (t b i : BitVec 5) (sn e : BitVec 3) (k n : Bool) (s : State) : Outcome State Fault Refusal :=
  issueAtom s (s.mop (.atom .or) t b i sn e k n (wordOf (.vaor t b i sn e k n))) (vtFmt s.th.vtype ≤ 1)
/-- VASWAP (R163). -/
def execVaswap (t b i : BitVec 5) (sn e : BitVec 3) (k n : Bool) (s : State) : Outcome State Fault Refusal :=
  issueAtom s (s.mop (.atom .swap) t b i sn e k n (wordOf (.vaswap t b i sn e k n))) true
/-- VACAS (R163). -/
def execVacas (t b i : BitVec 5) (sn e : BitVec 3) (k n : Bool) (s : State) : Outcome State Fault Refusal :=
  issueAtom s (s.mop (.atom .cas) t b i sn e k n (wordOf (.vacas t b i sn e k n))) true
/-- VCADD (R163). -/
def execVcadd (t b i : BitVec 5) (sn e : BitVec 3) (k n : Bool) (s : State) : Outcome State Fault Refusal :=
  issueAtom s (s.mop (.comb .add) t b i sn e k n (wordOf (.vcadd t b i sn e k n))) (vtFmt s.th.vtype ≤ 1)
/-- VCMIN (R163). -/
def execVcmin (t b i : BitVec 5) (sn e : BitVec 3) (k n : Bool) (s : State) : Outcome State Fault Refusal :=
  issueAtom s (s.mop (.comb .min) t b i sn e k n (wordOf (.vcmin t b i sn e k n))) (vtFmt s.th.vtype ≤ 1)
/-- VCMAX (R163). -/
def execVcmax (t b i : BitVec 5) (sn e : BitVec 3) (k n : Bool) (s : State) : Outcome State Fault Refusal :=
  issueAtom s (s.mop (.comb .max) t b i sn e k n (wordOf (.vcmax t b i sn e k n))) (vtFmt s.th.vtype ≤ 1)
/-- VCFADD (R163). -/
def execVcfadd (t b i : BitVec 5) (sn e : BitVec 3) (k n : Bool) (s : State) : Outcome State Fault Refusal :=
  issueAtom s (s.mop (.comb .fadd) t b i sn e k n (wordOf (.vcfadd t b i sn e k n))) (vtFmt s.th.vtype == 2)
/-- VCFMAX (R163). -/
def execVcfmax (t b i : BitVec 5) (sn e : BitVec 3) (k n : Bool) (s : State) : Outcome State Fault Refusal :=
  issueAtom s (s.mop (.comb .fmax) t b i sn e k n (wordOf (.vcfmax t b i sn e k n))) (vtFmt s.th.vtype == 2)

/-! ## CLD and CST (R168) -/

/-- The checks of the handle, before any element. -/
def handleFails (h : BitVec 256) (vtype : Word) (write : Bool) : Option (BitVec 7 × Word) :=
  if !hV h || 4 < hLayout h || hFmt h != vtFmt vtype || hSew h != vtSew vtype then some (0x26, hWord h 2)
  else if write && hVw h then some (0x22, 0)
  else none

/-- CLD (R168). -/
def execCld (t : BitVec 5) (b : BitVec 4) (i : BitVec 5) (sn e : BitVec 3) (k n : Bool) (s : State) : Outcome State Fault Refusal :=
  let h := vread s.th.h b.toNat
  issueMem s { s.mop (.load .handle) t 0 i sn e k n (wordOf (.cld t b i sn e k n)) with hand := h } true (handleFails h s.th.vtype false)
/-- CST (R168). -/
def execCst (t : BitVec 5) (b : BitVec 4) (i : BitVec 5) (sn e : BitVec 3) (k n : Bool) (s : State) : Outcome State Fault Refusal :=
  let h := vread s.th.h b.toNat
  issueMem s { s.mop (.store .handle) t 0 i sn e k n (wordOf (.cst t b i sn e k n)) with hand := h } true (handleFails h s.th.vtype true)

/-! ## Feeds: major 0x29 (R170-R173) -/

/-- A feed binding replaced. -/
def State.setFeed (s : State) (f : BitVec 2) (b : Feed) : State :=
  { s with th := { s.th with feeds := vwrite s.th.feeds f.toNat b } }

/-- FBIND (R171). -/
def execFbind (t : BitVec 2) (b i : BitVec 5) (s : State) : Outcome State Fault Refusal :=
  let base := s.x b
  if !(tagOf base == 0 || tagOf base == 8 || tagOf base == 0xC) || 2 ^ 64 ≤ base.toNat + (s.x i).toNat
  then .next (trapAt s 0x28 base none)
  else .next (s.setFeed t ⟨base, base + s.x i, base, true⟩).advance

/-- FPOP (R171, R172). -/
def execFpop (t : BitVec 5) (b : BitVec 2) (sn e : BitVec 3) (k n : Bool) (s : State) : Outcome State Fault Refusal :=
  issueMem s ((s.mop .pop t (b.zeroExtend 5) 0 sn e k n (wordOf (.fpop t b sn e k n))).withFeed s.th b) true
    (feedFails s.th b (vtBits s.th.vtype))

/-- FTRIM (R171): END = min(END, POS + xb). -/
def execFtrim (t : BitVec 2) (b : BitVec 5) (s : State) : Outcome State Fault Refusal :=
  let f := vread s.th.feeds t.toNat
  if !f.bound then .next (trapAt s 0x28 (t.zeroExtend 64) none)
  else .next (s.setFeed t { f with last := BitVec.ofNat 64 (min f.last.toNat (f.pos.toNat + (s.x b).toNat)) }).advance

/-- FFREE (R171). -/
def execFfree (t : BitVec 2) (s : State) : Outcome State Fault Refusal :=
  .next (s.setFeed t { vread s.th.feeds t.toNat with bound := false }).advance

/-! ## The Pantry: major 0x2A (R174, R175) -/

/-- The limits on xb at push: cause 0x29 above the offset field, 0x25 when it is no multiple of its unit. -/
def pantryFails (xb : Word) (unit : Nat) : Option (BitVec 7 × Word) :=
  if bits xb 14 50 != 0 then some (0x29, (bits xb 0 32).zeroExtend 64)
  else if xb.toNat % unit != 0 then some (0x25, xb)
  else none

/-- PLD (R174, R175). -/
def execPld (t b : BitVec 5) (sn e : BitVec 3) (k n : Bool) (s : State) : Outcome State Fault Refusal :=
  issueMem s (s.mop (.load .pantry) t b 0 sn e k n (wordOf (.pld t b sn e k n))) true (pantryFails (s.x b) 8)
/-- PST (R174, R175). -/
def execPst (t b : BitVec 5) (sn e : BitVec 3) (k n : Bool) (s : State) : Outcome State Fault Refusal :=
  issueMem s (s.mop (.store .pantry) t b 0 sn e k n (wordOf (.pst t b sn e k n))) true (pantryFails (s.x b) 8)
/-- PLDX (R174, R175). -/
def execPldx (t b i : BitVec 5) (sn e : BitVec 3) (k n : Bool) (s : State) : Outcome State Fault Refusal :=
  issueMem s (s.mop (.load .pantryX) t b i sn e k n (wordOf (.pldx t b i sn e k n))) true
    (pantryFails (s.x b) (elemBytes (vtBits s.th.vtype)))
/-- PSTX (R174, R175). -/
def execPstx (t b i : BitVec 5) (sn e : BitVec 3) (k n : Bool) (s : State) : Outcome State Fault Refusal :=
  issueMem s (s.mop (.store .pantryX) t b i sn e k n (wordOf (.pstx t b i sn e k n))) true
    (pantryFails (s.x b) (elemBytes (vtBits s.th.vtype)))

end Sys2Proof.Machine
end

