-- ==== Sys2Proof/Machine/Streams.lean ====
section
/-! DEFINITION. Major 0x2B: the stream counters and edge registers (07_streams.md R185-R189, R197). -/

namespace Sys2Proof.Machine

open Host (Outcome)

/-- A queued instruction that names a stream, or a scalar access behind one, has not counted (R186, R188, R189): the reader of the
stream waits. -/
def streamCounted (s : State) (sn : BitVec 3) : Except Stop Unit :=
  if s.th.vq.any (fun v => v.op.kind.touchesMemory && v.op.sn == sn || v.counts.contains sn) then .error (.wait .queue) else .ok ()

/-- A comparison of counts (R186): whether the counter has reached the target. -/
def reached (counter target : Word) : Bool := !(counter - target).slt 0

/-- Whether a contribution of a stream of the thread that runs is held in a combining buffer that can still merge it. -/
def contributionHeld (s : State) (sn : BitVec 3) : Bool :=
  (s.coresOf s.cur).any (fun c => !(s.core c).dead && (s.core c).comb.any (fun e => e.slot == s.cur && e.sn == sn))

/-- WAITC (R189): a target above the issued count takes cause 0x0B; everything of the stream that can complete by itself does, and
its held contributions merge; then the count must be reached, and no contribution may be held, as it is while an engine owns its line. -/
def waitStream (s : State) (sn : BitVec 3) (target : Word) : Except Stop State := do
  streamCounted s sn
  if (0#64).slt (target - vread s.th.ic sn.toNat) then throw (.trap 0x0B target)
  let s := forceStreams s s.cur (· == sn)
  if reached (vread s.th.cc sn.toNat) target && !contributionHeld s sn then return s.advance else throw (.wait (.stream sn))

/-- WAITC (R188, R189). -/
def execWaitc (b : BitVec 5) (sn : BitVec 3) (s : State) : Outcome State Fault Refusal := scalarOut s (waitStream s sn (s.x b))

/-- MFIC (R188). -/
def execMfic (t : BitVec 5) (sn : BitVec 3) (s : State) : Outcome State Fault Refusal :=
  scalarOut s (do streamCounted s sn; return s.ret t (vread s.th.ic sn.toNat))

/-- MFCC (R188). -/
def execMfcc (t : BitVec 5) (sn : BitVec 3) (s : State) : Outcome State Fault Refusal := .next (s.ret t (vread s.th.cc sn.toNat))

/-- MFE (R188). -/
def execMfe (t : BitVec 5) (e : BitVec 3) (s : State) : Outcome State Fault Refusal := .next (s.ret t ((s.th.edge e).zeroExtend 64))

/-- MTE (R188): a write to e0 is discarded. -/
def execMte (b : BitVec 5) (e : BitVec 3) (s : State) : Outcome State Fault Refusal :=
  if e = 0 then .next s.advance
  else .next { s with th := { s.th with e := vwrite s.th.e e.toNat (bits (s.x b) 0 8) } }.advance

/-- The body of MTSS (R188): it waits for the vector queue, which R188 lets it, so that no trap of older work has to undo it (01_thread.md
R32), and until OC is 0. -/
def setStream (s : State) (sn : BitVec 3) (v : Word) : Except Stop State := do
  if !s.th.vq.isEmpty then throw (.wait .queue)
  let s := forceStreams s s.cur (· == sn)
  if s.th.oc sn != 0 then throw (.wait (.stream sn))
  return { s with th := { s.th with ic := vwrite s.th.ic sn.toNat v, cc := vwrite s.th.cc sn.toNat v } }.advance

/-- MTSS (R188), privileged (R60). -/
def execMtss (b : BitVec 5) (sn : BitVec 3) (s : State) : Outcome State Fault Refusal :=
  privileged s ((wordOf (.mtss b sn)).zeroExtend 64) fun s => scalarOut s (setStream s sn (s.x b))

/-- A waiting instruction of a slot's thread is tried again (R257): `act` picks the instruction at its pc. -/
def retryAt (s : State) (slot : Nat) (act : Instr → State → Option (Outcome State Fault Refusal)) : Outcome State Fault Refusal :=
  let f := s.focus slot
  if f.th.slot != .running || f.th.wait.isNone then .next s else
  match fetch f with
  | .ok i => (act i f).getD (.next s)
  | .error _ => .next s

/-- WAITC_SATISFIED (R189): a waiting WAITC, MFIC or MTSS goes on once its count is there. -/
def execWaitcSatisfied (slot : Nat) (s : State) : Outcome State Fault Refusal :=
  retryAt s slot fun i s =>
    match i with
    | .waitc b sn => some (execWaitc b sn s)
    | .mtss b sn => some (execMtss b sn s)
    | .mfic t sn => some (execMfic t sn s)
    | _ => none

end Sys2Proof.Machine
end

