-- ==== Sys2Proof/Machine/Views.lean ====
section
/-! DEFINITION. Majors 0x2C and 0x2D: VIEWREG, VIEWDROP, VIEWQ, VIEWSYNC and RELAYOUT (14_views_layouts.md R327-R348). -/

namespace Sys2Proof.Machine

open Host (Outcome)

/-- An instruction that R193 orders against every memory operation of its thread: it waits for the queue and for everything
outstanding, and then acts at a scalar faulting point. -/
def ordered193 (s : State) (act : State → Except Stop State) : Outcome State Fault Refusal :=
  match s.th.vq with
  | [] => scalarOut s (do act (← edgeOrder s 0xFF))
  | _ => .next (s.enterWait .queue none)

/-! ## Storage -/

/-- The spans of addresses that a tensor's storage takes, as (address, bytes); SHARD takes one on each die (R166). -/
def storageSpans (layout : Nat) (base : Word) (t : Shape) : List (Nat × Nat) :=
  (layoutSpans layout base t).map (fun q => (q.1.toNat, q.2))

/-- Whether two lists of spans share an address. -/
def spansMeet (xs ys : List (Nat × Nat)) : Bool := xs.any (fun x => ys.any (fun y => x.1 < y.1 + y.2 && y.1 < x.1 + x.2))

/-- Whether n bytes from a base stay inside its channel window. -/
def inWindow (base : Word) (n : Nat) : Bool := offOf base + n ≤ 2 ^ 43

/-- The bytes of a view's storage from VB (R330). -/
def viewBytes (fmt layout : Nat) (t : Shape) : Nat :=
  if fmt = 6 then (t.count / 2 + t.count / 64 + 3) / 4 * 4 + 4 * (t.count / (if layout = 1 then t.d1 else t.d0))
  else storageBytes layout t

/-- Whether a handle's record still steers it. -/
def liveRecord (s : State) (die : Nat) (h : BitVec 256) (asid : BitVec 12) : Option Relay :=
  match recordOf s die h asid with
  | some r => if r.steers then some r else none
  | none => none

/-! ## VIEWREG (R327, R329-R331, R337) -/

/-- R327: whether a handle can be a master. -/
def masterOk (h : BitVec 256) : Bool :=
  hV h && !hVw h && pairLegal (hFmt h) (hSew h) && hFmt h != 6 && hLayout h ≤ 3 && tagOf (hBase h) == 0 && nodeOf (hBase h) ≤ 127
    && offOf (hBase h) % 16384 == 0 && inWindow (hBase h) (storageBytes (hLayout h) (hShape h))

/-- The first words of a record of n bytes that an instruction reads for itself, as the thread's agent. -/
def readRecord (s : State) (a : Word) (n align : Nat) : Except Stop (Word × Word × State) := do
  match ← checkAccess s s.agent false n align 0 a with
  | .mem key =>
    meetsBad s s.agent false key n 0 a
    let s := ((flushLine s key).correct key n).touchRead s.coreKey a key n
    return (memWord s.mem key, memWord s.mem (key + 8), s)
  | .reg _ => throw (.trap 0x20 a)

/-- Reasons 2 and 3 of a descriptor for a master's shape (R329, R330). -/
def descFails (w0 : Word) (t : Shape) : Option Nat :=
  let fmt := (bits w0 0 4).toNat
  let layout := (bits w0 8 8).toNat
  let line := if layout = 1 then t.d1 else t.d0
  if bit w0 7 || bits w0 18 46 != 0 || bits w0 16 2 == 3 || !pairLegal fmt (bits w0 4 3).toNat || 4 < layout then some 2
  else if fmt = 6 && (1 < layout || !(List.range 9).any (fun j => line == 64 * 2 ^ j)) then some 3
  else none

/-- Reason 4: the view's storage (R330). -/
def storageFails (w0 vb : Word) (t : Shape) (taken : List (Nat × Nat)) : Bool :=
  let fmt := (bits w0 0 4).toNat
  let layout := (bits w0 8 8).toNat
  let tv := { t with sew := sewBits (bits w0 4 3).toNat }
  let n := viewBytes fmt layout tv
  tagOf vb != 0 || 127 < nodeOf vb || vb.toNat % 4096 != 0 || !inWindow vb n
    || spansMeet (if layout = 4 then storageSpans 4 vb tv else [(vb.toNat, n)]) taken

/-- The view handle image (R331). -/
def viewImage (h : BitVec 256) (w0 vb : Word) (viewId : BitVec 16) : BitVec 256 :=
  hOfWords vb (hWord h 1)
    (hWord2 (bits w0 0 4).toNat (bits w0 4 3).toNat (bits w0 8 8).toNat 0 true false true viewId.toNat 0) (hBase h)

/-- The handle that the view engine keeps as a view's master: its old form while its record steers it (R344, R346). -/
def masterForm (h : BitVec 256) (r : Option Relay) : BitVec 256 :=
  match r with
  | some r => hOfWords r.altBase (hWord h 1) (hWord2 (hFmt h) (hSew h) r.oldLayout.toNat 0 true false false 0 0) 0
  | none => hOfWords (hBase h) (hWord h 1) (hWord2 (hFmt h) (hSew h) (hLayout h) 0 true false false 0 0) 0

/-- A view reference (R336). -/
def viewRef (base : Word) (viewId : BitVec 16) : Word := (base &&& 0xFFFE000000000000#64) ||| viewId.zeroExtend 64

/-- VIEWREG (R337). -/
def registerView (s : State) (d : BitVec 5) (h : BitVec 256) (xb : Word) : Except Stop State := do
  if !masterOk h then throw (.trap 0x52 1)
  if !s.reachable s.dieKey (nodeOf (hBase h)) then throw (.wait (.unreachable (hBase h) (nodeOf (hBase h))))
  if tagOf xb != 0 then throw (.trap 0x20 xb)
  let (w0, shard, s) ← readRecord s xb 16 64
  let (img0, img1, s) ← if shard = 0 then pure (0, 0, s) else readRecord s shard 32 32
  let die := s.homeOf s.nodeKey (hBase h)
  let asid := s.th.asid
  let rec_ := liveRecord s die h asid
  let mast := masterForm h rec_
  match descFails w0 (hShape h) with
  | some r => throw (.trap 0x52 (BitVec.ofNat 64 r))
  | none => pure ()
  let vb := if shard = 0 then xb + 4096 else img0
  let taken := storageSpans (hLayout mast) (hBase mast) (hShape h) ++ storageSpans (hLayout h) (hBase h) (hShape h)
  if storageFails w0 vb (hShape h) taken || (shard != 0 && img1 != 0 && img1 != hWord h 1) || (shard == 0 && xb.toNat % 4096 != 0)
  then throw (.trap 0x52 4)
  let mine := (s.die die).views.filter (fun p => p.2.asid == asid && hBase p.2.master == hBase mast)
  let (slot, s) := s.pick (freeBelow ((s.die die).views.map (·.1)) 1024)
  match slot with
  | none => throw (.trap 0x52 5)
  | some k =>
    if 8 ≤ mine.length then throw (.trap 0x52 5)
    match ← checkAccess s s.agent true 32 32 0 (xb + 32) with
    | .reg _ => throw (.trap 0x20 (xb + 32))
    | .mem key =>
      let s := exchange s s.dieKey die 0x10 (hBase h)
      let dd := s.die die
      let viewId : BitVec 16 := BitVec.ofNat 16 (k + (dd.viewGens.look 0 k).toNat * 1024)
      let tv := { hShape h with sew := sewBits (bits w0 4 3).toNat }
      let v : View := { asid := asid, priv := s.th.priv, slot := s.cur, grp := s.th.grp, master := mast, fmt := bits w0 0 4,
                        sew := bits w0 4 3, layout := bits w0 8 8, policy := bits w0 16 2, vb := vb, viewId := viewId,
                        blocks := List.replicate (ceilDiv (storageCount (bits w0 8 8).toNat tv) 16384) {} }
      let masters := if dd.masters.any (fun m => m.asid == asid && m.base == hBase mast) then dd.masters
        else dd.masters ++ [{ asid := asid, base := hBase mast }]
      let s := s.setDie die { dd with views := dd.views.put k v, masters := masters }
      let s := writeOwn s s.cur (xb + 32) key (leBytes 32 (viewImage h w0 vb viewId).toNat)
      return s.ret d (viewRef (hBase h) viewId)

/-- VIEWREG (R336, R337). -/
def execViewreg (d : BitVec 5) (a : BitVec 4) (b : BitVec 5) (s : State) : Outcome State Fault Refusal :=
  ordered193 s fun t => registerView t d (vread s.th.h a.toNat) (s.x b)

/-! ## VIEWDROP, VIEWSYNC, VIEWQ (R336, R338-R340) -/

/-- The live view that a reference names: its die, its entry and itself, and the state in which its die has been asked; reason 6 when there
is none. -/
def refView (s : State) (ref : Word) : Except Stop (Nat × Nat × View × State) :=
  if tagOf ref != 0 || 127 < nodeOf ref || bits ref 16 33 != 0 then .error (.trap 0x52 6)
  else if !s.reachable s.dieKey (nodeOf ref) then .error (.wait (.unreachable ref (nodeOf ref)))
  else
    let die := s.homeOf s.nodeKey ref
    match viewOf s die (bits ref 0 16) s.th.asid with
    | some v => .ok (die, (bits ref 0 10).toNat, v, exchange s s.dieKey die 0x10 ref)
    | none => .error (.trap 0x52 6)

/-- A view ends: its entry is free under its next generation, and its master goes with its last view. -/
def dropView (s : State) (die view : Nat) (v : View) : State :=
  let d := s.die die
  let views := d.views.drop view
  let masters := if views.any (fun p => p.2.asid == v.asid && hBase p.2.master == hBase v.master) then d.masters
    else d.masters.filter (fun m => !(m.asid == v.asid && m.base == hBase v.master))
  dropHolds (s.setDie die { d with views := views, viewGens := d.viewGens.put view (d.viewGens.look 0 view + 1), masters := masters })
    (fun w => w.take 4 == [5, die, 2, view])

/-- VIEWDROP (R338). -/
def execViewdrop (a : BitVec 5) (s : State) : Outcome State Fault Refusal :=
  ordered193 s fun s => do
    let (die, k, v, s) ← refView s (s.x a)
    if v.blocks.any (·.capturing) then throw (.wait (.drop die k))
    return (dropView s die k v).advance

/-- The blocks that a VIEWSYNC takes, each with the count of captures it waits for (R339). -/
def syncTargets (v : View) (full : Bool) : List (Nat × Nat) :=
  (v.blocks.zipIdx).filterMap (fun p => if full || p.1.stale then some (p.2, v.target p.2) else none)

/-- The blocks of a VIEWSYNC go first, and under FULL take S' = S (R333, R339). -/
def markSync (v : View) (ts : List (Nat × Nat)) (full : Bool) : View :=
  { v with blocks := (v.blocks.zipIdx).map (fun p =>
      if ts.any (fun t => t.1 == p.2) then { p.1 with wanted := true, synced := true, full := p.1.full || full } else p.1) }

/-- The captures that a waiting VIEWSYNC has asked for have ended. -/
def syncDone (v : View) (ts : List (Nat × Nat)) : Bool := ts.all (fun t => t.2 ≤ (v.block t.1).captures)

/-- VIEWSYNC (R339): it asks for its captures once, and waits for them. -/
def execViewsync (a : BitVec 5) (f : Bool) (s : State) : Outcome State Fault Refusal :=
  match s.th.vq with
  | _ :: _ => .next (s.enterWait .queue none)
  | [] =>
    match (do let s ← edgeOrder s 0xFF; refView s (s.x a) : Except Stop (Nat × Nat × View × State)) with
    | .error st => stopAt s st none
    | .ok (die, k, v, s') =>
      let again := match s.th.wait with
        | some (.view d w ts) => if d = die && w = k then some ts else none
        | _ => none
      match again with
      | some ts => if syncDone v ts then .next s'.advance else .next (s'.enterWait (.view die k ts) none)
      | none =>
        match syncTargets v f with
        | [] => .next s'.advance
        | ts => .next ((s'.setView die k (markSync v ts f)).enterWait (.view die k ts) none)

/-- Query 0: the state of a block (R340). -/
def blockWord (mv : BitVec 16) (k : ViewBlock) : Word :=
  k.tag.zeroExtend 64 ||| (mv.zeroExtend 64 <<< 16) ||| (flag (!k.stale) <<< 32) ||| (flag k.capturing <<< 33)
    ||| (flag k.poisoned <<< 34)

/-- Query 1: the state of a view. -/
def viewWord (mv : BitVec 16) (v : View) : Word :=
  mv.zeroExtend 64 ||| (BitVec.ofNat 64 (min 0xFFFF (v.blocks.filter (·.stale)).length) <<< 16) ||| (flag v.srv <<< 32)
    ||| (flag (v.blocks.any (·.poisoned)) <<< 33) ||| (v.policy.zeroExtend 64 <<< 34)

/-- VIEWQ (R340). -/
def execViewq (d a b : BitVec 5) (s : State) : Outcome State Fault Refusal :=
  ordered193 s fun s => do
    let q := s.x b
    let (die, k, v, s) ← refView s (s.x a)
    let mv := masterMv (s.die die) v
    if bits q 48 14 != 0 then throw (.trap 0x52 7)
    match (bits q 62 2).toNat with
    | 0 =>
      if v.blocks.length ≤ (bits q 0 48).toNat then throw (.trap 0x52 7)
      return s.ret d (blockWord mv (v.block (bits q 0 48).toNat))
    | 1 => return s.ret d (viewWord mv v)
    | 2 => return (s.setView die k { v with srv := false }).ret d (viewWord mv v)
    | _ => throw (.trap 0x52 7)

/-! ## RELAYOUT (R341, R342, R347) -/

/-- Reasons 1 to 3 on the handle and the new place. -/
def relayoutFails (h : BitVec 256) (xa : Word) : Option Nat :=
  let tag := (bits xa 0 8).toNat
  let nb := xa &&& 0xFFFFFFFFFFFFF000#64
  let t := hShape h
  if !hV h || hVw h || 4 < hLayout h || !pairLegal (hFmt h) (hSew h) then some 1
  else if bits xa 8 4 != 0 || 4 < tag || tagOf nb != 0 || 127 < nodeOf nb || !inWindow nb (storageBytes tag t) then some 2
  else if spansMeet (storageSpans tag nb t) (storageSpans (hLayout h) (hBase h) t) then some 3
  else none

/-- The handle after a RELAYOUT (R342). -/
def relaidHandle (h : BitVec 256) (tag : Nat) (nb : Word) (rec_ : Nat) : BitVec 256 :=
  hOfWords nb (hWord h 1) (hWord2 (hFmt h) (hSew h) tag (hLayout h) (hV h) true (hVw h) (hViewId h).toNat rec_) (hBase h)

/-- The handle with its relayout fields cleared (R347). -/
def settledHandle (h : BitVec 256) : BitVec 256 :=
  hOfWords (hBase h) (hWord h 1) (hWord2 (hFmt h) (hSew h) (hLayout h) 0 (hV h) false (hVw h) (hViewId h).toNat 0) 0

/-- A record number for a new record: a free one, else that of a complete record, which is freed with its entries (R347). -/
def takeRecord (s : State) (die : Nat) : Option Nat × State :=
  match s.pick (freeBelow ((s.die die).relays.map (·.1)) 256) with
  | (some k, s) => (some k, s)
  | (none, s) =>
    match s.pick (((s.die die).relays.filter (fun r => r.2.state == 2#2)).map (·.1)) with
    | (some k, s) => (some k, dropTiles s die k (fun _ => true))
    | (none, s) => (none, s)

/-- A handle register written. -/
def State.setHandle (s : State) (d : BitVec 4) (h : BitVec 256) : State := { s with th := { s.th with h := vwrite s.th.h d.toNat h } }

/-- RELAYOUT to a new place (R342). -/
def openRelayout (s : State) (d : BitVec 4) (h : BitVec 256) (xa : Word) : Except Stop State := do
  let tag := (bits xa 0 8).toNat
  let nb := xa &&& 0xFFFFFFFFFFFFF000#64
  match relayoutFails h xa with
  | some r => throw (.trap 0x53 (BitVec.ofNat 64 r))
  | none => pure ()
  if hRlp h && !s.reachable s.dieKey (nodeOf (hBase h)) then throw (.wait (.unreachable (hBase h) (nodeOf (hBase h))))
  if (liveRecord s (s.homeOf s.nodeKey (hBase h)) h s.th.asid).isSome then throw (.trap 0x53 4)
  if !s.reachable s.dieKey (nodeOf nb) then throw (.wait (.unreachable nb (nodeOf nb)))
  let die := s.homeOf s.nodeKey nb
  let (k, s) := takeRecord (exchange s s.dieKey die 0x10 nb) die
  match k with
  | none => throw (.trap 0x53 5)
  | some k =>
    let viewed := s.dies.any (fun p => p.2.views.any (fun v => v.2.asid == s.th.asid && hBase v.2.master == hBase h))
    if viewed && (s.homeOf s.nodeKey (hBase h) != die || tag == 4) then throw (.trap 0x53 6)
    let h' := relaidHandle h tag nb k
    let n := tileCount tag (hShape h)
    let r : Relay := { asid := s.th.asid, priv := s.th.priv, slot := s.cur, grp := s.th.grp, hand := h', oldLayout := BitVec.ofNat 8 (hLayout h),
                       altBase := hBase h, tiles := List.replicate n .waiting, order := List.range n }
    return ((s.setRelay die k r).setHandle d h').advance

/-- The settle form (R347). -/
def settleRelayout (s : State) (d : BitVec 4) (h : BitVec 256) : Except Stop State := do
  if !hRlp h then return s.advance
  if !s.reachable s.dieKey (nodeOf (hBase h)) then throw (.wait (.unreachable (hBase h) (nodeOf (hBase h))))
  let die := s.homeOf s.nodeKey (hBase h)
  let s := exchange s s.dieKey die 0x10 (hBase h)
  match recordOf s die h s.th.asid with
  | some r =>
    if r.state == 1#2 then throw (.wait (.settle die (hRlid h)))
    if r.state == 3#2 then throw (.trap 0x53 7)
    return (s.setHandle d (settledHandle h)).advance
  | none => return (s.setHandle d (settledHandle h)).advance

/-- RELAYOUT (R341). -/
def execRelayout (d : BitVec 4) (a : BitVec 5) (s : State) : Outcome State Fault Refusal :=
  ordered193 s fun t =>
    if bits (s.x a) 0 12 = 0xFF then settleRelayout t d (vread s.th.h d.toNat) else openRelayout t d (vread s.th.h d.toNat) (s.x a)

/-- RELAYOUT_SETTLED (R347): a waiting settle form goes on once its record is complete. -/
def execRelayoutSettled (slot : Nat) (s : State) : Outcome State Fault Refusal :=
  retryAt s slot fun i s =>
    match i with
    | .relayout d a => some (execRelayout d a s)
    | _ => none

end Sys2Proof.Machine
end

