-- ==== Sys2Proof/Machine/Seals.lean ====
section
/-! DEFINITION. Major 0x2E: SEAL, UNSEAL, DORMER and DORMREL (13_die_memory.md R316-R321). -/

namespace Sys2Proof.Machine

open Host (Outcome)

/-- A base and a length in units of `unit` bytes, as R316 limits them. -/
def regionOk (a len : Word) (unit : Nat) : Bool :=
  tagOf a == 0 && nodeOf a ≤ 127 && offOf a % unit == 0 && len.toNat % unit == 0 && unit ≤ len.toNat && offOf a + len.toNat ≤ 2 ^ 43

/-- The home of a region, once it can be reached. -/
def regionHome (s : State) (a : Word) : Except Stop Nat :=
  if s.reachable s.dieKey (nodeOf a) then .ok (s.homeOf s.nodeKey a) else .error (.wait (.unreachable a (nodeOf a)))

/-- A Seal or Dormer message of the thread's die to a home, and its answer (18_fabric.md R406). -/
def sealMessage (s : State) (home : Nat) (a : Word) : State := exchange s s.dieKey home 0x14 a

/-- Everything of an ASID that has passed its checks for a range performs, and its contributions there merge (R317 step 1); what cannot
yet, for an engine that owns its line or for its way to the home, is waited for. -/
def settleRange (s : State) (asid : BitVec 12) (a : Word) (len : Nat) : Except Stop State :=
  let at_ (x : BitVec 12) (addr : Word) : Bool := x == asid && (addr - a).toNat < len
  let s := s.slots.foldl (fun s k => performWhere s k (fun p => at_ p.asid p.addr)) s
  let s := s.cores.foldl (fun s c => mergeWhere (sendWhere s c.1 (fun w => at_ w.asid w.line)) c.1 (fun e => at_ e.asid e.line)) s
  if (lineOpen s (fun w => at_ w.asid w.line)).isSome
      || s.slots.any (fun k => (s.thread k).pend.any (fun p => p.got.isNone && at_ p.asid p.addr))
      || s.cores.any (fun c => !c.2.dead && c.2.comb.any (fun e => at_ e.asid e.line))
  then .error (.wait .queue) else .ok s

/-- SEAL (R317). -/
def sealRange (s : State) (a len : Word) : Except Stop State := do
  if !regionOk a len 0x10000 then throw (.trap 0x40 a)
  let home ← regionHome s a
  let s := sealMessage s home a
  let d := s.die home
  if d.seals.any (fun e => e.asid == s.th.asid && e.chan == chanOf a && e.off < offOf a + len.toNat && offOf a < e.off + e.len)
      || 512 ≤ d.seals.length then throw (.trap 0x40 a)
  let s ← settleRange s s.th.asid a len.toNat
  let d := s.die home
  return (s.setDie home { d with seals := d.seals ++ [⟨s.th.asid, chanOf a, offOf a, len.toNat, false⟩] }).advance

/-- SEAL (R316). -/
def execSealOp (a b : BitVec 5) (s : State) : Outcome State Fault Refusal := ordered193 s fun t => sealRange t (s.x a) (s.x b)

/-- A registration lies within a seal. -/
def Registration.onto (r : Registration) (e : SealRec) : Bool :=
  r.asid == e.asid && r.chan == e.chan && e.off ≤ r.off && r.off + r.len ≤ e.off + e.len

/-- The copies of a sealed region's lines leave the scalar caches of its home die (R318 step 2). -/
def dropSealed (s : State) (home : Nat) (a : Word) (len : Nat) : State :=
  dropLines s home (fun l => l.asid == s.th.asid && tagOf l.addr == 0 && (l.addr - a).toNat < len)

/-- UNSEAL (R318): its entry becomes UNSEALING, and it waits for every registration onto it. -/
def execUnsealOp (a b : BitVec 5) (s : State) : Outcome State Fault Refusal :=
  match s.th.vq with
  | _ :: _ => .next (s.enterWait .queue none)
  | [] =>
    let base := s.x a
    let start : Except Stop (State × Nat × SealRec) := do
      let s ← edgeOrder s 0xFF
      if !regionOk base (s.x b) 0x10000 then throw (.trap 0x40 base)
      let home ← regionHome s base
      match (s.die home).seals.find? (fun e => e.asid == s.th.asid && e.chan == chanOf base && e.off == offOf base
        && e.len == (s.x b).toNat) with
      | none => throw (.trap 0x40 base)
      | some e => return (if e.unsealing then s else sealMessage s home base, home, e)
    match start with
    | .error st => stopAt s st none
    | .ok (s, home, e) =>
      let d := s.die home
      if d.registry.any (fun r => r.onto e) then
        .next ((s.setDie home { d with seals := d.seals.map (fun q => if q == e then { q with unsealing := true } else q) }).enterWait
          .unseal none)
      else
        let s := dropSealed s home base (s.x b).toNat
        let d := s.die home
        .next (s.setDie home { d with seals := d.seals.filter (fun q => q != e) }).advance

/-- UNSEAL_COMPLETE (R318): a waiting UNSEAL goes on once no registration onto its entry is left. -/
def execUnsealComplete (slot : Nat) (s : State) : Outcome State Fault Refusal :=
  retryAt s slot fun i s =>
    match i with
    | .unsealOp a b => some (execUnsealOp a b s)
    | _ => none

/-- A Dormer address (R320). -/
def dormerAddr (didx : Nat) : Word := BitVec.ofNat 64 (0xC0 * 2 ^ 56 + didx * 2 ^ 48)

/-- DORMER (R320). -/
def openDormer (s : State) (d : BitVec 5) (a len : Word) : Except Stop State := do
  if !regionOk a len 0x1000 then throw (.trap 0x41 a)
  let reader := s.dieKey
  let (slot, s) := s.pick (freeBelow ((s.die reader).dormers.map (·.didx)) 256)
  match slot with
  | none => throw (.trap 0x42 a)
  | some k =>
    let home ← regionHome s a
    let s := sealMessage s home a
    let reg : Registration := ⟨s.th.asid, chanOf a, offOf a, len.toNat, reader, k⟩
    if !(s.die home).seals.any (fun e => !e.unsealing && reg.onto e) then throw (.trap 0x41 a)
    if 1024 ≤ (s.die home).registry.length then throw (.trap 0x42 a)
    let h := s.die home
    let s := s.setDie home { h with registry := h.registry ++ [reg] }
    let r := s.die reader
    let run := s.th.grp.map (fun g => (g.run, g.gen))
    let s := s.setDie reader { r with dormers := r.dormers ++ [{ didx := k, asid := s.th.asid, base := a, len := len.toNat, run := run }] }
    return s.ret d (dormerAddr k)

/-- DORMER (R316). -/
def execDormer (d a b : BitVec 5) (s : State) : Outcome State Fault Refusal := ordered193 s fun t => openDormer t d (s.x a) (s.x b)

/-- A Dormer's lines leave the caches of its reader die (R321), and its DIDX is free. -/
def dropDormer (s : State) (reader : Nat) (e : Dormer) : State :=
  let s := dropDormerLines s reader e
  let r := s.die reader
  s.setDie reader { r with dormers := r.dormers.filter (fun q => q.didx != e.didx) }

/-- A Dormer of a reader die is released (R321): it is deregistered at its home, and its DIDX is free. -/
def freeDormer (s : State) (reader : Nat) (e : Dormer) : State :=
  let home := s.homeOf (reader / 8) e.base
  let s := exchange s reader home 0x14 e.base
  let h := s.die home
  dropDormer (s.setDie home { h with registry := h.registry.filter (fun r => !(r.reader == reader && r.didx == e.didx)) }) reader e

/-- DORMREL (R321; 18_fabric.md R415): a dead entry is freed without its home. -/
def closeDormer (s : State) (a : Word) : Except Stop State := do
  if tagOf a != 0xC || bits a 56 4 != 0 then throw (.trap 0x20 a)
  match dormerOf (s.die s.dieKey) s.th.asid a with
  | none => throw (.trap 0x20 a)
  | some e =>
    if e.dead then return (dropDormer s s.dieKey e).advance
    if !s.reachable s.dieKey (nodeOf e.base) then throw (.wait (.unreachable a (nodeOf e.base)))
    return (freeDormer s s.dieKey e).advance

/-- DORMREL (R316). -/
def execDormrel (a : BitVec 5) (s : State) : Outcome State Fault Refusal := ordered193 s fun t => closeDormer t (s.x a)

end Sys2Proof.Machine
end

