-- ==== Sys2Proof/Machine/Matrix.lean ====
section
/-! DEFINITION. Majors 0x30 to 0x33: TLDP, TLDL, MROW, MROWZ, ACCRD, ACCWR, ACCCLR and TFREE (10_matrix.md R223-R246). -/

namespace Sys2Proof.Machine

open Host (Outcome)

/-! ## The source of a tile (R226, R227, R232) -/

/-- The B formats (R227). -/
def tileFmtOk (fmt sew : Nat) : Bool :=
  match fmt with
  | 0 => sew ≤ 2
  | 1 => sew == 1 || sew == 2
  | 2 => sew == 2 || sew == 3
  | 3 => sew == 2
  | 4 => sew == 1
  | 5 => sew == 1
  | 6 => sew == 0
  | _ => false

/-- The bytes of an element: none below one byte. -/
abbrev dBytes (d : Word) : Nat := sewBits (dSew d) / 8

/-- The spans of the source, from its start (R226). -/
def sourceSpans (d : Word) : List (Nat × Nat) :=
  if dNq4 d then
    let codes := dN d * dK d / 2 + dN d * dK d / 64
    [(0, codes), ((codes + 3) / 4 * 4, 4 * dN d)]
  else (List.range (dK d)).map (fun k => (k * dRs d, ceilDiv (dN d * sewBits (dSew d)) 8))

/-- The elements of the source, as (offset, bytes): what R233 checks one by one. -/
def sourceElems (d : Word) : List (Nat × Nat) :=
  let e := dBytes d
  if dNq4 d then
    let codes := dN d * dK d / 2 + dN d * dK d / 64
    (List.range codes).map (fun i => (i, 1)) ++ (List.range (dN d)).map (fun n => ((codes + 3) / 4 * 4 + 4 * n, 4))
  else (List.range (dK d)).flatMap (fun k =>
    if e = 0 then (List.range (ceilDiv (dN d) 2)).map (fun i => (k * dRs d + i, 1))
    else (List.range (dN d)).map (fun n => (k * dRs d + n * e, e)))

/-- The checks of R232 at push, in their order. -/
def tileFails (larder : Bool) (slot : BitVec 2) (xa d : Word) (p : BitVec 4) : Option (BitVec 7 × Word) :=
  let ph := planeCount p
  let e := dBytes d
  if bit d 23 || !tileFmtOk (dFmt d) (dSew d) || (dNq4 d && (!(dK d == 64 || dK d == 128 || dK d == 256) || dRs d != 0))
  then some (0x31, d)
  else if dNq4 d && ph != 4 then some (0x32, BitVec.ofNat 64 (slot.toNat + ph * 2 ^ 8))
  else if 2 ^ 23 < dOff d + dSize d ph then some (0x31, d)
  else if larder && (bits xa 23 41 != 0 || (sourceSpans d).any (fun q => 2 ^ 23 < xa.toNat + q.1 + q.2 ||
      (xa.toNat + q.1 < dOff d + dSize d ph && dOff d < xa.toNat + q.1 + q.2))) then some (0x31, d)
  else if dNq4 d then (if xa.toNat % 4 != 0 then some (0x25, xa) else none)
  else if e ≤ 1 then none
  else if xa.toNat % e != 0 then some (0x25, xa)
  else if dRs d % e != 0 then some (0x25, xa + BitVec.ofNat 64 (dRs d))
  else none

/-- Where one source element lies. -/
def sourcePlace (s : State) (larder : Bool) (xa : Word) (q : Nat × Nat) : Except Stop Nat :=
  let a := xa + BitVec.ofNat 64 q.1
  if larder then .ok (larderKey s.clusterKey (xa.toNat + q.1))
  else if tagOf a != 0 && tagOf a != 0xC then .error (.trap 0x20 a)
  else match checkAccess s s.agent false q.2 q.2 0 a with
    | .ok (.mem key) => if remoteKey s.cur key then (ownWrites s s.cur key).map (fun _ => key) else .ok key
    | .ok (.reg _) => .error (.trap 0x20 a)
    | .error e => .error e

/-- The places of all source elements, or the stop of the lowest address that fails (R233 step 2). -/
def sourcePlaces (s : State) (larder : Bool) (xa d : Word) : Except Stop (List (Nat × Nat × Nat)) :=
  let rs := (sourceElems d).map (fun q => (q, sourcePlace s larder xa q))
  let bad := rs.filterMap (fun r => match r.2 with
    | .error e => some ((xa + BitVec.ofNat 64 r.1.1).toNat, e)
    | .ok _ => none)
  match bad with
  | [] => .ok (rs.filterMap (fun r => match r.2 with
      | .ok key => some (r.1.1, r.1.2, key)
      | .error _ => none))
  | b :: bs => .error (bs.foldl (fun m c => if c.1 < m.1 then c else m) b).2

/-! ## Conversion (R228, R229) -/

/-- What the source reads as: its bytes by offset, and the offsets that lie in uncorrectable words. -/
structure Source where
  bytes : List (Nat × Byte)
  bad : List Nat
  deriving DecidableEq, Repr

/-- n bytes of a source from an offset. -/
def Source.at (q : Source) (off n : Nat) : Nat :=
  leNat ((List.range n).map (fun i => ((q.bytes.find? (fun b => b.1 == off + i)).map (·.2)).getD 0))

/-- Whether any of n bytes from an offset is uncorrectable. -/
def Source.isBad (q : Source) (off n : Nat) : Bool := (List.range n).any (fun i => q.bad.contains (off + i))

/-- The value of source element (k, n); none in an uncorrectable word. -/
def Source.elem (q : Source) (d : Word) (k n : Nat) : Option FVal :=
  let w := sewBits (dSew d)
  let off := k * dRs d + n * w / 8
  let size := max 1 (w / 8)
  if q.isBad off size then none
  else
    let x := if w = 4 then q.at off 1 / 16 ^ (n % 2) % 16 else q.at off size
    some (aVal (dFmt d) (dSew d) x)

/-- q of a value for an exponent E (R228 step 3). -/
def quantise (ph : Nat) (e : Int) (v : FVal) : Int :=
  match v with
  | .fin neg n d => let (k, _) := roundAt .rne neg n d (e - ph + 2); if neg then -(k : Int) else k
  | _ => 0

/-- A column block: E and its q; none when it is non-finite (R228). -/
def storeBlock (fmt sew ph : Nat) (vs : List (Option FVal)) : Option (Int × List Int) :=
  let ok := vs.all (fun v => match v with
    | some (.fin _ _ _) => true
    | _ => false)
  if !ok then none else
  let fin := vs.filterMap id
  let emax : Int :=
    if fmt = 0 then sewBits sew - 2 else if fmt = 1 then sewBits sew - 1
    else (fin.foldl (fun (m : Option Int) v => match v with
      | .fin _ n d => if n = 0 then m else some (match m with
        | some e => max e (flog2 n d)
        | none => flog2 n d)
      | _ => m) none).getD 0
  let qs := fin.map (quantise ph emax)
  if qs.any (fun q => decide ((2 : Int) ^ (ph - 1) - 1 < q)) then some (emax + 1, fin.map (quantise ph (emax + 1)))
  else some (emax, qs)

/-- The region's bytes of a tile of another format than NQ4 (R224, R228). -/
def plainImage (d : Word) (ph : Nat) (q : Source) : List Byte :=
  let blocks : Array (Array (Option (Int × Array Int))) := ((List.range (dKb d)).map (fun kb =>
    ((List.range (dN d)).map (fun n =>
      (storeBlock (dFmt d) (dSew d) ph ((List.range (min 32 (dK d - 32 * kb))).map (fun k => q.elem d (32 * kb + k) n))).map
        (fun b => (b.1, b.2.toArray)))).toArray)).toArray
  let block (kb n : Nat) : Option (Int × Array Int) := (blocks.getD kb #[]).getD n none
  let header := (List.range (dKb d)).flatMap (fun kb => (List.range (dN d)).flatMap (fun n =>
    leBytes 2 (match block kb n with
      | some b => intWrap 16 b.1
      | none => 0x8000)))
  let qBit (j k n : Nat) : Nat := match block (k / 32) n with
    | some b => intWrap ph (b.2.getD (k % 32) 0) / 2 ^ j % 2
    | none => 0
  let planes := (List.range ph).flatMap (fun j => (List.range (dN d)).flatMap (fun n => (List.range (4 * dKb d)).map (fun b =>
    BitVec.ofNat 8 (((List.range 8).map (fun i => qBit j (8 * b + i) n * 2 ^ i)).foldl (· + ·) 0))))
  header ++ List.replicate (dHeader d - header.length) 0 ++ planes

/-- The region's bytes of an NQ4 tile (R224, R229, R233). -/
def nq4Image (d : Word) (q : Source) : List Byte :=
  let k := dK d
  let n := dN d
  let codes := n * k / 2 + n * k / 64
  let colBad (c : Nat) : Bool := q.isBad (c * k / 2) (k / 2) || q.isBad (n * k / 2 + c * (k / 64)) (k / 64)
    || q.isBad ((codes + 3) / 4 * 4 + 4 * c) 4
  let head := (List.range (k / 64)).flatMap (fun kb => (List.range n).map (fun c => BitVec.ofNat 8 (q.at (n * k / 2 + c * (k / 64) + kb) 1)))
  let scales := (List.range n).flatMap (fun c =>
    leBytes 4 (if colBad c then 0x7FC00000 else q.at ((codes + 3) / 4 * 4 + 4 * c) 4))
  let header := head ++ List.replicate (dScales d - head.length) 0 ++ scales
  let idx (r c : Nat) : Nat := q.at (c * k / 2 + r / 2) 1 / 16 ^ (r % 2) % 16
  let planes := (List.range 4).flatMap (fun j => (List.range n).flatMap (fun c => (List.range (4 * dKb d)).map (fun b =>
    BitVec.ofNat 8 (((List.range 8).map (fun i => if 8 * b + i < k then idx (8 * b + i) c / 2 ^ j % 2 * 2 ^ i else 0)).foldl (· + ·) 0))))
  header ++ List.replicate (dHeader d - header.length) 0 ++ planes

/-! ## TLDP and TLDL (R231-R234) -/

/-- Whether a region belongs to a slot of the thread that runs. -/
def State.ownsRegion (s : State) (tile : Nat) (r : Region) : Bool :=
  r.tile.toNat == tile && r.grp == s.th.grp && (s.th.grp.isSome || r.slot == some s.cur)

/-- A load is dispatched: step 1 of R233, the check of its region against every live one but that of its slot, after which its region is
live beside the one that its slot holds (R225, R232). One whose region is live already has been dispatched. -/
def dispatchTile (s : State) (op : VOp) : Except Stop State :=
  let new := tileRegion s op true
  let rs := (s.cluster s.clusterKey).regions
  if rs.contains new then .ok s
  else if rs.any (fun r => !s.ownsRegion new.tile.toNat r && r.off < new.off + new.size && new.off < r.off + r.size)
  then .error (.trap 0x31 op.xb)
  else .ok (s.setRegions (rs ++ [new]))

/-- The source of a load read once all its elements have passed their checks, with what is reported (R233 step 3). -/
def readSource (s : State) (op : VOp) (ps : List (Nat × Nat × Nat)) : State × Source :=
  let s := ps.foldl (fun s p => (flushLine (forceOverlap s s.cur p.2.2 p.2.1) p.2.2).correct p.2.2 p.2.1) s
  let bytes := ps.flatMap (fun p => (List.range p.2.1).map (fun i => (p.1 + i, memGet s.mem (p.2.2 + i))))
  let bad := if s.poison.isEmpty then [] else
    ps.flatMap (fun p => (List.range p.2.1).filterMap (fun i => if s.poison.contains ((p.2.2 + i) / 8) then some (p.1 + i, p.2.2 + i) else none))
  let words := (bad.map (fun b => (b.2 / 8, op.xa + BitVec.ofNat 64 b.1 - BitVec.ofNat 64 (b.2 % 8)))).eraseDups
  let s := words.foldl (fun s w => (noteKey s (w.1 * 8)).queueReport s.cur s.th.grp ⟨0x2C, 0, w.2, op.addr, 0⟩) s
  (s, ⟨bytes, bad.map (·.1)⟩)

/-- A load from its dispatch to its fault point, where it reads its source and releases the slot's old region; it writes the new one
behind the older instructions of the matrix pipe (R233, R234, R238). -/
def loadTile (op : VOp) (s : State) : Except Stop State := do
  let larder := op.kind == .tileLoad true
  let d := op.xb
  let slot := (bits op.sel 0 2).toNat
  let ph := planeCount (bits op.xt 0 4)
  let s ← dispatchTile s op
  let s ← edgeOrder s op.edge
  checkExhausted s 0 1
  let ps ← sourcePlaces s larder op.xa d
  let (s, q) := readSource s op ps
  let s := if larder then s else ((ps.map (fun p => keyLine p.2.2)).eraseDups).foldl (fun s l => s.touchRead s.coreKey op.xa (l * 128) 128) s
  let image := if dNq4 d then nq4Image d q else plainImage d ph q
  let s := s.setRegions ((s.cluster s.clusterKey).regions.filter (fun r => !s.ownsRegion slot r) ++ [tileRegion s op true])
  if s.th.rows.isEmpty then
    let s := writeTile s op image
    return { s with th := s.th.countNow 0 1 }
  else
    let t := s.th.issueOp 0 op.id 1
    return { s with th := { t with nextOp := s.th.nextOp, rows := t.rows ++ [{ op := op, step := 0, image := image }] } }

/-- The plan of a load. -/
def tilePlan (op : VOp) : VPlan := { steps := 1, live := 0, cw := 1, dsts := [], gv := false, gran := fun _ => loadTile op }

/-- A tile slot's program-order copy written (R223). -/
def Thread.setTile (t : Thread) (slot : BitVec 2) (u : Tile) : Thread := { t with tiles := vwrite t.tiles slot.toNat u }

/-- TLDP or TLDL (R231-R233): pushed with its slot READY in the program-order copy, or run at once; while it waits, its new region is
live. -/
def issueTile (s : State) (larder : Bool) (d : BitVec 2) (a b : BitVec 5) (p : BitVec 4) (word : BitVec 32) : Outcome State Fault Refusal :=
  let op := { s.vop (.tileLoad larder) 0 a b word with sel := d.zeroExtend 5, edge := s.th.edge 7, xt := p.zeroExtend 64 }
  let tile : Tile := ⟨true, s.x b, BitVec.ofNat 6 (planeCount p)⟩
  match tileFails larder d (s.x a) (s.x b) p with
  | some (c, v) => .next (trapAt s c v none)
  | none =>
    if s.runsAhead then
      if s.th.queueRoom then
        let s := pushVec s op
        .next { s with th := s.th.setTile d tile }
      else .next (s.enterWait .queue none)
    else match dispatchTile s op with
      | .error st => stopAt s st none
      | .ok s => match loadTile op s with
        | .ok s => .next { s with th := s.th.setTile d tile }.advance
        | .error st => stopAt s st none

/-- TLDP (R231). -/
def execTldp (d : BitVec 2) (a b : BitVec 5) (p : BitVec 4) (s : State) : Outcome State Fault Refusal :=
  issueTile s false d a b p (wordOf (.tldp d a b p))
/-- TLDL (R231). -/
def execTldl (d : BitVec 2) (a b : BitVec 5) (p : BitVec 4) (s : State) : Outcome State Fault Refusal :=
  issueTile s true d a b p (wordOf (.tldl d a b p))

/-! ## MROW, MROWZ, ACCWR, ACCCLR (R235-R238, R240, R241) -/

/-- R236: the formats of an A row. -/
def aRowOk (vtype : Word) : Bool :=
  match vtFmt vtype with
  | 0 => vtSew vtype ≤ 2
  | 1 => vtSew vtype == 1 || vtSew vtype == 2
  | 2 => vtSew vtype == 2 || vtSew vtype == 3
  | 3 => true
  | 4 => true
  | 5 => true
  | _ => false

/-- The elements that an instruction of the matrix pipe reads: of an A row those below VL and K, of ACCWR those below VL and 256. R236 says
that all of va is read, R237 that elements at or above K are not and that those at or above VL count as +0; the model's choice (log 102)
is that an uncorrectable word traps only where it holds one of these elements. -/
def pipeReads (op : VOp) : Nat :=
  match op.kind with
  | .mrow _ => min op.n_ (dK op.tileDesc)
  | .accWrite => min op.n_ 256
  | _ => 0

/-- An instruction enters the matrix pipe, having read all of its group (R238, R241); with nothing queued behind it, it completes. -/
def enterPipe (op : VOp) (s : State) : Except Stop State :=
  let es := List.range (pipeReads op)
  match s.th.badRead false [op.groupA] es with
  | some v => .error (.trap 0x2B v)
  | none =>
    let r : MRow := { op := op, step := 0, a := es.map (fun i => s.th.elem op.a.toNat op.sew i) }
    let s := { s with th := { s.th with rows := s.th.rows ++ [r] } }
    .ok (if s.th.vq.isEmpty then finishRows s else s)

/-- The plan of an instruction of the matrix pipe. -/
def pipePlan (op : VOp) : VPlan :=
  { steps := 1, live := 0, cw := 1, dsts := [], gv := op.kind != .accClear, gran := fun _ => enterPipe op }

/-- An A row against a tile: the checks of R236. -/
def issueMrow (s : State) (zero : Bool) (d : BitVec 2) (a : BitVec 5) (c : BitVec 3) (p : BitVec 4) (word : BitVec 32) :
    Outcome State Fault Refusal :=
  let tile := vread s.th.tiles d.toNat
  let pc := if p = 0 then tile.ph.toNat else planeCount p
  let op := { s.vop (.mrow zero) 0 a 0 word with
    xa := tile.desc, xb := tile.ph.zeroExtend 64, xt := BitVec.ofNat 64 pc, sel := c.zeroExtend 5 }
  if !aRowOk op.vtype then .next (trapAt s 0x03 op.word none)
  else if !aligned a op.g then .next (trapAt s 0x05 op.word none)
  else if !tile.ready then .next (trapAt s 0x30 (d.zeroExtend 64) none)
  else if tile.ph.toNat < pc || (dNq4 tile.desc && pc != 4) then .next (trapAt s 0x32 (BitVec.ofNat 64 (d.toNat + pc * 2 ^ 8)) none)
  else runVec s op (pipePlan op)

/-- MROW (R235). -/
def execMrow (d : BitVec 2) (a : BitVec 5) (c : BitVec 3) (p : BitVec 4) (s : State) : Outcome State Fault Refusal :=
  issueMrow s false d a c p (wordOf (.mrow d a c p))
/-- MROWZ (R235). -/
def execMrowz (d : BitVec 2) (a : BitVec 5) (c : BitVec 3) (p : BitVec 4) (s : State) : Outcome State Fault Refusal :=
  issueMrow s true d a c p (wordOf (.mrowz d a c p))

/-- Whether VTYPE is FP32, as ACCRD and ACCWR require (R240). -/
def accType (vtype : Word) : Bool := vtFmt vtype == 2 && vtSew vtype == 3

/-- ACCWR (R240, R241). -/
def execAccwr (a : BitVec 5) (c : BitVec 3) (s : State) : Outcome State Fault Refusal :=
  let op := { s.vop .accWrite 0 a 0 (wordOf (.accwr a c)) with sel := c.zeroExtend 5 }
  issueVec s op (do need (accType op.vtype) 0x03; need (aligned a op.g) 0x05) (pipePlan op)

/-- ACCCLR (R240, R241). -/
def execAccclr (c : BitVec 3) (s : State) : Outcome State Fault Refusal :=
  let op := { s.vop .accClear 0 0 0 (wordOf (.accclr c)) with sel := c.zeroExtend 5 }
  runVec s op (pipePlan op)

/-! ## ACCRD (R242) -/

/-- Whether an instruction of the matrix pipe writes an accumulator. -/
def VOp.writesAcc (op : VOp) (acc : Nat) : Bool :=
  match op.kind with
  | .tileLoad _ => false
  | .tileFree => false
  | _ => op.acc == acc

/-- What ACCRD writes to its step register: STEPS and PEND of the incomplete instructions that write the accumulator. -/
def stepsWord (t : Thread) (acc : Nat) : Word :=
  let open_ := t.rows.filter (fun r => r.op.writesAcc acc)
  BitVec.ofNat 64 (((open_.head?.map (·.step)).getD 0xFFFFFFFF) + open_.length % 2 ^ 8 * 2 ^ 32)

/-- A granule of ACCRD: the snapshot's columns as bits; an uncorrectable accumulator word traps (09_core.md R220). R242's one snapshot and
R33's resumption at a granule do not meet in the manual: after such a trap the granules that resume read the accumulator as it is then
(DESIGN CHOICE; log 130). -/
def accGranule (op : VOp) (g : Nat) (s : State) : Except Stop State :=
  let n := min op.n_ 256
  let es := granuleElems 32 n g
  match (s.th.badAccWords op.acc).find? (fun w => es.any (fun i => i / 2 == w)) with
  | some w => .error (.trap 0x2B (badWordVal 3 op.acc w))
  | none =>
    let t := es.foldl (fun t i => t.setElem op.d.toNat 32 i (accCol (vread t.acc op.acc) i)) s.th
    .ok { s with th := t.mendWritten op.groupD (fun i => es.contains i) }

/-- The plan of ACCRD. -/
def accPlan (op : VOp) : VPlan :=
  let n := liveGranules 32 (min op.n_ 256)
  { steps := n, live := n, cw := 32, dsts := [op.groupD], gran := accGranule op }

/-- ACCRD (R240, R242): it does not wait for the instructions in the matrix pipe, only for its turn in the queue. -/
def execAccrd (d b : BitVec 5) (c : BitVec 3) (s : State) : Outcome State Fault Refusal :=
  let op := { s.vop .accRead d 0 b (wordOf (.accrd d b c)) with sel := c.zeroExtend 5 }
  match s.th.front with
  | _ :: _ => .next (s.enterWait .queue none)
  | [] =>
    if !accType op.vtype then .next (trapAt s 0x03 op.word none)
    else if !aligned d op.g then .next (trapAt s 0x05 op.word none)
    else startVec s op (accPlan op) (fun t => t.ret b (stepsWord t.th c.toNat))

/-! ## TFREE (R243) -/

/-- The release of a slot's region, in its turn behind the older instructions of the pipe. -/
def freeTile (op : VOp) (s : State) : Except Stop State :=
  let slot := (bits op.sel 0 2).toNat
  let rs := (s.cluster s.clusterKey).regions
  .ok (if s.th.rows.isEmpty then
      (if rs.any (s.ownsRegion slot) then s.setRegions (rs.filter (fun r => !s.ownsRegion slot r)) else s)
    else
      { s with th := { s.th with rows := s.th.rows ++ [{ op := op, step := 0, frees := (rs.find? (s.ownsRegion slot)).map (·.op) }] } })

/-- The plan of TFREE. -/
def freePlan (op : VOp) : VPlan := { steps := 1, live := 0, cw := 1, dsts := [], gran := fun _ => freeTile op }

/-- TFREE (R243). -/
def execTfree (d : BitVec 2) (s : State) : Outcome State Fault Refusal :=
  let op := { s.vop .tileFree 0 0 0 (wordOf (.tfree d)) with sel := d.zeroExtend 5 }
  if s.runsAhead then
    if s.th.queueRoom then
      let s := pushVec s op
      .next { s with th := s.th.setTile d {} }
    else .next (s.enterWait .queue none)
  else match freeTile op s with
    | .ok s => .next { s with th := s.th.setTile d {} }.advance
    | .error st => stopAt s st none

/-- MATRIX_STEP (R237, R238): one step of the oldest incomplete instruction of a thread's matrix pipe. -/
def execMatrixStep (slot : Nat) (s : State) : Outcome State Fault Refusal :=
  if (s.thread slot).rows.isEmpty then .next s else .next ((matrixStep (s.focus slot)).focus s.cur)

end Sys2Proof.Machine
end

