-- ==== Sys2Proof/Machine/Gang.lean ====
section
/-! DEFINITION. Major 0x38: GANG and UNGANG, and the Pantry windows of slots (09_core.md R210, R211; 12_cluster.md R265-R268). -/

namespace Sys2Proof.Machine

open Host (Outcome)

/-! ## Windows (R210, R211) -/

/-- Memory from a place on, n bytes of it, is cleared with its marks. -/
def State.zeroRange (s : State) (key n : Nat) : State :=
  { s with
    mem := s.mem.filter (fun c => c.1 < key || key + n ≤ c.1)
    poison := s.poison.filter (fun w => w * 8 < key || key + n ≤ w * 8)
    soft := s.soft.filter (fun w => w.1 * 8 < key || key + n ≤ w.1 * 8) }

/-- A slot's new group takes a window of a core's Pantry: it is cleared unless the group's ASID was the last owner of all of it. -/
def takeWindow (s : State) (core pbase psize : Nat) (asid : BitVec 12) : State :=
  let c := s.core core
  let kbs := (List.range psize).map (· + pbase)
  if kbs.all (fun k => vread c.owners k == asid) then s else
  let s := s.setCore core { c with owners := kbs.foldl (fun v k => vwrite v k asid) c.owners }
  (List.range 64).foldl (fun s lane => s.zeroRange (pantryKey core lane (pbase * 1024)) (psize * 1024)) s

/-- Whether a range of a core's Pantry, in KiB, overlaps the window of another slot than the one given. -/
def windowTaken (s : State) (core slot pbase psize : Nat) : Bool :=
  (List.range 4).any (fun i =>
    let t := s.thread (core * 4 + i)
    i != slot && t.slot != .free && pbase < t.pbase.toNat + t.psize.toNat && t.pbase.toNat < pbase + psize)

/-! ## Forming and dissolving a gang (R266, R267) -/

/-- The thread with the halves that only a gang uses at 0, every progress index full, and VL under the new VLMAX. -/
def Thread.regang (t : Thread) (gang : Bool) : Thread :=
  let low (v : BitVec 16384) : BitVec 16384 := v &&& BitVec.ofNat 16384 (2 ^ 8192 - 1)
  let t := { t with
    gang := gang, v := t.v.map low, m := t.m.map low, ms := t.ms.map low
    badRegs := t.badRegs.filter (fun p => p.1 == 3 || p.2.2 < 128), softRegs := t.softRegs.filter (fun p => p.1 == 3 || p.2.2 < 128) }
  { t with prog := Vector.replicate 32 t.fullIndex }.clampVl

/-- The reason for which GANG is refused, the first of R266. -/
def gangRefused (s : State) : Option Nat :=
  let core := s.coreKey
  let hi := s.cur + 4
  if core % 2 = 1 then some 1
  else if (s.thread hi).slot != .free then some 2
  else if (s.core (core + 1)).dead || (coreThreads s (core + 1)).any (·.gang) then some 3
  else if windowTaken s (core + 1) (s.cur % 4) s.th.pbase.toNat s.th.psize.toNat then some 4
  else none

/-- GANG's steps. -/
def formGang (s : State) : State :=
  let s := takeWindow s (s.coreKey + 1) s.th.pbase.toNat s.th.psize.toNat s.th.asid
  let s := { s with th := s.th.regang true }
  syncUpper s s.cur

/-- GANG (R266): in a gang it is a no-op. Values on their way are written while the registers have the form that they were asked for in. -/
def execGang (s : State) : Outcome State Fault Refusal :=
  serialise s fun s =>
    if s.th.gang then .next s.advance
    else match gangRefused s with
      | some r => .next (trapAt s 0x38 (BitVec.ofNat 64 r) none)
      | none =>
        let s := writeReturned s s.cur
        if s.th.returning (fun _ => true) then .next (s.enterWait .returned none) else .next (formGang s).advance

/-- Whether the higher core of the thread's gang holds elements of it, or values are on their way (R267). -/
def upperBusy (s : State) : Bool :=
  let c := s.core (s.coreKey + 1)
  s.th.returning (fun _ => true) || s.th.pend.any (fun p => elemCore s s.cur p.sew p.idx != s.coreKey)
    || (!c.dead && c.comb.any (fun e => e.slot == s.cur)) || c.wbuf.any (fun w => w.slot == s.cur)

/-- UNGANG's steps behind its wait. -/
def dissolveGang (s : State) : State :=
  let s := s.setThread (s.cur + 4) {}
  { s with th := s.th.regang false }

/-- UNGANG (R267): outside a gang it has no effect; in one it waits for what the higher core's lanes hold of the thread's operations. -/
def execUngang (s : State) : Outcome State Fault Refusal :=
  serialise s fun s =>
    if !s.th.gang then .next s.advance else
    let s := forceAll s s.cur
    if upperBusy s then .next (s.enterWait .drain none) else .next (dissolveGang s).advance

end Sys2Proof.Machine
end

