-- ==== Sys2Proof/Machine/Crossbar.lean ====
section
/-! DEFINITION. The event crossbar: EVCFG, EVPULSE and EVWAIT of major 0x39, and the firing of targets (12_cluster.md R283-R287). -/

namespace Sys2Proof.Machine

open Host (Outcome)

/-- An instruction that R287 orders as R193 orders SEAL, and that is serialising (R29). -/
def crossbarOp (s : State) (act : State → Except Stop State) : Outcome State Fault Refusal :=
  serialise s fun s => scalarOut s (do act (← edgeOrder s 0xFF))

/-! ## Counts and firing (R286) -/

/-- Counter n of a cluster. -/
abbrev Cluster.counter (c : Cluster) (n : Nat) : Counter := vread c.counters n
/-- Counter n replaced. -/
def Cluster.setCounter (c : Cluster) (n : Nat) (k : Counter) : Cluster := { c with counters := vwrite c.counters n k }

/-- Whether counter n is an ASID's and has reached THR. -/
def Cluster.reached (c : Cluster) (asid : BitVec 12) (n : Nat) : Bool :=
  (c.counter n).owner == some asid && (c.counter n).thr.toNat ≤ (c.counter n).cnt.toNat

/-- The counters of a mask. -/
def maskBits (m : BitVec 16) : List Nat := (List.range 16).filter (fun j => m.getLsbD j)

/-- Whether a term is true: its AND mask is not empty, and every counter in it has reached THR. -/
def Cluster.termTrue (c : Cluster) (asid : BitVec 12) (t : Nat) : Bool :=
  let m := (vread c.terms t).mask
  (vread c.terms t).owner == some asid && m != 0 && (maskBits m).all (c.reached asid)

/-- THR taken from a counter. -/
def Cluster.consume (c : Cluster) (n : Nat) : Cluster :=
  let k := c.counter n
  c.setCounter n { k with cnt := k.cnt - k.thr.zeroExtend 32 }

/-- What a firing target does: ACTION 1 counts its pulse one cycle later, ACTION 2 queues its descriptor on the sequencer (R292). -/
def Cluster.act (c : Cluster) (asid : BitVec 12) (t : Target) : Cluster :=
  match t.action.toNat with
  | 1 => { c with pulses := c.pulses ++ [(asid, t.psrc)] }
  | 2 => { c with seqQueue := c.seqQueue ++
            [{ byTarget := true, slot := t.definer, grp := t.grp, asid := asid, priv := t.priv, desc := t.maddr }] }
  | _ => c

/-- A target is examined: it fires on its first true term, which consumes THR of its counters. -/
def Cluster.examine (c : Cluster) (k : Nat) : Cluster :=
  let t := vread c.targets k
  match t.owner with
  | none => c
  | some asid =>
    if t.action = 0 then c else
    match (maskBits t.tmask).find? (c.termTrue asid) with
    | none => c
    | some j => { ((maskBits (vread c.terms j).mask).foldl Cluster.consume c).act asid t with again := true }

/-- The enabled targets are examined in ascending number, each firing at most once; after a firing the crossbar re-examines in the
next cycle. -/
def Cluster.pass (c : Cluster) : Cluster := (List.range 32).foldl Cluster.examine { c with again := false }

/-- A pulse of a source under an ASID (R283): every counter of the ASID with that source counts. -/
def Cluster.count (c : Cluster) (asid : BitVec 12) (src : BitVec 5) : Cluster :=
  { c with counters := c.counters.map (fun k =>
      if k.owner == some asid && k.src == src then { k with cnt := satAdd k.cnt 1 } else k) }

/-- EVPULSE: the pulse, and the examination that follows a changed count. -/
def Cluster.pulse (c : Cluster) (asid : BitVec 12) (src : BitVec 5) : Cluster :=
  let c' := c.count asid src
  if c'.counters = c.counters then c' else c'.pass

/-- A pulse in a cluster. -/
def State.pulse (s : State) (cluster : Nat) (asid : BitVec 12) (src : BitVec 5) : State :=
  s.setCluster cluster ((s.cluster cluster).pulse asid src)

/-- The next cycle of a crossbar with something to do: the pulses of fired targets count, and it examines again. -/
def Cluster.tick (c : Cluster) : Cluster :=
  if c.pulses.isEmpty && !c.again then c
  else (c.pulses.foldl (fun (k : Cluster) p => k.count p.1 p.2) { c with pulses := [] }).pass

/-- A cycle of every crossbar. -/
def tickCrossbars (s : State) : State :=
  if s.clusters.any (fun p => !p.2.pulses.isEmpty || p.2.again)
  then { s with clusters := s.clusters.map (fun p => (p.1, p.2.tick)) } else s

/-- Whether a counter is armed (R285): a term that names it lies in the TMASK of an enabled target. -/
def Cluster.armed (c : Cluster) (n : Nat) : Bool :=
  (List.range 32).any (fun k => let t := vread c.targets k
    t.owner.isSome && t.action != 0 && (maskBits t.tmask).any (fun j => (vread c.terms j).mask.getLsbD n))

/-! ## EVCFG (R285) -/

/-- The AND mask of term j in a record. -/
def cfgTerm (ws : List Word) (j : Nat) : BitVec 16 := bits (ws.getD (3 + j / 4) 0) (16 * (j % 4)) 16
/-- The definition of counter n in a record. -/
def cfgCounter (ws : List Word) (n : Nat) : BitVec 32 := bits (ws.getD (7 + n / 2) 0) (32 * (n % 2)) 32

/-- The first word of a record with a reserved bit set. -/
def cfgReserved (ws : List Word) : Option Word :=
  let w (i : Nat) : Word := ws.getD i 0
  if bits (w 0) 7 9 != 0 || bits (w 0) 32 32 != 0 then some (w 0)
  else if bits (w 2) 32 32 != 0 then some (w 2)
  else match (List.range 8).find? (fun i => bits (w (7 + i)) 5 3 != 0 || bits (w (7 + i)) 24 8 != 0
      || bits (w (7 + i)) 37 3 != 0 || bits (w (7 + i)) 56 8 != 0) with
    | some i => some (w (7 + i))
    | none => if w 15 != 0 then some (w 15) else none

/-- A failure of R285 in its order, with its EVAL: a word with a reserved bit, a defined counter with THR = 0, ACTION 3, an entry of
another ASID. -/
def cfgFails (c : Cluster) (asid : BitVec 12) (target : Nat) (ws : List Word) : Option Word :=
  let w0 := ws.getD 0 0
  let w2 := ws.getD 2 0
  let other (o : Option (BitVec 12)) : Bool := o.isSome && o != some asid
  let tdef := maskBits (bits w2 0 16)
  let cdef := maskBits (bits w2 16 16)
  match cfgReserved ws with
  | some w => some w
  | none =>
    match cdef.find? (fun n => bits (cfgCounter ws n) 8 16 == 0) with
    | some n => some ((cfgCounter ws n).zeroExtend 64)
    | none =>
      if bits w0 0 2 = 3 then some 3
      else if other (vread c.targets target).owner then some (BitVec.ofNat 64 target)
      else match (List.range 16).find? (fun j => (tdef.contains j || (bits w0 16 16).getLsbD j) && other (vread c.terms j).owner) with
        | some j => some (BitVec.ofNat 64 j)
        | none =>
          ((List.range 16).find? (fun n => (cdef.contains n || tdef.any (fun j => (cfgTerm ws j).getLsbD n))
            && other (c.counter n).owner)).map (BitVec.ofNat 64)

/-- The definitions of a record taken together; the crossbar examines when they have changed a count. -/
def Cluster.configure (c : Cluster) (asid : BitVec 12) (priv : Bool) (slot : Nat) (grp : Option GroupRef) (target : Nat) (ws : List Word) :
    Cluster :=
  let w0 := ws.getD 0 0
  let w2 := ws.getD 2 0
  let run := grp.map (fun g => (g.run, g.gen))
  let t : Target := { owner := some asid, run := run, action := bits w0 0 2, psrc := bits w0 2 5, tmask := bits w0 16 16, maddr := ws.getD 1 0,
                      priv := priv, definer := slot, grp := grp }
  let terms := (maskBits (bits w2 0 16)).foldl (fun v j => vwrite v j ({ owner := some asid, run := run, mask := cfgTerm ws j } : Term)) c.terms
  let counters := (maskBits (bits w2 16 16)).foldl (fun v n =>
    vwrite v n { vread v n with owner := some asid, run := run, cnt := 0, src := bits (cfgCounter ws n) 0 5, thr := bits (cfgCounter ws n) 8 16 })
    c.counters
  let c' := { c with targets := vwrite c.targets target t, terms := terms, counters := counters }
  if counters.map (·.cnt) = c.counters.map (·.cnt) then c' else c'.pass

/-- The words of a record or descriptor at an address of tag 0x0 or 0x8, read for an agent. -/
def readWords (s : State) (ag : Agent) (a : Word) (n align : Nat) : Except Stop (List Word × State) := do
  if tagOf a != 0 && tagOf a != 8 then throw (.trap 0x20 a)
  match ← checkAccess s ag false (8 * n) align 0 a with
  | .mem key =>
    meetsBad s ag false key (8 * n) 0 a
    let s := engineRead s ag a key (8 * n)
    return ((List.range n).map (fun i => memWord s.mem (key + 8 * i)), s)
  | .reg _ => throw (.trap 0x20 a)

/-- EVCFG (R285). -/
def execEvcfg (a t : BitVec 5) (s : State) : Outcome State Fault Refusal :=
  crossbarOp s fun s => do
    let (ws, s) ← readWords s s.agent (s.x a) 16 128
    let c := s.cluster s.clusterKey
    match cfgFails c s.th.asid t.toNat ws with
    | some v => throw (.trap 0x3C v)
    | none => return (s.setCluster s.clusterKey (c.configure s.th.asid s.th.priv s.cur s.th.grp t.toNat ws)).advance

/-! ## EVPULSE and EVWAIT (R286) -/

/-- EVPULSE (R286). -/
def execEvpulse (sb : BitVec 5) (s : State) : Outcome State Fault Refusal :=
  crossbarOp s fun s => return (s.pulse s.clusterKey s.th.asid sb).advance

/-- The sequencer among the waiters of a counter or a line. -/
abbrev seqWaiter : Nat := 0xFFFFFFFF

/-- Whether the sequencer is at a step of a KIND (R289). -/
def seqAt (c : Cluster) (kind : Nat) : Bool :=
  match c.seqNow with
  | some q => (bits (q.words.getD (4 + 4 * q.step) 0) 0 3).toNat == kind
  | none => false

/-- Whether an entry of a counter's waiters still waits. -/
def waitsEvent (s : State) (cluster n k : Nat) : Bool :=
  if k = seqWaiter then seqAt (s.cluster cluster) 2
  else (s.thread k).slot == .running && (s.thread k).wait == some (.event (BitVec.ofNat 4 n)) && slotCluster k == cluster

/-- Whether a waiter is served next: nobody who began before it still waits. -/
def firstWaiter (s : State) (cluster n k : Nat) : Bool :=
  (((s.cluster cluster).counter n).waiters.takeWhile (· != k)).all (fun j => !waitsEvent s cluster n j)

/-- A waiter begins to wait behind the others. -/
def Counter.join (c : Counter) (k : Nat) : Counter := { c with waiters := c.waiters.filter (· != k) ++ [k] }

/-- Whether an ASID may wait on a counter. -/
def Cluster.mayWait (c : Cluster) (asid : BitVec 12) (n : Nat) : Bool := (c.counter n).owner == some asid && !c.armed n

/-- The waiter takes THR from a counter that has reached it: CNT, and the cluster after. -/
def Cluster.takeCount (c : Cluster) (n k : Nat) : Word × Cluster :=
  let q := c.counter n
  (q.cnt.zeroExtend 64, ((c.setCounter n { q with waiters := q.waiters.filter (· != k) }).consume n).pass)

/-- EVWAIT (R286). -/
def execEvwait (d : BitVec 5) (c : BitVec 4) (s : State) : Outcome State Fault Refusal :=
  serialise s fun s =>
    match edgeOrder s 0xFF with
    | .error st => stopAt s st none
    | .ok s' =>
      let k := s'.cluster s'.clusterKey
      let n := c.toNat
      if !k.mayWait s'.th.asid n then .next (trapAt s 0x3C (c.zeroExtend 64) none)
      else
        let k := if s'.th.wait == some (.event c) then k else k.setCounter n ((k.counter n).join s'.cur)
        let s' := s'.setCluster s'.clusterKey k
        if k.reached s'.th.asid n && firstWaiter s' s'.clusterKey n s'.cur then
          let (v, k) := k.takeCount n s'.cur
          .next ((s'.setCluster s'.clusterKey k).ret d v)
        else .next (s'.enterWait (.event c) none)

/-- EVWAIT_SATISFIED (R286): a waiting EVWAIT takes its count once it is there. -/
def execEvwaitSatisfied (slot : Nat) (s : State) : Outcome State Fault Refusal :=
  retryAt s slot fun i s =>
    match i with
    | .evwait d c => some (execEvwait d c s)
    | _ => none

end Sys2Proof.Machine
end

