-- ==== Sys2Proof/Machine/Copies.lean ====
section
/-! DEFINITION. COPY of major 0x3A and the copy engines of a die (12_cluster.md R276-R282, R292; 07_streams.md R190, R191; 13_die_memory.md R307). -/

namespace Sys2Proof.Machine

open Host (Outcome)

/-! ## The size word and the checks at the push (R276, R277) -/

/-- SIZE. -/
abbrev copySize (xt : Word) : Nat := (bits xt 0 40).toNat
/-- EVSRC. -/
abbrev copySrc (xt : Word) : BitVec 5 := bits xt 40 5
/-- EV. -/
abbrev copyEv (xt : Word) : Bool := bit xt 45
/-- FILL. -/
abbrev copyFill (xt : Word) : Bool := bit xt 46

/-- Whether an address has a tag that R149 does not assign, fixed-zero bits that are set, or a node above 127. -/
def copyBadAddr (gang : Bool) (a : Word) : Bool :=
  match tagOf a with
  | 0x0 => 127 < nodeOf a
  | 0x8 => bits a 23 37 != 0
  | 0x9 => if gang then bits a 21 39 != 0 else bits a 20 40 != 0
  | 0xC => bits a 56 4 != 0
  | 0xF => 127 < nodeOf a
  | _ => true

/-- Whether a range leaves its space: the Larder, or the channel window of its offset. -/
def copyLeaves (a : Word) (n : Nat) : Bool :=
  match tagOf a with
  | 0x8 => 2 ^ 23 < (bits a 0 23).toNat + n
  | 0xC => 2 ^ 43 < (bits a 0 48).toNat + n
  | _ => 2 ^ 43 < offOf a + n

/-- The checks of R277 in their order: cause and EVAL of the first that fails. -/
def copyFails (c : Cluster) (gang : Bool) (xt dst src : Word) : Option (BitVec 7 × Word) :=
  let n := copySize xt
  let ends := [dst, src]
  if bits xt 47 17 != 0 || (copyFill xt && tagOf dst != 8) then some (0x3A, xt)
  else match ends.find? (copyBadAddr gang) with
  | some a => some (0x20, a)
  | none =>
    if tagOf dst == 0xF || tagOf dst == 9 || tagOf dst == 0xC then some (0x22, dst)
    else if tagOf src == 0xF || tagOf src == 9 then some (0x22, src)
    else match ends.find? (fun a => copyLeaves a n) with
    | some a => some (0x3A, a)
    | none =>
      if tagOf dst == tagOf src && dst.toNat < src.toNat + n && src.toNat < dst.toNat + n then some (0x3A, dst)
      else if tagOf dst != 8 then none
      else
        let off := (bits dst 0 23).toNat
        match (c.regions.filter (fun r => n != 0 && r.off < off + n && off < r.off + r.size)).map (fun r => max r.off off) with
        | [] => none
        | x :: xs => some (0x3A, BitVec.ofNat 64 (xs.foldl min x))

/-! ## Chunks (13_die_memory.md R307) -/

/-- Where an address under tag 0xC lies in pod memory; any other one stays. -/
def behindDormer (s : State) (ag : Agent) (a : Word) : Word :=
  if tagOf a != 0xC then a else
  match dormerOf (s.die (slotDie ag.slot)) ag.asid a with
  | some e => e.base + (bits a 0 48).zeroExtend 64
  | none => a

/-- The chunk that byte b of a copy lies in, by its first byte and the one behind its last: no 64 KiB boundary of the source or of the
destination lies in it. -/
def chunkSpan (s : State) (ag : Agent) (job : CopyJob) (b : Nat) : Nat × Nat :=
  let src := (behindDormer s ag (job.src + BitVec.ofNat 64 b)).toNat % 65536
  let dst := (job.dst + BitVec.ofNat 64 b).toNat % 65536
  (b - min src dst, min (copySize job.size) (b + 65536 - max src dst))

/-- The translation that a chunk holds of a page, at an address in it. -/
def heldAt (s : State) (ag : Agent) (write : Bool) (a : Word) : Except Stop Held :=
  let place : Except Stop Nat :=
    match tagOf a with
    | 0x8 => .ok (larderKey (slotCluster ag.slot) (bits a 0 23).toNat)
    | 0xC => match dormerOf (s.die (slotDie ag.slot)) ag.asid a with
      | none => .error (.trap 0x20 a)
      | some e => if e.dead then .error (.trap 0x60 a) else podPlace s ag write (behindDormer s ag a) a
    | _ => podPlace s ag write a a
  match place with
  | .ok key => .ok (.at_ key)
  | .error (.trap c _) => .ok (.fails c)
  | .error st => .error st

/-- A failed translation uses up the refusal or the limit that it met. -/
def heldStop (s : State) (ag : Agent) (h : Held) (a : Word) : State :=
  match h with
  | .fails c => engineStop s ag (.trap c a)
  | .at_ _ => s

/-- The chunk of a copy that byte b lies in starts, unless it has: it translates its pages. -/
def openChunk (s : State) (ag : Agent) (job : CopyJob) (b : Nat) : Except Stop (State × CopyJob) :=
  if job.chunks.any (fun c => c.lo ≤ b && b < c.hi) then .ok (s, job) else do
    let (lo, hi) := chunkSpan s ag job b
    let sa := job.src + BitVec.ofNat 64 lo
    let da := job.dst + BitVec.ofNat 64 lo
    let src ← heldAt s ag false sa
    let dst ← heldAt s ag true da
    return (heldStop (heldStop s ag src sa) ag dst da, { job with chunks := job.chunks ++ [⟨lo, hi, src, dst⟩] })

/-- The chunks of the bytes of an element start. -/
def openChunks (ag : Agent) (hi : Nat) : Nat → Nat → State → CopyJob → Except Stop (State × CopyJob)
  | 0, _, s, job => .ok (s, job)
  | n + 1, b, s, job =>
    if hi ≤ b then .ok (s, job) else do
      let (s, job) ← openChunk s ag job b
      openChunks ag hi n (((job.chunks.find? (fun c => c.lo ≤ b && b < c.hi)).map (·.hi)).getD hi) s job

/-! ## Elements (R278-R281) -/

/-- The pieces of bytes lo to hi - 1 of a copy, none across a chunk: the first byte, how many, and the chunk. -/
def CopyJob.pieces (job : CopyJob) (lo hi : Nat) : List (Nat × Nat × Chunk) :=
  job.chunks.filterMap (fun c => if max lo c.lo < min hi c.hi then some (max lo c.lo, min hi c.hi - max lo c.lo, c) else none)

/-- A home that has become unreachable holds an element, until it fails (18_fabric.md R414). -/
def elemReach (s : State) (ag : Agent) (key : Nat) (a ea : Word) : Except Stop Unit :=
  if !keyUnreachable s ag.slot key then .ok ()
  else if nodeLost s ag (nodeOf a) then .error (.trap 0x60 ea) else .error (.wait (.unreachable ea (nodeOf a)))

/-- A piece of an element, by its first byte, its size and the places of its source and destination. -/
structure Piece where
  off : Nat
  n : Nat
  src : Nat
  dst : Nat
  deriving DecidableEq, Repr

/-- The checks of a piece of an element on the translations of its chunk (R281): its source may be read, and its destination is no
sealed region, no live tile region and no uncorrectable word of which it writes part; a destination line that a view or a relayout
engine owns is waited for (14_views_layouts.md R345; 07_streams.md R191). -/
def checkPiece (s : State) (ag : Agent) (job : CopyJob) (p : Nat × Nat × Chunk) : Except Stop Piece := do
  let (off, n, c) := p
  let sa := job.src + BitVec.ofNat 64 off
  let da := job.dst + BitVec.ofNat 64 off
  match c.src, c.dst with
  | .fails cause, _ => throw (.trap cause sa)
  | _, .fails cause => throw (.trap cause da)
  | .at_ sk, .at_ dk =>
    let sk := sk + (off - c.lo)
    let dk := dk + (off - c.lo)
    if tagOf sa = 0xC && (dormerOf (s.die (slotDie ag.slot)) ag.asid (sa + BitVec.ofNat 64 (n - 1))).isNone then throw (.trap 0x20 sa)
    elemReach s ag sk (behindDormer s ag sa) sa
    meetsBad s ag false sk n 0 sa
    if tagOf da = 8 then
      if inRegion (s.cluster (slotCluster ag.slot)) (bits da 0 23).toNat n then throw (.trap 0x33 da)
    else
      elemReach s ag dk da da
      if sealedAt (s.die (keyDie dk)) ag.asid da n then throw (.trap 0x24 da)
      match (spanKeys dk n).find? (fun k => ownedByView s k || ownedByRelay s k) with
      | some k => throw (.wait (.recall k))
      | none => pure ()
    if s.partPoison dk n then throw (.trap 0x2C da)
    return ⟨off, n, sk, dk⟩

/-- The bytes of element j. -/
def CopyJob.elem (job : CopyJob) (j : Nat) : Nat × Nat := (16 * j, min (copySize job.size) (16 * j + 16))

/-- Element j of a copy whose chunks have started: its bytes read as one event and written; to another die they travel with their chunk
(18_fabric.md R410). -/
def copyElem (s : State) (ag : Agent) (job : CopyJob) (j : Nat) : Except Stop State := do
  let ps ← (job.pieces (job.elem j).1 (job.elem j).2).mapM (checkPiece s ag job)
  let s := ps.foldl (fun s p =>
    let s := engineRead s ag (job.src + BitVec.ofNat 64 p.off) p.src p.n
    reachFrom s ag.asid (slotDie ag.slot) none (job.dst + BitVec.ofNat 64 p.off) p.dst p.n (some [])) s
  let bs := ps.map (fun p => memBytes s.mem p.src p.n)
  return (ps.zip bs).foldl (fun s q => storeBytes s ag.asid (job.dst + BitVec.ofNat 64 q.1.off) q.1.dst q.2) s

/-- The destination lines of element j, by Larder line. -/
def elemLines (job : CopyJob) (j : Nat) : List Nat :=
  let lo := (bits job.dst 0 23).toNat + 16 * j
  let hi := lo + min 16 (copySize job.size - 16 * j)
  if (hi - 1) / 128 = lo / 128 then [lo / 128] else [lo / 128, (hi - 1) / 128]

/-- Lines of a cluster set FULL. -/
def setFull (s : State) (cluster : Nat) (lines : List Nat) : State :=
  let c := s.cluster cluster
  s.setCluster cluster { c with full := lines.foldl (fun f l => if f.contains l then f else f.filter (· < l) ++ l :: f.filter (l < ·)) c.full }

/-- After element j: with FILL, a line whose last element it is becomes FULL, unless an element of the line failed (R280). -/
def fillLines (s : State) (ag : Agent) (job : CopyJob) (j : Nat) : State :=
  if !copyFill job.size then s else
  let last (l : Nat) : Bool := !(elemLines job (j + 1)).contains l || copySize job.size ≤ 16 * (j + 1)
  setFull s (slotCluster ag.slot) ((elemLines job j).filter (fun l => last l && !job.failed.contains l))

/-- The cause that a failed element is reported with (R281). -/
def copyCause (cause : BitVec 7) : BitVec 7 := if cause = 0x33 then 0x3A else cause

/-- The slot of a cluster in which the context of the thread that defined a target is resident (R292). -/
def definerSlot (s : State) (cluster slot : Nat) (grp : Option GroupRef) : Option Nat :=
  ((List.range 16).map (· + cluster * 16)).find? (fun k =>
    let t := s.thread k
    t.slot != .free && !t.gangHigh && t.grp == grp && (grp.isSome || k == slot))

/-- A fault of a macro that a target started (R292): a report of the thread that defined the target while its context is resident in the
cluster; else the Strongroom records it and the Distributor treats the group as faulted: where its context is saved with that context,
where it runs in another cluster once it has landed. -/
def targetFault (s : State) (slot : Nat) (grp : Option GroupRef) (asid : BitVec 12) (cause : BitVec 7) (val at_ : Word) (elem : Nat) :
    State :=
  let cluster := slotCluster slot
  match definerSlot s cluster slot grp with
  | some k =>
    let (w, s) := s.fresh
    s.report k grp ⟨cause, 0, val, w &&& 0xFFFFFFFFFFFC#64, BitVec.ofNat 32 elem⟩
  | none =>
    let node := slotNode slot
    let s := s.record node (cluster / 16 % 8)
      (eventWord cause.toNat 1 asid.toNat (cluster / 16 % 8) (slotCore slot % 64) (slot % 4)) at_ val
    match grp with
    | none => s
    | some g =>
      match (s.pkg node).saved.find? (fun c => c.grp == g), s.slots.find? (fun k => (s.thread k).grp == grp && !(s.thread k).gangHigh) with
      | some c, _ => groupFault s node g cause true c.frame
      | none, some k => syncUpper (s.setThread k ((s.thread k).endHere (some cause))) k
      | none, none => groupFault s node g cause false none

/-- A failed element is reported (R281). -/
def reportElem (s : State) (job : CopyJob) (cause : BitVec 7) (a : Word) (j : Nat) : State :=
  match job.slot with
  | none => s
  | some k =>
    if job.byTarget then targetFault s k job.grp job.asid cause a job.pc j
    else s.report k job.grp ⟨cause, job.sn, a, job.pc, BitVec.ofNat 32 j⟩

/-! ## Remote destinations (18_fabric.md R410) -/

/-- Whether a copy of a die's engine writes to another die. -/
def remoteCopy (s : State) (die : Nat) (job : CopyJob) : Bool := tagOf job.dst == 0 && s.homeOf (die / 8) job.dst != die

/-- A chunk of a copy to another die has its bytes sent, and a notice, at which its elements complete: those whose last byte it has. -/
def sendChunk (s : State) (die : Nat) (job : CopyJob) (c : Chunk) : State :=
  let first := c.lo / 16
  let behind := if copySize job.size ≤ c.hi then ceilDiv (copySize job.size) 16 else c.hi / 16
  let bs := match c.dst with
    | .at_ key => memBytes s.mem key (c.hi - c.lo)
    | .fails _ => []
  startTransfer s die (s.homeOf (die / 8) job.dst) 3 (if bs.isEmpty then [] else dataFlits (BitVec.ofNat 64 job.op) bs)
    (.chunk { job with chunks := [], failed := [] } first (behind - first))

/-- The chunks whose elements have all performed hold their translations no longer. -/
def closeChunks (s : State) (die : Nat) (job : CopyJob) : State × CopyJob :=
  let job' := { job with chunks := job.chunks.filter (fun c => job.copied < c.hi) }
  if remoteCopy s die job then ((job.chunks.filter (fun c => c.hi ≤ job.copied)).foldl (fun s c => sendChunk s die job c) s, job')
  else (s, job')

/-- Whether chunks of a copy are on their way. -/
def chunksOpen (s : State) (job : CopyJob) : Bool :=
  s.dies.any (fun d => d.2.notices.any (fun n => match n.what with
    | .chunk j _ _ => j.slot == job.slot && j.op == job.op
    | _ => false))

/-- The agent of a copy of a die's engine, by what started it: a thread's operation, the sequencer of a cluster, or a queue. -/
def CopyJob.agent (die : Nat) (job : CopyJob) : Agent :=
  let slot := job.slot.getD (die * 256)
  ⟨job.asid, job.priv, slot, match job.queue with
    | some q => [2, q.1, q.2, job.doneAt.toNat, job.dst.toNat, job.src.toNat]
    | none => if job.op = 2 ^ 64 then [3, slotCluster slot] else [1, slot, job.op]⟩

/-- Element j of a copy is done: it completes, unless its chunk's notice does that. -/
def finishElem (s : State) (die : Nat) (job : CopyJob) (j : Nat) : State × CopyJob :=
  let s := match job.slot with
    | some k => if remoteCopy s die job then s else s.complete k job.op 1
    | none => s
  closeChunks (fillLines s (job.agent die) job j) die { job with copied := min (copySize job.size) (16 * (j + 1)) }

/-- n elements of a copy, from the first that has not completed: the job after, and the stop of an element that is held. -/
def copyElems (die : Nat) : Nat → State → CopyJob → State × CopyJob × Option Stop
  | 0, s, job => (s, job, none)
  | n + 1, s, job =>
    let ag := job.agent die
    let j := job.copied / 16
    if copySize job.size ≤ job.copied then (s, job, none) else
    match openChunks ag (job.elem j).2 4 (job.elem j).1 s job with
    | .error st => (engineStop s ag st, job, some st)
    | .ok (s, job) =>
      match copyElem s ag job j with
      | .ok s =>
        let (s, job) := finishElem s die job j
        copyElems die n s job
      | .error (.trap cause a) =>
        let s := reportElem (engineStop s ag (.trap cause a)) job (copyCause cause) a j
        let bad := if copyFill job.size then (elemLines job j) ++ job.failed else job.failed
        let (s, job) := finishElem s die { job with failed := bad, cause := some (job.cause.getD (copyCause cause)) } j
        copyElems die n s job
      | .error st => (engineStop s ag st, job, some st)

/-! ## The copy engines of a die -/

/-- A copy has completed: its pulse (R282), or its packet's completion word (16_package_scheduling.md R380). -/
def finishCopy (s : State) (job : CopyJob) : State :=
  let s := match job.slot with
    | some k => if copyEv job.size then s.pulse (slotCluster k) job.asid (copySrc job.size) else s
    | none => s
  match job.queue with
  | none => s
  | some (node, q) =>
    let p := s.pkg node
    let l := p.queues.look {} q
    let s := s.setPkg node { p with queues := p.queues.put q { l with openCopies := l.openCopies - 1 } }
    if job.doneAt = 0 then s
    else writeAs s node job.asid job.doneAt (leBytes 8 (match job.cause with
      | none => doneWord 1 0 0
      | some c => doneWord 2 c.toNat 0).toNat)

/-- n elements of the copy at a place of a die's list; behind the last one it ends once its chunks have arrived. -/
def progressCopy (s : State) (die idx n : Nat) : State :=
  let d := s.die die
  match d.copies[idx]? with
  | none => s
  | some job =>
    let (s, job, _) := copyElems die n (s.setDie die { d with copies := d.copies.eraseIdx idx }) job
    if copySize job.size ≤ job.copied && !chunksOpen s job then finishCopy s job
    else let d := s.die die; s.setDie die { d with copies := d.copies.take idx ++ job :: d.copies.drop idx }

/-- All elements of the copy of a slot's operation that can complete do. -/
def runCopy (s : State) (slot op : Nat) : State :=
  match (s.die (slotDie slot)).copies.findIdx? (fun j => j.slot == some slot && j.op == op) with
  | none => s
  | some i => progressCopy s (slotDie slot) i (2 ^ 36)

/-- COPY_COMPLETE (R282). -/
def execCopyComplete (slot opid : Nat) (s : State) : Outcome State Fault Refusal := .next (runCopy s slot opid)

/-! ## COPY (R276-R278) -/

/-- The issue of a COPY to the die's engines: its elements count at once. -/
def issueCopy (op : VOp) (s : State) : Except Stop State := do
  let s ← edgeOrder s op.edge
  let n := ceilDiv (copySize op.xt) 16
  if n = 0 then return if copyEv op.xt then s.pulse s.clusterKey s.th.asid (copySrc op.xt) else s
  checkExhausted s op.sn 1
  let s := mergeStream s op.sn
  let s := { s with th := s.th.issueOp op.sn op.id n }
  let d := s.die s.dieKey
  let job : CopyJob := { slot := some s.cur, op := op.id, sn := op.sn, grp := s.th.grp, asid := s.th.asid, priv := s.th.priv, edge := op.edge,
                         dst := op.xb, src := op.xa, size := op.xt, pc := op.addr }
  return s.setDie s.dieKey { d with copies := d.copies ++ [job] }

/-- The plan of a queued COPY: its issue. -/
def copyPlan (op : VOp) : VPlan := { steps := 1, live := 0, cw := 1, dsts := [], gv := false, gran := fun _ => issueCopy op }

/-- Whether an operation is outstanding. -/
def Thread.outstanding (t : Thread) (op : Nat) : Bool := t.ops.any (fun o => o.id == op)

/-- A blocking COPY at its completion. -/
def awaitCopy (s : State) (op : Nat) : State :=
  let s := runCopy s s.cur op
  if s.th.outstanding op then s.enterWait (.operation op) none else s.advance

/-- COPY (R276-R282). -/
def execCopy (t b i : BitVec 5) (sn e : BitVec 3) (n : Bool) (s : State) : Outcome State Fault Refusal :=
  let op := { s.vop .copy 0 i b (wordOf (.copy t b i sn e n)) with xt := s.x t, sn := sn, edge := s.th.edge e, n := n }
  match s.th.wait with
  | some (.operation id) => .next (awaitCopy s id)
  | _ =>
    match copyFails (s.cluster s.clusterKey) s.th.gang op.xt op.xb op.xa with
    | some (c, v) => .next (trapAt s c v none)
    | none =>
      if s.runsAhead then
        if s.th.queueRoom then .next (pushVec s op) else .next (s.enterWait .queue none)
      else match issueCopy op s with
        | .error st => stopAt s st none
        | .ok s' => .next (if n then s'.advance else awaitCopy s' op.id)

end Sys2Proof.Machine
end

