-- ==== Sys2Proof/Machine/FullEmpty.lean ====
section
/-! DEFINITION. LDW, LDC, STFL and LCLR of major 0x3A (12_cluster.md R272-R275). -/

namespace Sys2Proof.Machine

open Host (Outcome)

/-! ## Lines and their waiters (R273, R274) -/

/-- Whether an entry of a cluster's line waits still waits. -/
def waitsLine (s : State) (cluster : Nat) (w : LineWait) : Bool :=
  let t := s.thread w.slot
  t.slot == .running && slotCluster w.slot == cluster && ((match t.wait with
    | some (.line _) => true
    | _ => false) || (match t.front with
    | q :: _ => (match q.op.kind with
      | .fullEmpty _ => true
      | _ => false)
    | [] => false))

/-- The lowest line that holds a waiter back: one that is not in the required state, else one that an older waiter also waits on. -/
def lineHeld (s : State) (cluster me : Nat) (lines : List Nat) (full : Bool) : Option Nat :=
  let c := s.cluster cluster
  match lines.find? (fun l => c.full.contains l != full) with
  | some l => some l
  | none =>
    let older := (c.lineWaits.takeWhile (fun w => w.slot != me)).filter (waitsLine s cluster)
    lines.find? (fun l => older.any (fun w => w.lines.contains l))

/-- The Larder address of a line. -/
def lineAddr (l : Nat) : Word := BitVec.ofNat 64 (8 * 2 ^ 60 + l * 128)

/-- A waiter stands in its cluster's order: where it already waits for these lines, else behind the others. -/
def joinLines (s : State) (cluster : Nat) (w : LineWait) : State :=
  let c := s.cluster cluster
  if c.lineWaits.contains w then s
  else s.setCluster cluster { c with lineWaits := c.lineWaits.filter (fun q => q.slot != w.slot) ++ [w] }

/-- A waiter stands in the order no longer. -/
def leaveLines (s : State) (cluster me : Nat) : State :=
  let c := s.cluster cluster
  s.setCluster cluster { c with lineWaits := c.lineWaits.filter (fun q => q.slot != me) }

/-- The lines of bytes lo to hi - 1 of the Larder. -/
def linesOf (lo hi : Nat) : List Nat :=
  if hi ≤ lo then [] else ((List.range ((hi - 1) / 128 + 1 - lo / 128)).map (· + lo / 128)).filter (· < 65536)

/-! ## LDW, LDC, STFL (R272, R273) -/

/-- What a full/empty instruction does to its elements. -/
def FeOp.form (o : FeOp) : VKind :=
  match o with
  | .stfl => .store .unit
  | _ => .load .unit

/-- The state in which it waits for its lines: FULL, or EMPTY for STFL. -/
def FeOp.wantsFull (o : FeOp) : Bool :=
  match o with
  | .stfl => false
  | _ => true

/-- The lines of a granule: those of every element below VL. -/
def VOp.feLines (op : VOp) (g : Nat) : List Nat :=
  let es := granuleElems op.sew op.n_ g
  match es.head?, es.getLast? with
  | some lo, some hi =>
    let base := (bits op.xb 0 23).toNat
    linesOf (base + lo * op.sew / 8) (base + hi * op.sew / 8 + elemBytes op.sew)
  | _, _ => []

/-- Full/empty bits after a granule's action (R273). -/
def feBits (s : State) (o : FeOp) (lines : List Nat) : State :=
  let c := s.cluster s.clusterKey
  match o with
  | .ldw => s
  | .ldc => s.setCluster s.clusterKey { c with full := c.full.filter (fun l => !lines.contains l) }
  | .stfl => setFull s s.clusterKey lines

/-- The first active element of a granule that fails its checks of R151. -/
def feFails (s : State) (op : VOp) (o : FeOp) (act : List Nat) : Option Stop :=
  act.findSome? (fun i =>
    match checkAccess s s.agent o.form.stores (elemBytes op.sew) (if op.sew = 4 then 1 else elemBytes op.sew) i (stepAddr op.xb op.sew i).1 with
    | .error st => some st
    | .ok _ => none)

/-- A granule: its checks under R151, its lines in the state required and its turn among the waiters, then one action on all of them, in
which it reads and so meets uncorrectable words (R273). Its elements complete with it, under n too (log 7). -/
def feGranule (op : VOp) (o : FeOp) (last : Bool) (g : Nat) (s : State) : Except Stop State := do
  let t0 := s.th
  let form := { op with kind := o.form, n := false }
  let es := granuleElems op.sew op.n_ g
  match t0.badRead op.k form.memData es with
  | some v => throw (.trap 0x2B v)
  | none => pure ()
  let s ← edgeOrder s op.edge
  checkExhausted s op.sn es.length
  let s := performWhere s s.cur (fun p => p.kind == .lclr)
  let act := es.filter (t0.active op.k)
  match feFails s op o act with
  | some st => throw st
  | none => pure ()
  let lines := op.feLines g
  match lineHeld s s.clusterKey s.cur lines o.wantsFull with
  | some l => throw (.wait (.line (lineAddr l)))
  | none => pure ()
  let (hits, s) ← resolveAll form act act s
  let s := if form.kind.stores then mergeStream s op.sn else s
  let s := feBits (hits.foldl (performHit form t0) (leaveLines s s.clusterKey s.cur)) o lines
  let t := s.th.countNow op.sn (es.length - hits.length)
  let t := if form.kind.loads then t.mendWritten op.groupD (fun i => hits.any (fun h => h.i == i)) else t
  let t := if last then { t with nextOp := max t.nextOp (op.id + 1) } else t
  return { s with th := t }

/-- The plan of a full/empty instruction. -/
def fePlan (op : VOp) (o : FeOp) : VPlan :=
  let n := liveGranules op.sew op.n_
  { steps := n, live := n, cw := op.sew, dsts := if o.form.loads then [op.groupD] else [], gran := fun g => feGranule op o (g + 1 == n) g }

/-- A granule that begins to wait takes its place among the waiters. -/
def joinWaiting (op : VOp) (o : FeOp) (r : Outcome State Fault Refusal) : Outcome State Fault Refusal :=
  match r with
  | .next s =>
    match s.th.wait with
    | some (.line _) => .next (joinLines s s.clusterKey ⟨s.cur, op.feLines s.th.gsuf.toNat, o.wantsFull⟩)
    | _ => .next s
  | r => r

/-- Whether xb is the base of a full/empty instruction: tag 0x8, at a line. -/
def lineBase (xb : Word) : Bool := tagOf xb == 8 && xb.toNat % 128 == 0

/-- LDW, LDC or STFL (R272, R273). -/
def issueFe (s : State) (o : FeOp) (t b : BitVec 5) (sn e : BitVec 3) (k n : Bool) (word : BitVec 32) : Outcome State Fault Refusal :=
  let op := s.mop (.fullEmpty o) t b 0 sn e k n word
  if !aligned t op.g then .next (trapAt s 0x05 op.word none)
  else if !lineBase op.xb then .next (trapAt s 0x39 op.xb none)
  else joinWaiting op o (runVec s op (fePlan op o))

/-- LDW (R273). -/
def execLdw (t b : BitVec 5) (sn e : BitVec 3) (k n : Bool) (s : State) : Outcome State Fault Refusal :=
  issueFe s .ldw t b sn e k n (wordOf (.ldw t b sn e k n))
/-- LDC (R273). -/
def execLdc (t b : BitVec 5) (sn e : BitVec 3) (k n : Bool) (s : State) : Outcome State Fault Refusal :=
  issueFe s .ldc t b sn e k n (wordOf (.ldc t b sn e k n))
/-- STFL (R273). -/
def execStfl (t b : BitVec 5) (sn e : BitVec 3) (k n : Bool) (s : State) : Outcome State Fault Refusal :=
  issueFe s .stfl t b sn e k n (wordOf (.stfl t b sn e k n))

/-! ## LCLR (R272, R273) -/

/-- The checks of LCLR and of a FILLWAIT or LCLR step on an address and a length: the base, R149's fixed-zero bits, the Larder's end. -/
def lineRangeFails (xb len : Word) : Option (BitVec 7 × Word) :=
  if !lineBase xb then some (0x39, xb)
  else if bits xb 23 37 != 0 then some (0x20, xb)
  else if 2 ^ 23 < (bits xb 0 23).toNat + len.toNat then some (0x39, xb)
  else none

/-- The body of LCLR: one element, which performs at commit, or issues. -/
def clearRange (s : State) (sn e : BitVec 3) (n : Bool) (xb len : Word) : Except Stop State := do
  match lineRangeFails xb len with
  | some (c, v) => throw (.trap c v)
  | none => pure ()
  scalarReady s true
  let s ← edgeOrder s (s.th.edge e)
  checkExhausted s sn 1
  let off := (bits xb 0 23).toNat
  if n then
    let op := s.th.nextOp
    let t := s.th.issueOp sn op 1
    let p : Pend := { kind := .lclr, op := op, sn := sn, asid := t.asid, addr := xb, key := larderKey s.clusterKey off, sew := 8, data := len,
                      pc := t.pc }
    return { s with th := { t with pend := t.pend ++ [p] } }.advance
  else return ((clearLines s s.clusterKey off len.toNat).countScalar sn).advance

/-- LCLR (R272, R273). -/
def execLclr (b i : BitVec 5) (sn e : BitVec 3) (n : Bool) (s : State) : Outcome State Fault Refusal :=
  scalarOut s (clearRange s sn e n (s.x b) (s.x i))

end Sys2Proof.Machine
end

