-- ==== Sys2Proof/Machine/Sequencer.lean ====
section
/-! DEFINITION. MACRO and the macro-operation sequencer of a cluster (12_cluster.md R288-R292). -/

namespace Sys2Proof.Machine

open Host (Outcome)

/-! ## Descriptors (R289) -/

/-- LINK of step j. -/
def SeqRun.link (q : SeqRun) (j : Nat) : Bool := bit (q.word j 0) 3
/-- ARG of step j. -/
def SeqRun.arg (q : SeqRun) (j : Nat) : BitVec 5 := bits (q.word j 0) 4 5
/-- The address of word i of step j. -/
def SeqRun.wordAddr (q : SeqRun) (j i : Nat) : Word := q.desc + BitVec.ofNat 64 (0x20 + 32 * j + 8 * i)
/-- The agent of a program's accesses (13_die_memory.md R440). -/
def SeqRun.agent (q : SeqRun) : Agent := ⟨q.asid, q.priv, q.slot, [3, slotCluster q.slot]⟩

/-- Step j's failure: a reserved bit or KIND, LINK on the last step or in a chain of LINK = 1 that is longer than three steps, or a COPY
step that fails R277. -/
def SeqRun.stepFails (c : Cluster) (gang : Bool) (q : SeqRun) (j : Nat) : Option (BitVec 7 × Word) :=
  let k := q.kind j
  let chained := q.link j && ((3 ≤ j && q.link (j - 1) && q.link (j - 2) && q.link (j - 3)) || j + 1 = q.count)
  let argOk := match k with
    | 1 => true
    | 2 => q.arg j < 16
    | _ => q.arg j == 0
  if bits (q.word j 0) 9 55 != 0 || 4 < k || chained || !argOk then some (0x3B, q.wordAddr j 0)
  else if k = 0 then copyFails c gang (q.word j 3) (q.word j 1) (q.word j 2)
  else
    let lo := if k ≤ 2 then 1 else 3
    ((List.range (4 - lo)).find? (fun i => q.word j (lo + i) != 0)).map (fun i => (0x3B, q.wordAddr j (lo + i)))

/-- The header's failure. -/
def SeqRun.headFails (q : SeqRun) : Option (BitVec 7 × Word) :=
  let w (i : Nat) : Word := q.words.getD i 0
  if bits (w 0) 5 59 != 0 || q.count = 0 then some (0x3B, q.desc)
  else if bits (w 1) 5 3 != 0 || bits (w 1) 48 16 != 0 || q.count ≤ (bits (w 1) 0 5).toNat || (bits (w 1) 8 16) != 0
  then some (0x3B, q.desc + 8)
  else if w 2 != 0 then some (0x3B, q.desc + 16)
  else if w 3 != 0 then some (0x3B, q.desc + 24)
  else none

/-- The words of n steps of a descriptor, from step j on. -/
def readSteps (q : SeqRun) : Nat → Nat → State → Except Stop (List Word × State)
  | 0, _, s => .ok ([], s)
  | n + 1, j, s => do
    let (ws, s) ← readWords s q.agent (q.wordAddr j 0) 4 32
    let (rest, s) ← readSteps q n (j + 1) s
    return (ws ++ rest, s)

/-- The start of a program: the whole descriptor is read and checked, and it goes on from STEP and DONE (R289, R291). -/
def loadMacro (s : State) (q : SeqRun) : Except Stop (SeqRun × State) := do
  let (head, s) ← readWords s q.agent q.desc 4 32
  let q := { q with words := head }
  match q.headFails with
  | some (c, v) => throw (.trap c v)
  | none => pure ()
  let (steps, s) ← readSteps q q.count 0 s
  let q := { q with words := head ++ steps }
  match (List.range q.count).findSome? (q.stepFails (s.cluster (slotCluster q.slot)) (s.thread q.slot).gang) with
  | some (c, v) => throw (.trap c v)
  | none => pure ()
  let w1 := head.getD 1 0
  return ({ q with step := (bits w1 0 5).toNat, copied := (bits w1 8 40).toNat }, s)

/-- Word 1 of a descriptor written on the program's behalf. -/
def writeProgress (s : State) (q : SeqRun) (v : Nat) : Except Stop State := engineStore s q.agent 1 (q.desc + 8) (leBytes 8 v)

/-! ## Steps (R290) -/

/-- The copy that a COPY step makes, from its first byte not yet copied; it belongs to no stream. A failure that the Strongroom records
names its step (R292). -/
def SeqRun.job (q : SeqRun) (pc : Word) : CopyJob :=
  { slot := some q.slot, op := 2 ^ 64, sn := 0, grp := q.grp, asid := q.asid, priv := q.priv, edge := 0, dst := q.word q.step 1,
    src := q.word q.step 2, size := q.word q.step 3, pc := if q.byTarget then BitVec.ofNat 64 q.step else pc, byTarget := q.byTarget,
    copied := q.copied, failed := q.failed, chunks := q.chunks }

/-- The program behind a step that has completed. -/
def SeqRun.next (q : SeqRun) : SeqRun := { q with step := q.step + 1, copied := 0, failed := [], chunks := [] }

/-- The step that a program is at: a COPY step goes on by at most 64 KiB at a time; a step that waits, is held or faults gives its
stop. -/
def runStep (s : State) (cluster : Nat) (q : SeqRun) : State × SeqRun × Option Stop :=
  let j := q.step
  match q.kind j with
  | 0 =>
    let (s, job, st) := copyElems (cluster / 16) (4096 - q.copied % 65536 / 16) s (q.job (s.thread q.slot).pc)
    let q := { q with copied := job.copied, failed := job.failed, chunks := job.chunks }
    match st with
    | some st => (s, q, some st)
    | none =>
      if copySize job.size ≤ job.copied then
        if chunksOpen s job then (s, q, some (.wait (.operation job.op))) else
        (if copyEv job.size then s.pulse cluster q.asid (copySrc job.size) else s, q.next, none)
      else (s, q, none)
  | 1 => (s.pulse cluster q.asid (q.arg j), q.next, none)
  | 2 =>
    let n := (q.arg j).toNat
    let c := s.cluster cluster
    if !c.mayWait q.asid n then (s, q, some (.trap 0x3C (BitVec.ofNat 64 n)))
    else
      let c := if (c.counter n).waiters.contains seqWaiter then c else c.setCounter n ((c.counter n).join seqWaiter)
      let s := s.setCluster cluster c
      if c.reached q.asid n && firstWaiter s cluster n seqWaiter
      then (s.setCluster cluster (c.takeCount n seqWaiter).2, q.next, none)
      else (s, q, some (.wait (.event (BitVec.ofNat 4 n))))
  | 3 =>
    match lineRangeFails (q.word j 1) (q.word j 2) with
    | some (c, v) => (s, q, some (.trap c v))
    | none =>
      let off := (bits (q.word j 1) 0 23).toNat
      let lines := linesOf off (off + (q.word j 2).toNat)
      match lines.find? (fun l => !(s.cluster cluster).full.contains l) with
      | some l => (s, q, some (.wait (.line (lineAddr l))))
      | none => (s, q.next, none)
  | _ =>
    match lineRangeFails (q.word j 1) (q.word j 2) with
    | some (c, v) => (s, q, some (.trap c v))
    | none => (clearLines s cluster (bits (q.word j 1) 0 23).toNat (q.word j 2).toNat, q.next, none)

/-- A program runs: to its end or its first stop, or to the next place where a pre-emption may land (R291). -/
def runProgram (cluster : Nat) (whole : Bool) : Nat → State → SeqRun → State × SeqRun × Option Stop
  | 0, s, q => (s, q, none)
  | n + 1, s, q =>
    if q.count ≤ q.step then (s, q, none) else
    match runStep s cluster q with
    | (s, q', some st) => (s, q', some st)
    | (s, q', none) =>
      if whole || (q'.step != q.step && q.link q.step) then runProgram cluster whole n s q' else (s, q', none)

/-! ## The sequencer of a cluster (R288, R292) -/

/-- The sequencer's program replaced. -/
def setSeq (s : State) (cluster : Nat) (now : Option SeqRun) (queue : List SeqRun) : State :=
  s.setCluster cluster { s.cluster cluster with seqNow := now, seqQueue := queue }

/-- A program starts: the sequencer waits for nothing yet. -/
def seqBegin (s : State) (cluster : Nat) (q : SeqRun) (queue : List SeqRun) : State :=
  let c := s.cluster cluster
  dropHolds (s.setCluster cluster { c with
    seqNow := some q, seqQueue := queue
    counters := c.counters.map (fun k => { k with waiters := k.waiters.filter (· != seqWaiter) }) }) (· == q.agent.who)

/-- A fault of a macro that a target started (R292). -/
def seqFault (s : State) (q : SeqRun) (cause : BitVec 7) (val : Word) : State :=
  targetFault s q.slot q.grp q.asid cause val (BitVec.ofNat 64 q.step) 0

/-- The landing of a program of a target that has faulted: its progress is written, and the sequencer is free. -/
def seqEnd (s : State) (cluster : Nat) (q : SeqRun) (cause : BitVec 7) (val : Word) : State :=
  let s := setSeq s cluster none (s.cluster cluster).seqQueue
  let s := match writeProgress s q (q.step + q.copied / 65536 * 65536 * 2 ^ 8) with
    | .ok s => s
    | .error _ => s
  seqFault s q cause val

/-- The end of a program: word 1 becomes 0 and the sequencer is free. -/
def seqFinish (s : State) (cluster : Nat) (q : SeqRun) : Except Stop State := do
  let s ← writeProgress s q 0
  return setSeq s cluster none (s.cluster cluster).seqQueue

/-! ## MACRO (R288) -/

/-- The thread's program goes on: to its end, where the MACRO commits, or to a stop. -/
def continueMacro (s : State) (q : SeqRun) : Outcome State Fault Refusal :=
  let k := s.clusterKey
  let (s, q, st) := runProgram k true (2 ^ 30) s q
  let s := setSeq s k (some q) (s.cluster k).seqQueue
  let stop (st : Stop) : Outcome State Fault Refusal :=
    match st with
    | .wait _ => .next ((engineStop s q.agent st).enterWait .sequencer none)
    | st => stopAt (engineStop s q.agent st) st none
  match st with
  | some st => stop st
  | none =>
    match seqFinish s k q with
    | .ok s => .next s.advance
    | .error st => stop st

/-- MACRO (R288-R291): in its turn the thread's descriptor is read, checked and run. -/
def execMacroOp (a : BitVec 5) (s : State) : Outcome State Fault Refusal :=
  serialise s fun s =>
    match edgeOrder s 0xFF with
    | .error st => stopAt s st none
    | .ok s' =>
      let k := s'.clusterKey
      let mine (q : SeqRun) : Bool := q.slot == s'.cur && !q.byTarget
      let others := (seqWaiting s' k).filter (fun q => !mine q)
      let ahead := ((seqWaiting s' k).takeWhile (fun q => !mine q)).filter (fun q => !mine q)
      match seqRunning s' k with
      | some q =>
        if mine q then continueMacro s' q
        else
          let me : SeqRun := { byTarget := false, slot := s'.cur, grp := s'.th.grp, asid := s'.th.asid, priv := s'.th.priv, desc := s'.x a }
          let queue := if (s'.cluster k).seqQueue.any mine then (s'.cluster k).seqQueue else (s'.cluster k).seqQueue ++ [me]
          .next ((setSeq s' k (some q) queue).enterWait .sequencer none)
      | none =>
        let me : SeqRun := { byTarget := false, slot := s'.cur, grp := s'.th.grp, asid := s'.th.asid, priv := s'.th.priv, desc := s'.x a }
        if ahead.isEmpty then
          match loadMacro s' me with
          | .ok (q, s') => continueMacro (seqBegin s' k q others) q
          | .error (.wait w) => .next ((engineStop (setSeq s' k none (me :: others)) me.agent (.wait w)).enterWait .sequencer none)
          | .error st => stopAt (engineStop (setSeq s' k none others) me.agent st) st none
        else
          let queue := if (s'.cluster k).seqQueue.any mine then (s'.cluster k).seqQueue else (s'.cluster k).seqQueue ++ [me]
          .next ((setSeq s' k none queue).enterWait .sequencer none)

/-! ## The sequencer's own steps -/

/-- The sequencer takes the next waiting program (R288): its descriptor is read and checked. -/
def startMacro (s : State) (cluster : Nat) : State :=
  match seqRunning s cluster, seqWaiting s cluster with
  | some _, _ => s
  | none, [] => s
  | none, q :: rest =>
    match loadMacro s q with
    | .ok (q, s) => seqBegin s cluster q rest
    | .error (.trap c v) =>
      let s' := engineStop (setSeq s cluster none rest) q.agent (.trap c v)
      if q.byTarget then seqFault s' q c v
      else
        let f := s'.focus q.slot
        (takeTrap f c v f.th.pc none false).focus s.cur
    | .error st => engineStop s q.agent st

/-- MACRO_START (R288). -/
def execMacroStart (cluster : Nat) (s : State) : Outcome State Fault Refusal := .next (startMacro s cluster)

/-- A stop of the program that the sequencer runs. -/
def seqStop (s : State) (cluster : Nat) (q : SeqRun) (st : Stop) : State :=
  match st with
  | .trap c v =>
    let s := engineStop s q.agent st
    if q.byTarget then seqEnd s cluster q c v
    else
      let f := s.focus q.slot
      (takeTrap f c v f.th.pc none false).focus s.cur
  | st => engineStop s q.agent st

/-- The running program goes on to its next landing place; behind its last step, the program ends and its MACRO commits. -/
def stepMacro (s : State) (cluster : Nat) : State :=
  match seqRunning s cluster with
  | none => s
  | some q =>
    let (s, q, st) := runProgram cluster false 64 s q
    let s := setSeq s cluster (some q) (s.cluster cluster).seqQueue
    match st with
    | some st => seqStop s cluster q st
    | none =>
      if q.step < q.count then s else
      match seqFinish s cluster q with
      | .error st => seqStop s cluster q st
      | .ok s' =>
        if q.byTarget then s'
        else
          let f := s'.focus q.slot
          f.advance.focus s.cur

/-- MACRO_STEP (R290). -/
def execMacroStep (cluster : Nat) (s : State) : Outcome State Fault Refusal := .next (stepMacro s cluster)

/-- The limit of R274 on a WAIT or FILLWAIT step: a step that still waits takes cause 0x39; EVAL is the line's address for FILLWAIT,
and a free value for WAIT, to which the manual gives no address (log 5). -/
def seqTimeout (s : State) (cluster slot : Nat) : State :=
  match seqRunning s cluster with
  | none => s
  | some q =>
    if q.slot != slot then s else
    match runProgram cluster false 64 s q with
    | (s, q, some (.wait (.line a))) => seqStop (setSeq s cluster (some q) (s.cluster cluster).seqQueue) cluster q (.trap 0x39 a)
    | (s, q, some (.wait (.event _))) =>
      let (w, s) := s.fresh
      seqStop (setSeq s cluster (some q) (s.cluster cluster).seqQueue) cluster q (.trap 0x39 w)
    | (s, q, _) => setSeq s cluster (some q) (s.cluster cluster).seqQueue

end Sys2Proof.Machine
end

