-- ==== Sys2Proof/Machine/Phases.lean ====
section
/-! DEFINITION. Major 0x3B: PHASE and LEADSET (12_cluster.md R293, R294). -/

namespace Sys2Proof.Machine

open Host (Outcome)

/-- The phases of the threads of an ASID that participate in a cluster (R294), those whose contexts are leaving with them. -/
def phasesIn (s : State) (cluster : Nat) (asid : BitVec 12) : List Nat :=
  (List.range 16).filterMap (fun i =>
    let t := s.thread (cluster * 16 + i)
    if (t.slot == .running || t.slot == .draining) && t.asid == asid && !t.gangHigh then t.tph.map (·.toNat) else none)

/-- CPH of a cluster and an ASID; none without participants. -/
def cph (s : State) (cluster : Nat) (asid : BitVec 12) : Option Nat :=
  match phasesIn s cluster asid with
  | [] => none
  | x :: xs => some (xs.foldl min x)

/-- The neighbours of a cluster on its die. -/
def neighbours (cluster : Nat) : List Nat :=
  let d := cluster / 16 * 16
  [d + (cluster + 15) % 16, d + (cluster + 1) % 16]

/-- PHASE (R294). -/
def phaseBody (s : State) : Except Stop State :=
  let k := s.clusterKey
  let asid := s.th.asid
  match s.th.tph with
  | none =>
    let v := match (k :: neighbours k).filterMap (cph s · asid) with
      | [] => 1
      | x :: xs => xs.foldl min x
    .ok { s with th := { s.th with tph := some (BitVec.ofNat 32 v) } }.advance
  | some p =>
    let new := p + 1
    if (neighbours k).all (fun n => match cph s n asid with
        | some c => new.toNat ≤ c + (s.cluster k).lead.toNat
        | none => true)
    then .ok { s with th := { s.th with tph := some new } }.advance
    else .error (.wait (.phase new))

/-- PHASE (R293, R294). -/
def execPhase (s : State) : Outcome State Fault Refusal := serialise s fun s => scalarOut s (phaseBody s)

/-- LEADSET (R293), privileged (R60); a value of 0 is reserved (R53). -/
def execLeadset (l : BitVec 4) (s : State) : Outcome State Fault Refusal :=
  let word : Word := (wordOf (.leadset l)).zeroExtend 64
  serialise s fun s =>
    if l = 0 then .next (trapAt s 0x02 word none) else
    privileged s word fun s => .next (s.setCluster s.clusterKey { s.cluster s.clusterKey with lead := l }).advance

/-- PHASE_RELEASE (R294): a waiting PHASE goes on once its neighbours allow. -/
def execPhaseRelease (slot : Nat) (s : State) : Outcome State Fault Refusal :=
  retryAt s slot fun i s =>
    match i with
    | .phase => some (execPhase s)
    | _ => none

/-- PHASE_TIMEOUT (R294): a PHASE that has waited longer than PHTO takes cause 0x3D with the TPH it sought. -/
def execPhaseTimeout (slot : Nat) (s : State) : Outcome State Fault Refusal :=
  let t := s.thread slot
  match t.wait with
  | some (.phase p) =>
    if t.slot != .running || (s.cluster (slotCluster slot)).phto = 0 then .next s
    else .next ((takeTrap (s.focus slot) 0x3D (p.zeroExtend 64) t.pc none false).focus s.cur)
  | _ => .next s

end Sys2Proof.Machine
end

