-- ==== Sys2Proof/Machine/Transfers.lean ====
section
/-! DEFINITION. Major 0x3C: TSEND, COLL and COLLQ (18_fabric.md R417-R427). -/

namespace Sys2Proof.Machine

open Host (Outcome)

/-! ## On their way (R410) -/

/-- Whether a notice carries a contribution or a row of an operation of a slot. -/
def NoticeRec.isOf (n : NoticeRec) (slot op : Nat) : Bool :=
  match n.what with
  | .contribution c => c.slot == slot && c.op == op
  | .row r => r.slot == slot && r.op == op
  | _ => false

/-- The flits before a held notice are delivered, and it takes its effect, once the receiver can be reached (R414). -/
def landNotice (s : State) (die idx : Nat) : State :=
  match (s.die die).notices[idx]? with
  | none => s
  | some n =>
    if !s.reachesDie n.src die then s else takeNotice (flushLink (flushLink s n.src die false) n.src die true) die idx

/-- A contribution at a home is acted on. -/
def contribute (s : State) (die idx : Nat) : State :=
  let d := s.die die
  match d.contribs[idx]? with
  | none => s
  | some c => orHeld s (c.agent die 0) (takeContrib (s.setDie die { d with contribs := d.contribs.eraseIdx idx }) die c)

/-- The rows up to one of an operation that have arrived at its inbox fan out, in their order (R427). -/
def fanInbox (s : State) (die slot op : Nat) : State :=
  match (s.die die).rows.findIdx? (fun r => r.slot == slot && r.op == op) with
  | none => s
  | some i =>
    let rows := (s.die die).rows
    let same (q : TokenRow) : Bool := (rows[i]?).any (fun r => q.asid == r.asid && q.inbox == r.inbox)
    ((rows.take (i + 1)).filter same).foldl (fun s _ => match (s.die die).rows.findIdx? same with
      | some k => fanRow s die k
      | none => s) s

/-- What an operation of a slot has sent reaches its home and is acted on there. -/
def hurry (s : State) (slot op : Nat) : State :=
  let s := if (s.die (slotDie slot)).unsent.isEmpty then s else sendUnsent s (slotDie slot)
  let s := s.dies.foldl (fun s p => match (s.die p.1).notices.findIdx? (·.isOf slot op) with
    | some i => landNotice s p.1 i
    | none => s) s
  s.dies.foldl (fun s p =>
    let s := match (s.die p.1).contribs.findIdx? (fun c => c.slot == slot && c.op == op) with
      | some i => contribute s p.1 i
      | none => s
    fanInbox s p.1 slot op) s

/-- A blocking operation at its completion. -/
def awaitSent (s : State) (op : Nat) : State :=
  let s := hurry s s.cur op
  if s.th.outstanding op then s.enterWait (.operation op) none else s.advance

/-! ## COLL (R420, R421) -/

/-- An access of a COLL: a home that cannot be reached is reported by the descriptor's address. -/
def collAt (xt : Word) (r : Except Stop Place) : Except Stop Place :=
  match r with
  | .error (.wait (.unreachable _ node)) => .error (.wait (.unreachable xt node))
  | .error (.trap 0x60 _) => .error (.trap 0x60 xt)
  | r => r

/-- Steps 1 and 2 of R421: the descriptor's first words. -/
def collDescriptor (s : State) (xt : Word) (n : Nat) : Except Stop (List Word × State) := do
  if tagOf xt != 0 && tagOf xt != 8 then throw (.trap 0x20 xt)
  match ← checkAccess s s.agent false (8 * n) 64 0 xt with
  | .mem key =>
    let s := forceOverlap s s.cur key (8 * n)
    if remoteKey s.cur key then ownWrites s s.cur key
    meetsBad s s.agent false key (8 * n) 0 xt
    let s := ((flushLine s key).correct key (8 * n)).touchRead s.coreKey xt key (8 * n)
    let ws := (List.range n).map (fun i => memWord s.mem (key + 8 * i))
    if !collWordsOk (ws.getD 0 0) (ws.getD 1 0) then throw (.trap 0x61 xt)
    return (ws, s)
  | .reg _ => throw (.trap 0x20 xt)

/-- The source elements (R421 step 3), with one request for each line. -/
def collSource (s : State) (xt xb : Word) (w : Nat) : Nat → Nat → Except Stop (List Word × State)
  | 0, _ => .ok ([], s)
  | n + 1, i => do
    let a := xb + BitVec.ofNat 64 (i * (w / 8))
    match ← collAt xt (checkAccess s s.agent false (w / 8) (w / 8) 0 a) with
    | .mem key =>
      let s := forceOverlap s s.cur key (w / 8)
      if remoteKey s.cur key then ownWrites s s.cur key
      meetsBad s s.agent false key (w / 8) 0 a
      let s := (flushLine s key).correct key (w / 8)
      let s := if i = 0 || key % 128 = 0 then s.touchRead s.coreKey a key (w / 8) else s
      let v : Word := BitVec.ofNat 64 (loadElem s key w false)
      let (vs, s) ← collSource s xt xb w n (i + 1)
      return (v :: vs, s)
    | .reg r =>
      let (v, s) ← regRead s s.cur r
      let (vs, s) ← collSource s xt xb w n (i + 1)
      return (v :: vs, s)

/-- The home that a descriptor names, once it can be reached. -/
def collHome (s : State) (xt w0 : Word) : Except Stop Nat :=
  if s.reachable s.dieKey (bits w0 0 8).toNat then .ok (cwHome s s.nodeKey w0) else .error (.wait (.unreachable xt (bits w0 0 8).toNat))

/-- The issue of a COLL: its checks, and its contribution on the way. -/
def issueColl (s : State) (xt xb xi : Word) (sn e : BitVec 3) (op : Nat) : Except Stop State := do
  scalarReady s true
  let s ← edgeOrder s (s.th.edge e)
  checkExhausted s sn 1
  let (ws, s) ← collDescriptor s xt 4
  let w0 := ws.getD 0 0
  let w1 := ws.getD 1 0
  let (data, s) ← collSource s xt xb (sewBits (cwSew w0)) (cwLen w1) 0
  if xi != 0 && !((tagOf xi == 0 || tagOf xi == 8) && xi.toNat % 8 == 0) then throw (.trap 0x25 xi)
  let s := mergeStream s sn
  let s := { s with th := s.th.issueOp sn op 1 }
  let c : Contrib := { slot := s.cur, op := op, sn := sn, grp := s.th.grp, asid := s.th.asid, priv := s.th.priv, desc := xt, w0 := w0, w1 := w1,
                       dest := ws.getD 2 0, miss := ws.getD 3 0, status := xi, pc := s.th.pc, data := data }
  return sendContrib s c

/-- COLL (R421). -/
def execColl (t b i : BitVec 5) (sn e : BitVec 3) (n : Bool) (s : State) : Outcome State Fault Refusal :=
  match s.th.wait with
  | some (.operation id) => .next (awaitSent s id)
  | _ =>
    let op := s.th.nextOp
    match issueColl s (s.x t) (s.x b) (s.x i) sn e op with
    | .error st => stopAt s st none
    | .ok s' => .next (if n then s'.advance else awaitSent s' op)

/-- COLL_COMPLETE (R421): a blocking COLL commits once its operation has completed. -/
def execCollComplete (slot : Nat) (s : State) : Outcome State Fault Refusal :=
  retryAt s slot fun i s =>
    match i with
    | .coll t b j sn e n => some (execColl t b j sn e n s)
    | _ => none

/-- COLLQ (R424). -/
def execCollq (t : BitVec 5) (s : State) : Outcome State Fault Refusal :=
  let xt := s.x t
  ordered193 s fun s => do
    let (ws, s) ← collDescriptor s xt 2
    let w0 := ws.getD 0 0
    let home ← collHome s xt w0
    let s := exchange s s.dieKey home 0x14 xt
    match combinerOf (s.die home) s.th.asid (cwKey w0) with
    | some (_, c) => return s.ret t (c.status false false false)
    | none => return s.ret t (statusNone false)

/-! ## TSEND (R425) -/

/-- The used slots with their expert identifiers. -/
def usedSlots (t : Thread) (vi : Nat) (k : Bool) : List (Nat × BitVec 16) :=
  (List.range 8).filterMap (fun j =>
    let id : BitVec 16 := (vread t.v vi).extractLsb' (32 * j) 16
    if id != 0xFFFF && t.active k j then some (j, id) else none)

/-- The row's bytes; the high nibble of a last byte that holds one element is a free value (log 5). -/
def rowBytes (s : State) (op : VOp) : List Byte × State :=
  let n := ceilDiv (op.n_ * op.sew) 8
  let bs : List Byte := (List.range n).map (fun i => BitVec.ofNat 8 (s.th.elem op.d.toNat 8 i))
  if op.sew = 4 && op.n_ % 2 = 1 then
    let (w, s) := s.fresh
    (bs.dropLast ++ [nibbleByte (bs.getLast?.getD 0) true w.toNat], s)
  else (bs, s)

/-- The issue of a TSEND at granule 0: its checks, its counts and its row on the way. -/
def sendTokens (op : VOp) (s : State) : Except Stop State := do
  if tagOf op.xb != 0 || 127 < nodeOf op.xb || op.xb.toNat % 64 != 0 then throw (.trap 0x62 op.xb)
  match s.th.badRead false [op.groupD] (List.range op.n_) with
  | some v => throw (.trap 0x2B v)
  | none => pure ()
  match s.th.badIn 1 op.a.toNat 0 32 with
  | some v => throw (.trap 0x2B v)
  | none => pure ()
  match (if op.k then s.th.badTop 0 8 else none) with
  | some v => throw (.trap 0x2B v)
  | none => pure ()
  let s ← edgeOrder s op.edge
  if op.vl != 0 then checkExhausted s op.sn 8
  let s := mergeStream s op.sn
  let used := usedSlots s.th op.a.toNat op.k
  if op.vl = 0 || used.isEmpty then return { s with th := { s.th.countNow op.sn 8 with nextOp := max s.th.nextOp (op.id + 1) } }
  let (row, s) := rowBytes s op
  let s := { s with th := (s.th.issueOp op.sn op.id 8).complete op.id (8 - used.length) }
  let r : TokenRow := { slot := s.cur, op := op.id, sn := op.sn, grp := s.th.grp, asid := s.th.asid, priv := s.th.priv, inbox := op.xb, ids := used,
                        row := row, pc := op.addr }
  return sendRow s r

/-- The plan of a TSEND: its issue, at granule 0. -/
def sendPlan (op : VOp) : VPlan := { steps := 1, live := 0, cw := 1, dsts := [], gran := fun _ => sendTokens op }

/-- TSEND (R425). -/
def execTsend (t b i : BitVec 5) (sn e : BitVec 3) (k n : Bool) (s : State) : Outcome State Fault Refusal :=
  let op := s.mop .tsend t b i sn e k n (wordOf (.tsend t b i sn e k n))
  match s.th.wait with
  | some (.operation id) => .next (awaitSent s id)
  | _ =>
    if !aligned t op.g then .next (trapAt s 0x05 op.word none)
    else if s.runsAhead then
      if s.th.queueRoom then .next (pushVec s op) else .next (s.enterWait .queue none)
    else if s.th.gv && op.granules s.th (sendPlan op) ≤ s.th.gsuf.toNat then .next (trapResume s)
    else match withSoft (sendTokens op) s with
      | .error st => stopAt s st (some 0)
      | .ok s' => .next (if n then s'.advance else awaitSent s' op.id)

end Sys2Proof.Machine
end

