-- ==== Sys2Proof/Machine/Runs.lean ====
section
/-! DEFINITION. Major 0x3D: RUN, GROW and EXIT; the run and stage descriptors that the Distributor accepts; how a group and a run
end (16_package_scheduling.md R356-R358, R370, R372-R378). -/

namespace Sys2Proof.Machine

open Host (Outcome)

/-! ## Descriptors (R356-R358) -/

/-- The words of a descriptor under tag 0x0, read for a thread or by the Distributor for a queue, with the state after. -/
def descWords (s : State) (ag : Agent) (engine : Bool) (a : Word) (n align : Nat) : Except Stop (List Word × State) := do
  if tagOf a != 0 then throw (.trap 0x20 a)
  if a.toNat % align != 0 then throw (.trap 0x25 a)
  let (key, s) ← if engine then engineReach s ag (8 * n) 1 a none else
    match checkSpan s ag false (8 * n) a with
    | .ok (.mem key) => do
      meetsBad s ag false key (8 * n) 0 a
      pure (key, (reachFrom s ag.asid (slotDie ag.slot) (some (slotCore ag.slot)) a key (8 * n) none).correct key (8 * n))
    | .ok (.reg _) => throw (.trap 0x20 a)
    | .error st => throw st
  return ((List.range n).map (fun i => memWord s.mem (key + 8 * i)), s)

/-- The descriptors of n stages that lie one behind another. -/
def stagesAt (ag : Agent) (engine : Bool) : Nat → State → Word → Except Stop (List Stage × State)
  | 0, s, _ => .ok ([], s)
  | n + 1, s, a => do
    let (ws, s) ← descWords s ag engine a 64 512
    let (r, s) ← stagesAt ag engine n s (a + 512)
    return ({ words := ws, gc := Stage.gc0 { words := ws, gc := 0 }, pred := ws.getD 7 0 } :: r, s)

/-- What refuses a run descriptor's own words (R358). -/
def runHeadBad (ws : List Word) : Bool :=
  let w0 := ws.getD 0 0
  let n := (bits w0 0 4).toNat
  bits w0 22 42 != 0 || (ws.drop 3).any (· != 0) || bits w0 6 2 = 3 || bits w0 12 4 = 1 || n = 0 || 8 < n
    || (ws.getD 1 0).toNat % 512 != 0 || (ws.getD 2 0).toNat % 8 != 0

/-- What refuses a range (R358). -/
def Stage.rangeBad (st : Stage) (r : Nat) : Bool :=
  let b := 0x40 + 48 * r
  st.at (b + 8) = 0 || (tagOf (st.at b) != 0 && (tagOf (st.at b) != 0xC || 4 ≤ r))

/-- What refuses a stage descriptor (R358), with whether SYS stages are allowed and the partition's frame pool. -/
def Stage.bad (st : Stage) (sysOk : Bool) (fpn stride : Nat) : Bool :=
  let lpoff := (bits (st.at 0x1C8) 0 23).toNat
  let lpn := (bits (st.at 0x1C8) 23 13).toNat
  let ls := List.range st.levels
  bits (st.at 0x10) 31 33 != 0 || st.at 0x18 != 0 || [0x1E0, 0x1E8, 0x1F0, 0x1F8].any (fun o => st.at o != 0)
    || bits (st.at 0x1C8) 37 27 != 0
    || ls.any (fun l => st.kind l == 3 || st.count l == 0) || st.digitsLevels.isEmpty
    || 16 < st.psize.toNat || 4 < st.nrd || 4 < st.nwr || (st.at 0x1D8).toNat % 16 != 0
    || 2 ^ 32 - 1 < st.gc0 || (st.gmax != 0 && st.gmax < st.gc0)
    || (List.range st.nrd).any st.rangeBad || (List.range st.nwr).any (fun r => st.rangeBad (4 + r))
    || 2 ^ 23 < lpoff + 128 * lpn || lpoff % 128 != 0 || 4096 < lpn || (st.at 0x1C0).toNat % 128 != 0
    || (st.sys && !sysOk)
    || (fpn != 0 && stride * 4096 < 0x20000 + (if st.gang then 128 else 64) * st.psize.toNat * 1024)

/-- A run descriptor read and checked (R358): none where its words refuse the run, as does a read that fails, with the state after. `cap`
is the highest PRIO that it may have. -/
def readRun (s : State) (ag : Agent) (engine : Bool) (node : Nat) (a : Word) (cap : BitVec 2) : Except Stop (Option Run × State) := do
  let (ws, s) ← descWords s ag engine a 8 64
  if runHeadBad ws then return (none, s)
  match (s.pkg node).partOf ag.asid with
  | none => return (none, s)
  | some part =>
    let q := (s.pkg node).part part
    let w0 := ws.getD 0 0
    let (stages, s) ← stagesAt ag engine (bits w0 0 4).toNat s (ws.getD 1 0)
    if stages.any (fun st => st.bad ag.sys q.fpn.toNat q.stride.toNat) then return (none, s)
    return (some {
      gen := 0, asid := ag.asid, desc := a, part := BitVec.ofNat 5 part,
      prio := if cap.toNat < (bits w0 4 2).toNat then cap else bits w0 4 2,
      fpol := bits w0 6 2, retry := bits w0 8 4, ovr := bits w0 12 4, ev := bit w0 16, evsrc := bits w0 17 5,
      done := ws.getD 2 0, stages := stages }, s)

/-- The Distributor's table of live runs is full (R375). -/
def runTableFull (s : State) (node : Nat) : Bool := 256 ≤ (s.pkg node).runs.length

/-- A run is accepted: its entry and the state. Its code has been loaded, so no core of the partition keeps a line of its ASID (09_core.md
R209). -/
def addRun (s : State) (node : Nat) (u : Run) : Nat × State :=
  let s := (partCores (s.pkg node) node u.part.toNat).foldl (fun s k => invalCode s k u.asid false) s
  let p := s.pkg node
  let seq := 1 + (p.runs.map (·.2.seq) ++ p.lastRun.toList).foldl max 0
  let (e, s) := s.pick (freeBelow (p.runs.map (·.1)) 256)
  let e := e.getD 0
  (e, s.setRun node e { u with gen := p.runGens.look 0 e, seq := seq })

/-! ## RUN (R375) -/

/-- RUN (R375): ordered after every earlier event and before every event of the new run. -/
def execRun (d a : BitVec 5) (s : State) : Outcome State Fault Refusal :=
  serialise s fun s =>
    match edgeOrder s 0xFF with
    | .error st => stopAt s st none
    | .ok s =>
      let node := s.nodeKey
      if runTableFull s node then .next (s.enterWait .runEntry none) else
      let cap := match s.runOf s.cur with
        | some u => u.prio
        | none => 3
      match readRun s s.agent false node (s.x a) cap with
      | .error (.trap _ _) => .next (trapAt s 0x68 (s.x a) none)
      | .error st => stopAt s st none
      | .ok (none, s) => .next (trapAt s 0x68 (s.x a) none)
      | .ok (some u, s) =>
        let (e, s) := addRun s node { u with launcher := s.th.grp.map (fun g => (s.cur, g)) }
        let gen := match s.run? node e with
          | some u => u.gen
          | none => 0
        .next (s.ret d (BitVec.ofNat 64 (e + gen.toNat * 2 ^ 8)))

/-- RUN_ENTRY_FREE (R375): a RUN that waits for an entry of the table is tried again. -/
def execRunEntryFree (slot : Nat) (s : State) : Outcome State Fault Refusal :=
  retryAt s slot fun i s =>
    match i with
    | .run d a => if s.th.wait == some .runEntry then some (execRun d a s) else none
    | _ => none

/-! ## GROW (R376) -/

/-- The group count of the issuer's stage and the most that GROW may bring it to. -/
def growLimit (s : State) : Nat × Nat :=
  match s.runOf s.cur, s.th.grp with
  | some u, some g => match u.stages[g.stage]? with
    | some st => (st.gc, if st.gmax != 0 then st.gmax else st.gc0)
    | none => (0, 0)
  | _, _ => (0, 0)

/-- What later stages have not issued yet: by stage, the first index that was never issued, and those pending again (R363). -/
def Run.unissued (u : Run) (stage : Nat) : List (Nat × Nat × List Nat) :=
  ((u.stages.zipIdx).filter (fun p => stage < p.2)).map (fun p => (p.2, p.1.next, p.1.back))

/-- GROW (R376): the new indices are pending behind those before. -/
def execGrow (d a : BitVec 5) (s : State) : Outcome State Fault Refusal :=
  serialise s fun s =>
    let xa := s.x a
    let (gc, lim) := growLimit s
    if lim < gc + xa.toNat then .next (trapAt s 0x69 xa none) else
    let s := match s.runOf s.cur, s.th.grp with
      | some u, some g => s.setRun s.nodeKey g.run (u.mapStage g.stage (fun st => { st with
          gc := gc + xa.toNat, grows := if xa = 0 then st.grows else st.grows ++ [({ first := gc, open_ := u.unissued g.stage } : Grow)] }))
      | _, _ => s
    .next (s.ret d (BitVec.ofNat 64 gc))

/-! ## EXIT (R377) -/

/-- EXIT (R377): the slot drains; the thread participates in no phase any more (12_cluster.md R294). -/
def execExit (s : State) : Outcome State Fault Refusal :=
  serialise s fun s =>
    let t := { s.th.settle with slot := .draining, drain := some .exit, tph := none, stalled := false }
    .next (syncUpper { s with th := t } s.cur)

/-! ## Energy of groups (R370, R390) -/

/-- An amount of energy is added to the counters of a group, its stage queue, its partition, the launch queue of its run, and the package
(17 R390). A group that runs and has used more than OVR times its PRED at issue takes cause 0x6A where it next lands (R371). -/
def addEnergy (s : State) (slot : Nat) (w : Word) : State :=
  let t := s.thread slot
  let past := match s.runOf slot with
    | some u => t.slot == .running && u.ovr != 0 && u.ovr.toNat * t.charged.toNat < (t.energy + w).toNat
    | none => false
  let s := s.setThread slot { t with energy := t.energy + w, overrun := t.overrun || past }
  match s.runOf slot, t.grp with
  | some u, some g =>
    let node := slotNode slot
    let s := s.setRun node g.run (u.mapStage g.stage (fun st => { st with energy := st.energy + w }))
    let p := s.pkg node
    let s := s.setPkg node { p with energy := p.energy + w }
    let q := p.part u.part.toNat
    let s := s.setPart node u.part.toNat { q with used := q.used + w }
    match u.queue with
    | none => s
    | some q =>
      let p := s.pkg node
      let l := p.queues.look {} q
      s.setPkg node { p with queues := p.queues.put q { l with qen := l.qen + w } }
  | _, _ => s

/-- What the thread has used since its counters were brought up to date: an amount that the manual does not give (log 5). -/
def consume (s : State) (slot : Nat) : State :=
  let (w, s) := s.fresh
  addEnergy s slot w

/-- PRED after a group that used an amount (R370). -/
def nextPred (pred used : Word) : Word :=
  BitVec.ofInt 64 (pred.toNat + ((used.toNat : Int) - pred.toNat).tdiv 8)

/-! ## A group completes (R364, R377) -/

/-- Entries of the output queues are released (R364). -/
def Run.release (u : Run) : Run :=
  { u with stages := (u.stages.zipIdx).map (fun p =>
      { p.1 with queue := p.1.queue.filter (fun q => !q.complete || match u.stages[p.2 + 1]? with
        | none => false
        | some nx => (List.range nx.gc).any (fun j => conflicts p.1 q.index nx j && !nx.isComplete j)) }) }

/-- A group has completed with the energy that it used: it counts as complete, PRED follows, and its charge is corrected. -/
def completeGroup (s : State) (node : Nat) (g : GroupRef) (used charged : Word) : State :=
  match s.run? node g.run with
  | none => s
  | some u =>
    if u.gen != g.gen then s else
    let u := u.mapStage g.stage (fun st => { st with
      queue := st.queue.map (fun q => if q.index = g.index then { q with complete := true } else q)
      pred := nextPred st.pred used })
    let s := s.setRun node g.run u.release
    let q := (s.pkg node).part u.part.toNat
    s.setPart node u.part.toNat { q with charged := q.charged + used.toNat - charged.toNat }

/-- R373: what becomes of the preloaded groups of a core when its running group is to be rerun: one that reads what the group writes
is discarded, and its index is pending again. -/
def preloadFate (s : State) (node : Nat) (cores : List Nat) (g : GroupRef) : State :=
  match s.run? node g.run with
  | none => s
  | some u =>
    if u.gen != g.gen || u.ending || u.fpol != 1 || u.retry = 0 then s else
    let stage (u : Run) (i : Nat) : Stage := u.stages.getD i { words := [], gc := 0 }
    let writes := ((stage u g.stage).ranges g.index).filter (·.write)
    (s.slots.filter (fun k => cores.contains (slotCore k) && (s.thread k).slot == .loading && !(s.thread k).gangHigh)).foldl (fun s k =>
      match (s.thread k).grp with
      | none => s
      | some h => match s.run? node h.run with
        | none => s
        | some v =>
          if ((stage v h.stage).ranges h.index).any (fun r => !r.write && writes.any (fun w => w.overlaps r))
          then repend (freeSlot s k) node h else s) s

/-- A group leaves its slot as faulted: what it has used since its counters were brought up to date is counted, its regions are released
unless its context is kept, its slot is freed, and the run's policy decides (R372, R373; 17 R390). -/
def faultFrom (s : State) (slot : Nat) (cause : BitVec 7) (saved : Bool) : State :=
  let s := if saved || (s.thread slot).slot == .loading then s else consume s slot
  let t := s.thread slot
  let cores := s.coresOf slot
  let s := if saved then s else releaseRegions s slot t.grp
  let s := freeSlot s slot
  match t.grp with
  | none => s
  | some g => groupFault (preloadFate s (slotNode slot) cores g) (slotNode slot) g cause saved t.frame

/-- EXIT takes effect once everything of the thread has drained (R198, R377); a report that came during the drain makes the group
faulted (11_traps.md R255). -/
def finishExit (s : State) (slot : Nat) : State :=
  if !((s.thread slot).slot == .draining && (s.thread slot).drain == some .exit) then s else
  let s := forceAll s slot
  if !drained s slot then s else
  match (s.thread slot).reports with
  | r :: _ => faultFrom s slot r.cause false
  | [] =>
    let s := consume s slot
    let t := s.thread slot
    let s := freeSlot (releaseRegions s slot t.grp) slot
    match t.grp with
    | none => s
    | some g => completeGroup s (slotNode slot) g t.energy t.charged

/-- EXIT_TAKES_EFFECT (R377). -/
def execExitTakesEffect (slot : Nat) (s : State) : Outcome State Fault Refusal := .next (finishExit s slot)

/-! ## A run completes (R378) -/

/-- Whether a run has ended: every group of it is complete, or its policy has ended it, and no group of it is in a slot or saved. -/
def runOver (s : State) (node r : Nat) (u : Run) : Bool :=
  (s.runSlots node r).isEmpty && !((s.pkg node).saved.any (fun c => c.grp.run == r))
    && (u.ending || u.stages.all (fun st => st.next == st.gc && st.back.isEmpty && st.queue.all (·.complete)))

/-- A cluster's crossbar entries that a run's threads have defined are released (12_cluster.md R283). -/
def Cluster.releaseRun (c : Cluster) (r : Nat × BitVec 16) : Cluster :=
  { c with
    counters := c.counters.map (fun k => if k.run == some r then {} else k)
    terms := c.terms.map (fun k => if k.run == some r then {} else k)
    targets := c.targets.map (fun k => if k.run == some r then {} else k) }

/-- Where the completion word of a run is written: nowhere where it has none or a check fails, and not yet where its place is waited for. -/
def donePlace (s : State) (node : Nat) (u : Run) : Except Stop (Option Nat) :=
  if u.done = 0 then .ok none else
  match checkSpan s (writerAgent node u.asid u.done) true 8 u.done with
  | .ok (.mem key) => .ok (some key)
  | .error (.wait w) => .error (.wait w)
  | _ => .ok none

/-- The completion word of a run that has completed. -/
def Run.lastWord (u : Run) : Word := if u.ending then doneWord 2 u.endCause.toNat u.endIndex else doneWord 1 0 0

/-- A run completes (R378): its Dormers and crossbar entries are released, its completion word is written once it can be, its event source
is pulsed, and its table entry is free. -/
def finishRun (s : State) (node r : Nat) : State :=
  match s.run? node r with
  | none => s
  | some u =>
    if !runOver s node r u then s else
    let place := donePlace s node u
    let ag := writerAgent node u.asid u.done
    let s := (nodeDies node).foldl (fun s k =>
      ((s.die k).dormers.filter (fun e => e.run == some (r, u.gen))).foldl (fun s e => freeDormer s k e) s) s
    let s := { s with clusters := s.clusters.map (fun c => if c.1 / 128 = node then (c.1, c.2.releaseRun (r, u.gen)) else c) }
    match place with
    | .error st => engineStop s ag st
    | .ok key =>
    let bs := leBytes 8 u.lastWord.toNat
    let s := dropHolds s (· == ag.who)
    let s := match key with
      | some key => storeBytes (reachFrom s u.asid (node * 8) none u.done key 8 (some bs)) u.asid u.done key bs
      | none => s
    let s := match u.launcher with
      | some (k, g) =>
        if u.ev && s.slots.any (fun (j : Nat) => slotNode j == slotNode k && (s.thread j).slot != SlotState.free && (s.thread j).grp == some g)
        then s.pulse (slotCluster k) u.asid u.evsrc else s
      | none => s
    let p := s.pkg node
    let p := { p with
      runs := SMap.drop p.runs r, runGens := p.runGens.put r (u.gen + 1), ages := p.ages.filter (fun a => a.1 != r)
      queues := p.queues.map (fun (q : Nat × LQueue) => (q.1, { q.2 with openRuns := q.2.openRuns.filter (· != (r, u.gen)) })) }
    s.setPkg node p

/-- RUN_COMPLETE (R378). -/
def execRunComplete (node run : Nat) (s : State) : Outcome State Fault Refusal := .next (finishRun s node run)

/-! ## Faults reported to the Distributor (R372) -/

/-- GROUP_FAULT: a group that is in no slot is reported to the Distributor with an external cause; a code that R249 reserves is never
raised. -/
def execGroupFault (node : Nat) (cause : BitVec 7) (_val : BitVec 64) (run stage index : Nat) (s : State) : Outcome State Fault Refusal :=
  match s.run? node run with
  | none => .next s
  | some u =>
    let g : GroupRef := ⟨run, u.gen, stage, index⟩
    let away := !(s.slots.any (fun k => slotNode k == node && (s.thread k).slot != .free && (s.thread k).grp == some g))
    let known := match u.stages[stage]? with
      | some st => index < st.next && !st.back.contains index && !st.isComplete index
      | none => false
    let ctx := (s.pkg node).saved.find? (fun c => c.grp == g)
    if cause = 0 || cause = 0x6A || !causeAssigned cause.toNat || !away || !known then .next s
    else .next (groupFault s node g cause ctx.isSome (ctx.bind (·.frame)))

end Sys2Proof.Machine
end

