-- ==== Sys2Proof/Machine/Queue.lean ====
section
/-! DEFINITION. The vector queue of a thread whose scalar part runs ahead: dispatch, landing granules and commits, in their order
(01_thread.md R23-R31), and the limits on waits (12_cluster.md R274; 18_fabric.md R414). -/

namespace Sys2Proof.Machine

open Host (Outcome)

/-! ## What a queued instruction does -/

/-- How a queued instruction runs. -/
def planOf (op : VOp) : VPlan :=
  match op.kind with
  | .int o => intPlan o op
  | .dot4 => dotPlan op
  | .cmp c => cmpPlan c op
  | .flt o => fltPlan o op
  | .cvt e f => cvtPlan op e f
  | .mask o => maskPlan o op
  | .perm o => permPlan o op
  | .red o => redPlan o op
  | .seg o => segPlan o op
  | .sort o => sortPlan o op
  | .scale o => scalePlan o op
  | .load _ => memPlan op
  | .store _ => memPlan op
  | .atom _ => memPlan op
  | .comb _ => memPlan op
  | .fullEmpty o => fePlan op o
  | .pop => memPlan op
  | .tsend => sendPlan op
  | .copy => copyPlan op
  | .tileLoad _ => tilePlan op
  | .mrow _ => pipePlan op
  | .accRead => accPlan op
  | .accWrite => pipePlan op
  | .accClear => pipePlan op
  | .tileFree => freePlan op

/-- The head of the queue of the thread that runs replaced: its oldest entry that is not in the matrix pipe. -/
def State.setHead (s : State) (q : VEntry) : State :=
  { s with th := { s.th with vq := s.th.vq.takeWhile (·.piped) ++ q :: s.th.front.drop 1 } }

/-- The granule that EPC names when a trap lands at an entry. -/
def VEntry.gran (q : VEntry) : Option Nat := if (planOf q.op).gv && q.granule < 32 then some q.granule else none

/-- What is done for the thread of a slot, in its place. -/
def State.onSlot (s : State) (slot : Nat) (f : State → State) : State := (f (s.focus slot)).focus s.cur

/-- Where the thread that runs lands a trap that no instruction of it raises: its address and granule (R32); the head of its queue, or
the instruction it is at. -/
def landing (s : State) : Word × Option Nat :=
  match s.th.front with
  | q :: _ => (q.op.addr, if q.granule = 0 then none else q.gran)
  | [] => (s.th.pc, if s.th.gv then some s.th.gsuf.toNat else none)

/-! ## Dispatch, landing and commit (R23-R28) -/

/-- The head of a running thread's queue. -/
def headOf (s : State) (slot : Nat) : Option VEntry :=
  if (s.thread slot).slot == .running then (s.thread slot).front.head? else none

/-- What an instruction reads once, at its dispatch: the scales of a scaled one (03_numbers.md R86). -/
def VOp.capture (op : VOp) (t : Thread) : VOp :=
  match op.kind with
  | .scale _ => { op with scales := vread t.v 31 }
  | _ => op

/-- VECTOR_DISPATCH (R23, R24, R26): the oldest instruction of the queue, once its interlocks are all met and no value is on its way to its
destinations. -/
def dispatchHead (s : State) (slot : Nat) : State :=
  match headOf s slot with
  | some q => if q.dispatched then s else
    s.onSlot slot fun s0 =>
      let s := dispatchVec s0 (planOf q.op)
      if (planOf q.op).awaits s.th then s0 else
      let done (s : State) : State := s.setHead { q with op := q.op.capture s.th, dispatched := true }
      match q.op.kind with
      | .tileLoad _ => match dispatchTile s q.op with
        | .ok s => done s
        | .error (.trap c v) => takeTrap s0 c v q.op.addr none false
        | .error _ => s0
      | _ => done s
  | none => s

/-- VECTOR_DISPATCH. -/
def execVectorDispatch (slot : Nat) (s : State) : Outcome State Fault Refusal := .next (dispatchHead s slot)

/-- The next granule of the dispatched head lands, traps or waits (R24, R25, R30, R32). -/
def landGranule (s : State) (slot : Nat) : Outcome State Fault Refusal :=
  match headOf s slot with
  | none => .next s
  | some q =>
    let p := planOf q.op
    if !q.dispatched || p.steps ≤ q.granule then .next s else
    let f := s.focus slot
    match withSoft (p.gran q.granule) f with
    | .ok f' =>
      let g := q.granule + 1
      let q := { q with granule := g, piped := f'.th.rows.any (fun r => r.op.id == q.op.id) }
      .next (({ f' with th := f'.th.land p (if p.steps ≤ g then p.live else g) }.setHead q).focus s.cur)
    | .error (.trap c v) => .next ((takeTrap f c v q.op.addr (if p.gv then some q.granule else none) false).focus s.cur)
    | .error (.pantry key v) =>
      .next ((takeTrap (notePantry f key) 0x2A v q.op.addr (if p.gv then some q.granule else none) false).focus s.cur)
    | .error (.served die view v) =>
      .next ((takeTrap (setServed f die view) 0x51 v q.op.addr (if p.gv then some q.granule else none) false).focus s.cur)
    | .error (.wait w) =>
      let f := f.enterWait w none
      let f := match q.op.kind, w with
        | .fullEmpty o, .line _ => joinLines f f.clusterKey ⟨slot, q.op.feLines q.granule, o.wantsFull⟩
        | _, _ => f
      .next (f.focus s.cur)
    | .error (.fault r) => .fault r

/-- GRANULE_LANDING. -/
def execGranuleLanding (slot : Nat) (s : State) : Outcome State Fault Refusal := landGranule s slot

/-- The head commits once all its granules have landed, and a blocking engine operation is complete: its entry frees, and the scalar
instructions behind it may commit (R27, R28). -/
def commitHead (s : State) (slot : Nat) : State :=
  match headOf s slot with
  | none => s
  | some q =>
    if !q.dispatched || q.granule < (planOf q.op).steps then s else
    let s := match q.op.kind with
      | .copy => if q.op.n then s else runCopy s slot q.op.id
      | .tsend => if q.op.n then s else s.onSlot slot (fun s => hurry s slot q.op.id)
      | _ => s
    let t := s.thread slot
    let blocks := match q.op.kind with
      | .copy => !q.op.n && t.outstanding q.op.id
      | .tsend => !q.op.n && t.outstanding q.op.id
      | _ => false
    if blocks then s else
    s.setThread slot (t.freeEntry q.op.id)

/-- VECTOR_COMMIT. -/
def execVectorCommit (slot : Nat) (s : State) : Outcome State Fault Refusal := .next (commitHead s slot)

/-- SCALAR_COMMIT (R28): the oldest completed scalar instruction commits; none is older than it in the queue. -/
def execScalarCommit (slot : Nat) (s : State) : Outcome State Fault Refusal :=
  let t := s.thread slot
  if t.window = 0 then .next s else .next (s.setThread slot { t with window := t.window - 1 })

/-- The vector unit's next step for a thread: it dispatches the head of the queue, lands its next granule, or commits it. -/
def stepQueue (s : State) (slot : Nat) : Outcome State Fault Refusal :=
  match headOf s slot with
  | none => .next s
  | some q =>
    if !q.dispatched then .next (dispatchHead s slot)
    else if q.granule < (planOf q.op).steps then landGranule s slot
    else .next (commitHead s slot)

/-- LARDER_GRANULE_ACTION (R273): a waiting granule acts once its lines are in the state required. -/
def execLarderGranuleAction (slot : Nat) (s : State) : Outcome State Fault Refusal :=
  match headOf s slot with
  | some q => (match q.op.kind with
    | .fullEmpty _ => landGranule s slot
    | _ => .next s)
  | none =>
  retryAt s slot fun i s =>
    match i with
    | .ldw t b sn e k n => some (execLdw t b sn e k n s)
    | .ldc t b sn e k n => some (execLdc t b sn e k n s)
    | .stfl t b sn e k n => some (execStfl t b sn e k n s)
    | _ => none

/-! ## Limits (12_cluster.md R274; 18_fabric.md R414) -/

/-- The wait that holds a slot's thread: of the oldest queued instruction, or of the instruction that it is at. -/
def holdsAt (s : State) (slot : Nat) : Option Wait :=
  match headOf s slot with
  | some q =>
    let p := planOf q.op
    if !q.dispatched || p.steps ≤ q.granule then none else
    match p.gran q.granule (s.focus slot) with
    | .error (.wait w) => some w
    | _ => none
  | none => (s.thread slot).wait

/-- The thread of a slot takes a cause where it waits. -/
def trapWaiting (s : State) (slot : Nat) (cause : BitVec 7) (val : Word) : State :=
  s.onSlot slot fun s =>
    let (pc, gran) := match s.th.front with
      | q :: _ => (q.op.addr, q.gran)
      | [] => landing s
    takeTrap s cause val pc gran false

/-- FULL_EMPTY_TIMEOUT (R274): a granule that has waited longer than FETO takes cause 0x39, unless its lines are ready; the limit holds
for the steps of macro-operations in the same way. With FETO = 0 there is none. -/
def execFullEmptyTimeout (slot : Nat) (s : State) : Outcome State Fault Refusal :=
  if (s.cluster (slotCluster slot)).feto = 0 then .next s else
  match (if (s.thread slot).slot == .running then holdsAt s slot else none) with
  | some (.line _) =>
    match execLarderGranuleAction slot s with
    | .next s => match holdsAt s slot with
      | some (.line a) => .next (trapWaiting s slot 0x39 a)
      | _ => .next s
    | r => r
  | _ => .next (seqTimeout s (slotCluster slot) slot)

/-- FABRIC_TIMEOUT (R414): a request to a node that has stayed unreachable for FABTO ends: before its checks with cause 0x60 at the
granule or the scalar access, after them with a report for each element; those of the die's engines fail when they are tried again. -/
def execFabricTimeout (slot : Nat) (s : State) : Outcome State Fault Refusal :=
  match (if (s.thread slot).slot == .running then holdsAt s slot else none) with
  | some (.unreachable a node) =>
    if s.reachable (slotDie slot) node then .next (s.onSlot slot fun s => { s with th := { s.th with stalled := false } })
    else .next (trapWaiting s slot 0x60 a)
  | _ => .next (loseHolds (endTransfers s slot) (slotDie slot))

end Sys2Proof.Machine
end

