-- ==== Sys2Proof/Machine/Contexts.lean ====
section
/-! DEFINITION. Traps that no instruction raises, pre-emption, and contexts that leave their core and come back; groups that enter a
slot (11_traps.md R253-R258; 09_core.md R211, R219, R221; 12_cluster.md R268, R270; 16 R360, R369-R373). -/

namespace Sys2Proof.Machine

open Host (Outcome)

/-! ## Landing points (R257) -/

/-- Whether a trap may land at the MACRO that the thread is at (12_cluster.md R291): between two steps of its program, the earlier not
linked to the next, inside a COPY step at a 64 KiB boundary of bytes completed, with no element in flight, or inside a waiting step; behind
the last step, where only the closing write of word 1 is held, none may. -/
def macroLands (s : State) : Bool :=
  match (s.cluster s.clusterKey).seqNow with
  | none => true
  | some q =>
    if q.slot != s.cur || q.byTarget then true
    else if q.count ≤ q.step then false
    else if q.kind q.step = 2 || q.kind q.step = 3 then true
    else if q.copied = 0 then q.step = 0 || !q.link (q.step - 1)
    else q.copied % 65536 = 0 && !chunksOpen s (q.job 0)

/-- Whether a trap may land at the wait of the instruction that the thread is at: at a granule, or at a wait that R257 names. -/
def landsAt (s : State) (w : Wait) : Bool :=
  match w with
  | .stream _ => match fetch s with
    | .ok (.mtss _ _) => false
    | _ => true
  | .exhausted _ => true
  | .line _ => true
  | .event _ => true
  | .phase _ => true
  | .sequencer => macroLands s
  | .unseal => true
  | .view _ _ _ => true
  | .settle _ _ => true
  | .runEntry => true
  | .queue => true
  | .operation _ => false
  | _ => s.th.gv || match fetch s with
    | .ok (.tldp _ _ _ _) => true
    | .ok (.tldl _ _ _ _) => true
    | _ => false

/-- Whether the thread that runs is at a landing point. -/
def canLand (s : State) : Bool :=
  match s.th.front with
  | q :: _ => q.granule < (planOf q.op).steps || !q.dispatched
  | [] => match s.th.wait with
    | none => true
    | some w => landsAt s w

/-- The slot of the thread that a slot's group runs on: a gang's lower one. -/
def State.lower (s : State) (slot : Nat) : Nat := if (s.thread slot).gangHigh then slot - 4 else slot

/-! ## Reports (R254) -/

/-- An element that fails after its checks (R254): a pending element of the stream with that number ends, a load with all ones, and
counts as complete. -/
def endElement (s : State) (slot : Nat) (r : Report) : State :=
  let t := s.thread slot
  match t.pend.findIdx? (fun p => p.sn == r.sn && p.pc == r.pc && p.idx == r.elem.toNat) with
  | none => s
  | some i => match t.pend[i]? with
    | none => s
    | some p =>
      let t := { t with pend := t.pend.eraseIdx i }
      let t := match p.kind with
        | .load => t.setElem p.dst.toNat p.sew p.idx (2 ^ p.sew - 1)
        | .atom _ => t.setElem p.dst.toNat p.sew p.idx (2 ^ p.sew - 1)
        | _ => t
      s.setThread slot (t.complete p.op 1)

/-- ASYNC_REPORT (R254): a code that R249 reserves is never raised. -/
def execAsyncReport (slot : Nat) (cause : BitVec 7) (val : BitVec 64) (sn : BitVec 3) (pc : BitVec 64) (elem : BitVec 32) (s : State) :
    Outcome State Fault Refusal :=
  let slot := s.lower slot
  let r : Report := ⟨cause, sn, val, pc, elem⟩
  if (s.thread slot).slot == .free || !causeAssigned cause.toNat then .next s
  else .next ((endElement s slot r).report slot (s.thread slot).grp r)

/-- The oldest report of the thread that runs becomes a trap (R254). -/
def reportTrap (s : State) : State :=
  match s.th.reports with
  | [] => s
  | r :: _ => takeTrap s r.cause r.val (landing s).1 (landing s).2 true

/-! ## Pre-emption (R255, R257) -/

/-- The thread that runs gives up its slot at its landing point: it ends without a frame where END of R372 has ended its run, and its
context is saved otherwise. -/
def preempt (s : State) : State :=
  let ended := match s.runOf s.cur with
    | some u => u.ending
    | none => false
  if ended then
    let s0 := writeReturned (dropLineWait (dropLoading (finishRows s))) s.cur
    if s0.th.returning (fun _ => true) then (writeReturned s s.cur).enterWait .returned none else
    match parkMacro s0 with
    | .error w => s.enterWait w none
    | .ok s => syncUpper { s with th := s.th.endHere none } s.cur
  else takeTrap s 0 0 (landing s).1 (landing s).2 false

/-- What lands now at the thread that runs (R254, R255; 16 R371): an energy overrun, whose save satisfies a pre-emption too, a pending
pre-emption, then a queued report; none while INH is 1. -/
def landNow (s : State) : Option State :=
  if s.th.slot != .running || s.th.inh || !canLand s then none
  else if s.th.overrun then some (takeTrap s 0x6A s.th.energy (landing s).1 (landing s).2 false)
  else if s.th.ppend then some (preempt s)
  else if s.th.reports.isEmpty then none else some (reportTrap s)

/-- Whether a synchronous fault stands at the landing point of the thread that runs (R255): of the next granule of its queue's oldest
instruction, or of the fetch. What the instruction itself would take is seen when it is tried. -/
def faultsAt (s : State) : Bool :=
  match s.th.front with
  | q :: _ =>
    let s := dispatchHead s s.cur
    let p := planOf q.op
    if p.steps ≤ q.granule then false else
    match p.gran q.granule s with
    | .error (.trap _ _) => true
    | _ => false
  | [] => match fetch s with
    | .ok _ => false
    | .error _ => true

/-- ASYNC_REPORT_TRAP (R254): a synchronous fault at the same landing point goes first (R255); for the fault of the instruction at pc, step
sees to that (runEvent). -/
def execAsyncReportTrap (slot : Nat) (s : State) : Outcome State Fault Refusal :=
  let f := s.focus (s.lower slot)
  if f.th.slot != .running || f.th.inh || !canLand f || faultsAt f then .next s else .next ((reportTrap f).focus s.cur)

/-- PREEMPTION_REQUEST (R255): a slot that does not run ignores it, and a group without a frame is never pre-empted (17 R389). -/
def execPreemptionRequest (slot : Nat) (s : State) : Outcome State Fault Refusal :=
  let slot := s.lower slot
  let t := s.thread slot
  if t.slot != .running || (t.framep = 0 && t.frame.isNone) then .next s
  else .next (s.setThread slot { t with ppend := true })

/-- PREEMPTION (R257): a synchronous fault at the same landing point goes first, and the request stays pending (R255); for the fault of the
instruction at pc, step sees to that (runEvent). -/
def execPreemption (slot : Nat) (s : State) : Outcome State Fault Refusal :=
  let f := s.focus (s.lower slot)
  if f.th.slot != .running || f.th.inh || !f.th.ppend || !canLand f || faultsAt f then .next s else .next ((preempt f).focus s.cur)

/-- TRAP_TAKEN (R253): a trap of a cause is taken where the thread of a slot lands. -/
def execTrapTaken (slot : Nat) (cause : BitVec 7) (val : BitVec 64) (s : State) : Outcome State Fault Refusal :=
  let f := s.focus (s.lower slot)
  if f.th.slot != .running || !canLand f || !causeAssigned cause.toNat then .next s
  else .next ((takeTrap f cause val (landing f).1 (landing f).2 false).focus s.cur)

/-- ENERGY_OVERRUN (16 R371): the energy that a group has used; above OVR times its PRED at issue it takes cause 0x6A, at once or, where it
is inhibited or at no landing point, when it next lands. -/
def execEnergyOverrun (slot used : Nat) (s : State) : Outcome State Fault Refusal :=
  let slot := s.lower slot
  if (s.thread slot).slot != .running then .next s else
  let w : Word := BitVec.ofNat 64 used
  let s := addEnergy s slot (w - (s.thread slot).energy)
  let f := s.focus slot
  match f.runOf slot with
  | none => .next s
  | some u =>
    if u.ovr = 0 || w.toNat ≤ u.ovr.toNat * f.th.charged.toNat then .next s
    else if f.th.inh || !canLand f then .next (s.setThread slot { s.thread slot with overrun := true })
    else .next ((takeTrap f 0x6A w (landing f).1 (landing f).2 false).focus s.cur)

/-! ## A context leaves its core (R258) -/

/-- A drained context is written to its frame, and its slot is freed; the Distributor keeps FRAMEP and the cause (R258 steps 4 to 6), and
treats the group by the cause (16 R371, R372). -/
def finishSave (s : State) (slot : Nat) (ecause : BitVec 9) (val : Word) : State :=
  let s0 := forceAll s slot
  if !drained s0 slot then s0 else
  let s := consume s0 slot
  let t := s.thread slot
  match writeFrame s slot ecause val with
  | .error (.wait (.service die img)) => requestPage (s0.setThread slot { s0.thread slot with wait := some (.service die img) }) die img
  | .error (.wait (.migrating _)) => s0
  | .error (.wait (.recall _)) => s0
  | .error _ => s.onSlot slot fun s => doubleFault s (bits ecause 0 7) val (epcWord t.pc (if t.gv then some t.gsuf.toNat else none))
  | .ok s =>
    let cause := bits ecause 0 7
    match t.grp with
    | none => freeSlot s slot
    | some g =>
      let node := slotNode slot
      let ctx : SavedCtx := {
        grp := g, frame := t.frame, framep := t.framep, asid := t.asid, sys := t.sys, gang := t.gang, psize := t.psize,
        cluster := if t.tilesArch.toList.any (·.ready) then some (slotCluster slot) else none
        cause := cause, untilPeriod := cause = 0x6A, energy := t.energy, charged := t.charged }
      let ended := match s.runOf slot with
        | some u => u.ending
        | none => true
      let p := s.pkg node
      let s := s.setPkg node { p with saved := p.saved ++ [ctx] }
      if ended then discardCtx (freeSlot s slot) node (fun c => c.grp == g)
      else if cause = 0 || cause = 0x6A then freeSlot s slot
      else faultFrom s slot cause true

/-- A context that leaves its slot: saved, or ended without a frame (R258; 16 R372). -/
def finishDrain (s : State) (slot : Nat) : State :=
  let t := s.thread slot
  if t.slot != .draining then s else
  match t.drain with
  | some (.save e v) => finishSave s slot e v
  | some (.ended c) =>
    let s := forceAll s slot
    if !drained s slot then s else
    match c with
    | some c => faultFrom s slot c false
    | none => let s := consume s slot; freeSlot (releaseRegions s slot t.grp) slot
  | _ => s

/-- CONTEXT_SAVE (R258). -/
def execContextSave (slot : Nat) (s : State) : Outcome State Fault Refusal := .next (finishDrain s (s.lower slot))

/-! ## A group enters a slot (R211, R270, R360; 17 R389) -/

/-- A cluster takes a group of an ASID (12_cluster.md R270): after another ASID's group its Larder is zeroed but for the live regions, of saved
contexts and of groups that have not left its slots (10_matrix.md R225, R244), its lines are EMPTY and its crossbar entries are released. -/
def enterCluster (s : State) (cluster : Nat) (asid : BitVec 12) : State :=
  let c := s.cluster cluster
  match c.lastAsid with
  | none => s.setCluster cluster { c with lastAsid := some asid }
  | some a =>
    if a = asid then s else
    let lo := larderKey cluster 0
    let saved (r : Region) : Bool := r.grp.isSome && (s.pkg (cluster / 128)).saved.any (fun x => some x.grp == r.grp)
    let here (r : Region) : Bool := match r.slot with
      | some k => slotCluster k == cluster && (s.thread k).slot != .free && (s.thread k).grp == r.grp
      | none => false
    let regions := c.regions.filter (fun r => saved r || here r)
    let c := { c.clearCrossbar with full := [], lastAsid := some asid, regions := regions }
    let gone (key : Nat) : Bool := lo ≤ key && key < lo + 2 ^ 23 && !inRegion c (key - lo) 1
    { s.setCluster cluster c with
      mem := s.mem.filter (fun b => !gone b.1), poison := s.poison.filter (fun w => !gone (w * 8)) }

/-- The windows of a slot that a group takes (R210, R211; 12_cluster.md R266). -/
def takeWindows (s : State) (core : Nat) (gang : Bool) (pbase psize : Nat) (asid : BitVec 12) : State :=
  let s := takeWindow s core pbase psize asid
  if gang then takeWindow s (core + 1) pbase psize asid else s

/-- FRAMEP of a frame of a partition's pool; 0 without a frame (17 R389). -/
def framepOf (q : Partition) (frame : Option Nat) : Word :=
  match frame with
  | some i => q.fpbase + BitVec.ofNat 64 (i * q.stride.toNat * 4096)
  | none => 0

/-- The registers of a group at its start (01_thread.md R10, R11; 16 R360). -/
def startThread (u : Run) (st : Stage) (g : GroupRef) (pbase : Nat) (frame : Option Nat) : Thread :=
  let x1 : Word := BitVec.ofNat 64 g.index
  let x31 : Word := if st.at 0x1D0 = 0 then 0 else st.at 0x1D0 + (x1 + 1) * st.at 0x1D8
  let t : Thread := {
    slot := .loading, sys := st.sys, priv := st.sys, asid := u.asid, pbase := BitVec.ofNat 4 pbase, psize := st.psize, gang := st.gang,
    grp := some g, frame := frame, pc := st.at 0, charged := st.pred, toLoad := (bits (st.at 0x1C8) 23 13).toNat }
  { ((t.wx 1 x1).wx 2 (st.at 8)).wx 31 x31 with prog := Vector.replicate 32 t.fullIndex }

/-- The last n lines of the Larder preload of the group in a slot, as its ASID and privilege may (16 R369; 13_die_memory.md R440): the
stop that ends it. -/
def preloadLines (slot : Nat) (st : Stage) : Nat → State → State × Option Stop
  | 0, s => (s.setThread slot { s.thread slot with toLoad := 0 }, none)
  | n + 1, s =>
    let t := s.thread slot
    let ag : Agent := ⟨t.asid, t.sys, slot, [4, slot]⟩
    let i := (bits (st.at 0x1C8) 23 13).toNat - (n + 1)
    let off := (bits (st.at 0x1C8) 0 23).toNat + 128 * i
    let src := st.at 0x1C0 + BitVec.ofNat 64 (128 * i)
    let dst : Word := BitVec.ofNat 64 (8 * 2 ^ 60 + off)
    match enginePlace s ag false 128 src, enginePlace s ag true 128 dst with
    | .ok from_, .ok to_ =>
      let s := engineRead s ag src from_ 128
      let s := storeBytes s t.asid dst to_ (memBytes s.mem from_ 128)
      preloadLines slot st n (if bit (st.at 0x1C8) 36 then setFull s (slotCluster slot) [off / 128] else s)
    | .error e, _ => ((engineStop s ag e).setThread slot { t with toLoad := n + 1 }, some e)
    | _, .error e => ((engineStop s ag e).setThread slot { t with toLoad := n + 1 }, some e)

/-- The parts of a span that lie in the 2^49 bytes from an address on. -/
def Span.within (r : Span) (base : Nat) : List Span :=
  let part (lo hi : Nat) : List Span :=
    if max lo base < min hi (base + 2 ^ 49)
    then [⟨r.write, BitVec.ofNat 64 (max lo base), min hi (base + 2 ^ 49) - max lo base⟩] else []
  part r.lo.toNat (r.lo.toNat + r.len) ++ part 0 (r.lo.toNat + r.len - 2 ^ 64)

/-- The range records of a group at its core's die: the parts of its ranges that are homed there (13_die_memory.md R311). -/
def registerRanges (s : State) (slot : Nat) (st : Stage) (x : Nat) : State :=
  let die := slotDie slot
  let d := s.die die
  let base := (s.pkg (slotNode slot)).rtself.toNat * 2 ^ 52 + die % 8 * 2 ^ 49
  let mine := (st.ranges x).flatMap (fun r => r.within base)
  s.setDie die { d with ranges := (d.ranges ++ mine.map (fun (r : Span) => RangeRec.mk slot r.lo r.len r.write)).take 4096 }

/-- Groups that run on a core. -/
def runningOn (s : State) (core : Nat) : Nat := ((coreThreads s core).filter (fun t => t.slot == .running)).length

/-- The groups that a core still leaves. -/
def leavingOn (s : State) (core : Nat) : List GroupRef :=
  (coreThreads s core).filterMap (fun t => if t.slot == .draining then t.grp else none)

/-- Groups beside which a group was preloaded and that have not left its core yet: those that run, and those that have begun to leave it
since (R369, R373). -/
def stayingOn (s : State) (t : Thread) (core : Nat) : Nat :=
  ((coreThreads s core).filter (fun q => q.slot == .running || (q.slot == .draining && !q.grp.any t.leaving.contains))).length

/-- The first 4 KiB of a preloaded group's code come into the instruction cache of its core, where the core keeps lines (R369). -/
def fetchFirst (s : State) (slot : Nat) : State :=
  if !s.caching.contains (slotCore slot) then s else
  s.onSlot slot fun s =>
    let pc := s.th.pc
    let s := (List.range 32).foldl (fun s i => cacheCode { s with th := { s.th with pc := pc + BitVec.ofNat 64 (128 * i) } }) s
    { s with th := { s.th with pc := pc } }

/-- EPC, ECAUSE, EVAL and ESTAT of a group's frame hold 0 at its start (01_thread.md R10, R42; log 97). -/
def clearHead (s : State) (slot : Nat) : State :=
  match framePlace s slot true (s.thread slot).framep 32 with
  | .ok key => writeOwn s slot (s.thread slot).framep key (List.replicate 32 0)
  | .error _ => s

/-- A group enters RUNNING: its range records are made and its core has run its stage. -/
def enterRunning (s : State) (slot : Nat) : State :=
  let s := (s.coresOf slot).foldl (fun s c => s.setCore c { s.core c with
    lastStage := match s.runOf slot, (s.thread slot).grp with
      | some u, some g => some (u.seq, g.stage)
      | _, _ => none }) s
  let s := match s.runOf slot, (s.thread slot).grp with
    | some u, some g => match u.stages[g.stage]? with
      | some st => registerRanges s slot st g.index
      | none => s
    | _, _ => s
  syncUpper (s.setThread slot { s.thread slot with slot := .running }) slot

/-- The group in a LOADING slot starts, once its cores have room and its Larder preload is done (16 R365, R369; 17 R389): it receives the
partition's trap settings and its frame. A preloaded group waits until a group that ran has left the core (R369, R373). A failed preload
is a fault of the group. -/
def startGroup (s : State) (slot : Nat) : State :=
  let t := s.thread slot
  if t.slot != .loading || t.gangHigh then s else
  match s.runOf slot, t.grp with
  | some u, some g =>
    let st := u.stages.getD g.stage { words := [], gc := 0 }
    let q := (s.pkg (slotNode slot)).part u.part.toNat
    if (s.coresOf slot).any (fun c => q.rmax.toNat ≤ (if t.preload then stayingOn s t c else runningOn s c)) then s else
    match preloadLines slot st t.toLoad s with
    | (s, some (.trap c _)) => faultFrom s slot c false
    | (s, some _) => s
    | (s, none) =>
      let t := { s.thread slot with tvec := q.tvec, troute0 := q.troute0, troute1 := q.troute1, framep := framepOf q t.frame }
      enterRunning (clearHead (s.setThread slot t) slot) slot
  | _, _ => s

/-- GROUP_START (01_thread.md R11). -/
def execGroupStart (slot : Nat) (s : State) : Outcome State Fault Refusal := .next (startGroup s (s.lower slot))

/-- PRELOAD_PROMOTION (16 R369): the group that a core holds in LOADING runs once a running group has left. -/
def execPreloadPromotion (core : Nat) (s : State) : Outcome State Fault Refusal :=
  match (List.range 4).find? (fun i => (s.thread (core * 4 + i)).slot == .loading) with
  | some i => .next (startGroup s (s.lower (core * 4 + i)))
  | none => .next s

/-! ## A context comes back (R258) -/

/-- The idx-th saved context of a package is restored into a slot with its window at a place, and its regions are attached to the slot
(10_matrix.md R244). A head that cannot be read or fails a check
leaves the context where it is, and the group is faulted with the cause. -/
def restoreCtx (s : State) (node idx slot pbase : Nat) : State :=
  match (s.pkg node).saved[idx]? with
  | none => s
  | some c =>
    let t : Thread := {
      slot := .loading, sys := c.sys, asid := c.asid, pbase := BitVec.ofNat 4 pbase, psize := c.psize, gang := c.gang, grp := some c.grp,
      frame := c.frame, framep := c.framep, energy := c.energy, charged := c.charged }
    let s0 := s
    let s := takeWindows (enterCluster s (slotCluster slot) c.asid) (slotCore slot) c.gang pbase c.psize.toNat c.asid
    let cl := s.cluster (slotCluster slot)
    let mine (r : Region) : Bool := r.grp == some c.grp
    let s := s.setCluster (slotCluster slot) { cl with regions := cl.regions.map (fun r => if mine r then { r with slot := some slot } else r) }
    let s := s.setThread slot { t with nextOp := ((cl.regions.filter mine).map (·.op + 1)).foldl max 0 }
    match framePages s slot false [0], applyHead s slot with
    | .ok ps, .ok s =>
      let cc := Vector.ofFn (fun i : Fin 8 => memWord s0.mem (frameAt ps (0x1C8 + 24 * i.val)))
      let s := s.setThread slot { s.thread slot with ic := cc, cc := cc }
      let p := s.pkg node
      enterRunning (s.setPkg node { p with saved := p.saved.eraseIdx idx }) slot
    | _, .error (.trap cause _) => groupFault s0 node c.grp cause true c.frame
    | _, .error (.wait (.service die img)) => requestPage s0 die img
    | _, _ => s0

/-! ## Scrubbing and withdrawal (09_core.md R219, R221) -/

/-- PANTRY_SCRUB (R219): the scrubber of a core comes to the next word with an error. One that can be corrected is, and counts; another
one sets ERRUE.PANT and ERRADDR. A word without an error is not changed. Whether the scrubber of a withdrawn core goes on the manual does
not say; the model's stops (DESIGN CHOICE; log 129). -/
def execPantryScrub (core : Nat) (s : State) : Outcome State Fault Refusal :=
  let c := s.core core
  if !c.scrubEn || c.dead then .next s else
  let lo := pantryKey core 0 0 / 8
  let ws := ((s.soft.map (·.1) ++ s.poison).filter (fun w => lo ≤ w && w < lo + 2 ^ 17)).map (· - lo)
  let least (l : List Nat) : Option Nat := l.foldl (fun m w => some (min w (m.getD w))) none
  match (least (ws.filter (c.scrubAt ≤ ·))).orElse (fun _ => least ws) with
  | none => .next s
  | some w =>
    let s := s.setCore core { c with scrubAt := w + 1 }
    .next (if s.poison.contains (lo + w) then notePantry s ((lo + w) * 8) else s.correct ((lo + w) * 8) 8)

/-- Nothing that a slot's thread has on its way performs any more (R221). -/
def dropInFlight (s : State) (slot : Nat) : State :=
  let mine (n : NoticeRec) : Bool := n.what.slot? == some slot
  { s with
    cores := s.cores.map (fun c => (c.1, { c.2 with
      comb := c.2.comb.filter (fun e => e.slot != slot), wbuf := c.2.wbuf.filter (fun e => e.slot != slot) }))
    dies := s.dies.map (fun d => (d.1, { d.2 with
      lineWrites := d.2.lineWrites.filter (fun e => e.slot != slot), contribs := d.2.contribs.filter (fun e => e.slot != slot)
      rows := d.2.rows.filter (fun e => e.slot != slot), copies := d.2.copies.filter (fun e => e.slot != some slot)
      notices := d.2.notices.filter (fun n => !mine n), unsent := d.2.unsent.filter (fun w => w.slot? != some slot) })) }

/-- CORE_WITHDRAWAL (R221): the groups of its slots are faulted with cause 0x6B, and one that is preloaded beside a group that has not left
the core is pending again (16 R373). -/
def withdraw (s : State) (core : Nat) : State :=
  let c := s.core core
  let node := core / 512
  let s0 := s
  let s := s.setCore core { c with dead := true, errue := c.errue ||| 4 }
  let s := s.record node (core / 64 % 8) (eventWord 0x6B 0 0 (core / 64 % 8) (core % 64) 0) 0 (cidOf core)
  (List.range 4).foldl (fun s i =>
    let slot := s.lower (core * 4 + i)
    let t := s.thread slot
    match t.slot, t.grp with
    | .free, _ => s
    | .loading, some g => if t.preload && (s0.coresOf slot).any (fun k => stayingOn s0 t k != 0) then repend (freeSlot s slot) node g else faultFrom s slot 0x6B false
    | _, _ => faultFrom (dropInFlight s slot) slot 0x6B false) s

/-- CORE_WITHDRAWAL (R221). -/
def execCoreWithdrawal (core : Nat) (s : State) : Outcome State Fault Refusal := .next (withdraw s core)

/-- STALL_READ_RELEASE (14 R335): a read that waits for a fresh block is tried again. -/
def execStallReadRelease (slot : Nat) (s : State) : Outcome State Fault Refusal :=
  match headOf s slot with
  | some _ => landGranule s slot
  | none =>
    retryAt s slot fun i s =>
      match s.th.wait with
      | some (.stall _ _ _ _) => (match i with
        | .cld t h i sn e k n => some (execCld t h i sn e k n s)
        | _ => none)
      | _ => none

end Sys2Proof.Machine
end

