-- ==== Sys2Proof/Machine/Distributor.lean ====
section
/-! DEFINITION. The Distributor: candidates, decisions and the slots they fill, and the launch queues (16_package_scheduling.md R359,
R362-R371, R379-R381; 17_package_system.md R386, R389, R391). -/

namespace Sys2Proof.Machine

open Host (Outcome)

/-! ## Candidates (R362-R365, R370) -/

/-- A candidate: a pending index of a stage, or a saved context by its place among those of the package. -/
structure Cand where
  run : Nat
  stage : Nat
  index : Nat
  ctx : Option Nat := none
  deriving DecidableEq, Repr

/-- The pending indices of a stage, lowest first. -/
def Stage.pending (st : Stage) : List Nat :=
  (List.range st.next).filter st.back.contains ++ (List.range (st.gc - st.next)).map (· + st.next)

/-- A stage of a run. -/
def Run.stage (u : Run) (i : Nat) : Stage := u.stages.getD i { words := [], gc := 0 }

/-- Whether a group of a later stage had not been issued when the GROW took effect that added an index, if one did (R363). -/
def Stage.ordersGrown (st : Stage) (j t x : Nat) : Bool :=
  match (st.grows.filter (fun g => g.first ≤ j)).getLast? with
  | none => true
  | some g => match g.open_.find? (fun p => p.1 == t) with
    | some p => p.2.1 ≤ x || p.2.2.contains x
    | none => true

/-- R362, R363: an incomplete group of an earlier stage conflicts with the group. -/
def Run.blocked (u : Run) (t x : Nat) : Bool :=
  (List.range t).any (fun i =>
    let st := u.stage i
    (List.range st.gc).any (fun j => !st.isComplete j && st.ordersGrown j t x && conflicts st j (u.stage t) x))

/-- R364: the stage's output queue takes the group: it has an entry already, or the queue has room; the last stage's is not limited. -/
def Run.queueOpen (u : Run) (t x : Nat) : Bool :=
  let st := u.stage t
  u.stages.length ≤ t + 1 || st.queue.any (fun q => q.index == x) || st.queue.length < st.depth

/-- R370: what the partition's remaining budget admits. -/
def Partition.admits (q : Partition) (pred : Word) : Bool :=
  q.inBudget = 0 || q.charged + pred.toNat ≤ q.limit || (q.charged = 0 && q.limit = q.inBudget.toNat * 1024)

/-- R365: a frame for the group: its own, a free one of the pool, or none where the pool is empty. -/
def frameFor (s : State) (node : Nat) (u : Run) (t x : Nat) : Bool :=
  let q := (s.pkg node).part u.part.toNat
  q.fpn = 0 || u.frames.any (fun f => f.1 == t && f.2.1 == x) || !(freeBelow (framesHeld s node u.part.toNat) q.fpn.toNat).isEmpty

/-- Whether a pending group may be issued, apart from its stage's queue. -/
def mayIssue (s : State) (node : Nat) (u : Run) (t x : Nat) : Bool :=
  !u.blocked t x && ((s.pkg node).part u.part.toNat).admits (u.stage t).pred && frameFor s node u t x

/-- R364: the group that is issued beyond the depth when nothing of the run is in a slot. -/
def escapeOf (s : State) (node r : Nat) (u : Run) : List Cand :=
  if !(s.runSlots node r).isEmpty then [] else
  match (List.range u.stages.length).find? (fun i =>
      (u.stage i).pending.any (fun a => (u.stage (i + 1)).pending.any (fun b => conflicts (u.stage i) a (u.stage (i + 1)) b))) with
  | none => []
  | some i => match (u.stage i).pending with
    | x :: _ => if mayIssue s node u i x then [{ run := r, stage := i, index := x }] else []
    | [] => []

/-- The candidates of a run, before a slot is looked for: its saved contexts, then its pending groups; the escape of R364 where there is
none. -/
def candsOf (s : State) (node r : Nat) (u : Run) : List Cand :=
  if u.holding || u.ending then [] else
  let p := s.pkg node
  let back := (p.saved.zipIdx).filterMap (fun c =>
    if c.1.grp.run == r && !c.1.held && !c.1.untilPeriod && (p.part u.part.toNat).admits (u.stage c.1.grp.stage).pred
    then some { run := r, stage := c.1.grp.stage, index := c.1.grp.index, ctx := some c.2 } else none)
  let fresh := (List.range u.stages.length).flatMap (fun t =>
    ((u.stage t).pending.filter (fun x => u.queueOpen t x && mayIssue s node u t x)).map (fun x => { run := r, stage := t, index := x }))
  if (back ++ fresh).isEmpty then escapeOf s node r u else back ++ fresh

/-- The candidates of a package; in RESCUE its Distributor answers nothing (17_package_system.md R396). -/
def cands (s : State) (node : Nat) : List Cand :=
  if (s.pkg node).rescue then [] else (s.pkg node).runs.flatMap (fun r => candsOf s node r.1 r.2)

/-! ## Slots (R359, R368, R369) -/

/-- The dies that hold clusters of a partition, in ascending order. -/
def partDies (p : Package) (part : Nat) : List Nat := (List.range 8).filter (fun d => (p.clusters part).any (fun c => c / 16 == d))

/-- The die of the package that R359 requires of a group. -/
def dieFor (p : Package) (part : Nat) (st : Stage) (x : Nat) : Option Nat :=
  match st.dieIndex x with
  | none => none
  | some q => (partDies p part)[q % (partDies p part).length]?

/-- The groups in LOADING on a core. -/
def loadingOn (s : State) (core : Nat) : Nat := ((coreThreads s core).filter (fun t => t.slot == .loading)).length

/-- Whether a core takes one group more: to run it, or to hold it as a preload (R369). -/
def coreTakes (s : State) (q : Partition) (preload : Bool) (core : Nat) : Bool :=
  !(s.core core).dead && (runningOn s core + loadingOn s core < q.rmax.toNat
    || (preload && q.pre && loadingOn s core = 0 && q.rmax.toNat ≤ runningOn s core))

/-- The lowest slot number that is FREE on each of some cores. -/
def freeSlotOn (s : State) (cores : List Nat) : Option Nat :=
  (List.range 4).find? (fun i => cores.all (fun c => (s.thread (c * 4 + i)).slot == .free))

/-- The lowest place at which a window is free on each of some cores, for a slot number. -/
def freeWindow (s : State) (cores : List Nat) (slot psize : Nat) : Option Nat :=
  (List.range (17 - psize)).find? (fun b => psize = 0 || cores.all (fun c => !windowTaken s c slot b psize))

/-- Where a core, with the next one for a gang, takes a candidate: the slot and the place of its window. -/
def placeOn (s : State) (q : Partition) (preload gang : Bool) (psize core : Nat) : Option (Nat × Nat) :=
  let cores := if gang then [core, core + 1] else [core]
  if (gang && core % 2 = 1) || !cores.all (coreTakes s q preload) then none else
  match freeSlotOn s cores with
  | none => none
  | some i => (freeWindow s cores i psize).map (fun b => (core * 4 + i, b))

/-- Whether a candidate's group runs on a gang, its window, and the cluster that its tiles bind it to. -/
def candNeeds (s : State) (node : Nat) (u : Run) (c : Cand) : Bool × Nat × Option Nat :=
  match c.ctx with
  | some i => match (s.pkg node).saved[i]? with
    | some x => (x.gang, x.psize.toNat, x.cluster)
    | none => (false, 0, none)
  | none => ((u.stage c.stage).gang, (u.stage c.stage).psize.toNat, none)

/-- The slot that a candidate takes, with the place of its window (R368): on a core that last ran its stage if there is one, then the
lowest; a core that would hold it as a preload only where none runs it. A context is restored only where it runs at once. -/
def placeFor (s : State) (node : Nat) (c : Cand) : Option (Nat × Nat) :=
  match s.run? node c.run with
  | none => none
  | some u =>
    let p := s.pkg node
    let q := p.part u.part.toNat
    let (gang, psize, cluster) := candNeeds s node u c
    let die := dieFor p u.part.toNat (u.stage c.stage) c.index
    let cores := (partCores p node u.part.toNat).filter (fun k =>
      (match die with
        | some d => k / 64 % 8 == d
        | none => true) && (match cluster with
        | some cl => k / 4 == cl
        | none => true))
    let known := cores.filter (fun k => (s.core k).lastStage == some (u.seq, c.stage))
    let at_ (preload : Bool) := (known ++ cores).findSome? (placeOn s q preload gang psize)
    match at_ false with
    | some w => some w
    | none => if c.ctx.isSome then none else at_ true

/-! ## The choice (R366, R367) -/

/-- The age of a candidate. -/
def ageOf (p : Package) (c : Cand) : Nat :=
  match p.ages.find? (fun a => a.1 == c.run && a.2.1 == c.stage && a.2.2.1 == c.index) with
  | some a => a.2.2.2
  | none => 0

/-- The input occupancy of a stage (R364). -/
def Run.inputs (u : Run) (t : Nat) : Nat := if t = 0 then 0 else ((u.stage (t - 1)).queue.filter (·.complete)).length

/-- What a candidate is ranked by, the lowest first: aged ones, oldest first; then priority, the turn of its run, the input occupancy and
place of its stage, saved contexts, and its index. -/
def rankOf (s : State) (node : Nat) (c : Cand) : List Nat :=
  let p := s.pkg node
  let age := ageOf p c
  match s.run? node c.run with
  | none => []
  | some u =>
    (if 1024 ≤ age then [0, 2 ^ 64 - age] else [1, 0])
    ++ [3 - u.prio.toNat, (if vread p.lastRun u.prio.toNat < u.seq then 0 else 1), u.seq, 2 ^ 64 - u.inputs c.stage, 8 - c.stage]
    ++ (match c.ctx with
      | some i => [0, i]
      | none => [1, c.index])

/-- Lists of numbers in their lexicographic order. -/
def lexLess : List Nat → List Nat → Bool
  | a :: as, b :: bs => a < b || (a == b && lexLess as bs)
  | [], _ :: _ => true
  | _, [] => false

/-- The candidate of the lowest rank. -/
def chosen (s : State) (node : Nat) : List Cand → Option Cand
  | [] => none
  | c :: r => match chosen s node r with
    | none => some c
    | some b => if lexLess (rankOf s node b) (rankOf s node c) then some b else some c

/-- After a decision the candidates that were not chosen are older by one, and the chosen one's run had its turn. -/
def aged (s : State) (node : Nat) (l : List Cand) (c : Cand) : State :=
  let p := s.pkg node
  let same (a : Nat × Nat × Nat × Nat) (b : Cand) : Bool := a.1 == b.run && a.2.1 == b.stage && a.2.2.1 == b.index
  let others := l.filter (fun b => !(b.run == c.run && b.stage == c.stage && b.index == c.index))
  let ages := (p.ages.filter (fun a => !same a c && !others.any (same a))) ++ others.map (fun b => (b.run, b.stage, b.index, ageOf p b + 1))
  let turn := match s.run? node c.run with
    | some u => vwrite p.lastRun u.prio.toNat u.seq
    | none => p.lastRun
  s.setPkg node { p with ages := ages, lastRun := turn }

/-! ## Issue (R211, R270, R364, R370; 17 R389) -/

/-- A stage after the issue of a group: its entry in the output queue, and the indices still pending. -/
def Stage.issue (st : Stage) (x : Nat) : Stage :=
  { st with
    next := max st.next (x + 1)
    back := st.back.filter (· != x) ++ (List.range (x - st.next)).map (· + st.next)
    queue := if st.queue.any (fun q => q.index == x) then st.queue else st.queue ++ [⟨x, false⟩] }

/-- A frame for a group that is issued: the one it holds, or a free one of the pool. -/
def takeFrame (s : State) (node r : Nat) (u : Run) (t x : Nat) : Option Nat × State :=
  match u.frames.find? (fun f => f.1 == t && f.2.1 == x) with
  | some f => (some f.2.2, s.setRun node r { u with frames := u.frames.filter (· != f) })
  | none => s.pick (freeBelow (framesHeld s node u.part.toNat) ((s.pkg node).part u.part.toNat).fpn.toNat)

/-- A pending group is issued into a slot: the slot is LOADING, PRED is charged, and the Larder preload begins. -/
def issueGroup (s : State) (node : Nat) (c : Cand) (slot pbase : Nat) : State :=
  match s.run? node c.run with
  | none => s
  | some u =>
    let st := u.stage c.stage
    let (frame, s) := takeFrame s node c.run u c.stage c.index
    let u := (s.run? node c.run).getD u
    let s := s.setRun node c.run (u.mapStage c.stage (·.issue c.index))
    let q := (s.pkg node).part u.part.toNat
    let s := s.setPart node u.part.toNat { q with charged := q.charged + st.pred.toNat }
    let s := takeWindows (enterCluster s (slotCluster slot) u.asid) (slotCore slot) st.gang pbase st.psize.toNat u.asid
    let cores := if st.gang then [slotCore slot, slotCore slot + 1] else [slotCore slot]
    let preload := cores.any (fun k => q.rmax.toNat ≤ runningOn s k)
    let t := { startThread u st ⟨c.run, u.gen, c.stage, c.index⟩ pbase frame with
      preload := preload, leaving := if preload then cores.flatMap (leavingOn s) else [] }
    let s := syncUpper (s.setThread slot t) slot
    match preloadLines slot st t.toLoad s with
    | (s, some (.trap cause _)) => faultFrom s slot cause false
    | (s, _) => if preload then fetchFirst s slot else s

/-- One decision (R365): among the candidates that some slot takes, the first is assigned to its slot. -/
def decide_ (s : State) (node : Nat) : State :=
  let l := (cands s node).filter (fun c => (placeFor s node c).isSome)
  match chosen s node l with
  | none => s
  | some c => match placeFor s node c with
    | none => s
    | some (slot, b) =>
      let s := aged s node l c
      match c.ctx with
      | some i => restoreCtx s node i slot b
      | none => issueGroup s node c slot b

/-- DISTRIBUTOR_DECISION (R365). -/
def execDistributorDecision (node : Nat) (s : State) : Outcome State Fault Refusal := .next (decide_ s node)

/-- CONTEXT_RESTORE (11_traps.md R258): a saved context that is a candidate is restored into a slot that takes it. -/
def execContextRestore (slot idx : Nat) (s : State) : Outcome State Fault Refusal :=
  let node := slotNode slot
  match (cands s node).find? (fun c => c.ctx == some idx) with
  | none => .next s
  | some c =>
    match s.run? node c.run with
    | none => .next s
    | some u =>
      let p := s.pkg node
      let (gang, psize, cluster) := candNeeds s node u c
      let core := slotCore slot
      let dieOk := match dieFor p u.part.toNat (u.stage c.stage) c.index with
        | some d => core / 64 % 8 == d
        | none => true
      let cores := if gang then [core, core + 1] else [core]
      let clOk := match cluster with
        | some k => core / 4 == k
        | none => true
      if !dieOk || !clOk || (gang && core % 2 = 1) || !(partCores p node u.part.toNat).contains core
          || !cores.all (coreTakes s (p.part u.part.toNat) false)
          || !cores.all (fun k => (s.thread (k * 4 + slot % 4)).slot == .free) then .next s else
      match freeWindow s cores (slot % 4) psize with
      | none => .next s
      | some b => .next (restoreCtx s node idx slot b)

/-! ## Launch queues (R379-R381) -/

/-- The slots of a queue; none where QCTL disables it. -/
def LQueue.slots (q : LQueue) : Option Nat :=
  let logns := (bits q.ctl 17 4).toNat
  if bit q.ctl 21 && 4 ≤ logns && logns ≤ 12 then some (2 ^ logns) else none

/-- The ASID that a queue's runs and copies hold. -/
abbrev LQueue.asid (q : LQueue) : BitVec 12 := bits q.ctl 0 12
/-- QCTL.SYS. -/
abbrev LQueue.sys (q : LQueue) : Bool := bit q.ctl 22

/-- The Distributor as an agent that reads and writes a queue. -/
abbrev queueAgent (node queue : Nat) (q : LQueue) : Agent := ⟨q.asid, true, node * 2048, [10, node, queue]⟩

/-- A word at an address, read as an agent. -/
def engineWord (s : State) (ag : Agent) (a : Word) : Except Stop (Word × State) := do
  let (key, s) ← engineReach s ag 8 1 a none
  return (memWord s.mem key, s)

/-- n words from an address on. -/
def engineWords (ag : Agent) : Nat → Word → State → Except Stop (List Word × State)
  | 0, _, s => .ok ([], s)
  | n + 1, a, s => do
    let (w, s) ← engineWord s ag a
    let (ws, s) ← engineWords ag n (a + 8) s
    return (w :: ws, s)

/-- The entry that a queue of ns slots is at (R379, R381), read as an agent: its address, the value of RDIDX and its eight words, once its
first word names a kind. -/
def entryAt (s : State) (ag : Agent) (base : Word) (ns : Nat) : Except Stop (State × Option (Word × Word × List Word)) := do
  let (rd, s) ← engineWord s ag (base + 8)
  let a := base + BitVec.ofNat 64 (64 * (1 + rd.toNat % ns))
  let (ws, s) ← engineWords ag 8 a s
  return (s, if bits (ws.getD 0 0) 0 8 = 0 then none else some (a, rd, ws))

/-- The packet that a launch queue is at. -/
def packetAt (s : State) (node queue : Nat) (q : LQueue) : Except Stop (State × Option (Word × Word × List Word)) :=
  match (if (s.pkg node).rescue then none else q.slots) with
  | none => .ok (s, none)
  | some ns => if tagOf q.base != 0 then .ok (s, none) else entryAt s (queueAgent node queue q) q.base ns

/-- A packet is consumed (R381): its header becomes 0, and RDIDX rises by 1. -/
def consumeEntry (s : State) (node : Nat) (asid : BitVec 12) (base a rd : Word) : State :=
  let s := writeAs s node asid a (leBytes 8 0)
  writeAs s node asid (base + 8) (leBytes 8 (rd + 1).toNat)

/-- The reserved bits of a packet: of the header above BARRIER, which RESUME does not have, of the words that its kind leaves unused, and of
a COPY's size word, with its EV and FILL. -/
def packetReserved (ws : List Word) : Bool :=
  let w0 := ws.getD 0 0
  let kind := (bits w0 0 8).toNat
  bits w0 9 55 != 0 || (match kind with
    | 1 => (ws.drop 2).any (· != 0)
    | 2 => bits (ws.getD 3 0) 45 19 != 0 || (ws.drop 5).any (· != 0)
    | 3 => bit w0 8 || bits (ws.getD 1 0) 24 40 != 0 || (ws.drop 2).any (· != 0)
    | _ => true)

/-- Whether the BARRIER bit of a RUN or COPY packet holds it back (R380). -/
def barred (q : LQueue) (ws : List Word) : Bool :=
  bit (ws.getD 0 0) 8 && !packetReserved ws && !(q.openRuns.isEmpty && q.openCopies = 0)

/-- The agent that reads the descriptors of a RUN packet. -/
abbrev launchAgent (node queue : Nat) (q : LQueue) : Agent := ⟨q.asid, q.sys, node * 2048, [11, node, queue]⟩

/-- The DONE word that a packet names: of a RUN the one of its run descriptor, of a COPY its fourth word. -/
def packetDone (s : State) (node queue : Nat) (q : LQueue) (ws : List Word) : Word :=
  match (bits (ws.getD 0 0) 0 8).toNat with
  | 1 => if tagOf (ws.getD 1 0) != 0 || (ws.getD 1 0).toNat % 8 != 0 then 0
    else match engineWord s (launchAgent node queue q) (ws.getD 1 0 + 16) with
    | .ok (w, _) => w
    | .error _ => 0
  | 2 => ws.getD 4 0
  | _ => 0

/-- A DONE word receives STATUS 2 and a cause. -/
def refusePacket (s : State) (node : Nat) (q : LQueue) (done : Word) (cause : Nat) : State :=
  if done = 0 || done.toNat % 8 != 0 then s else writeAs s node q.asid done (leBytes 8 (doneWord 2 cause 0).toNat)

/-- The packet of a queue is acted on, when it is of a class that a test picks: `act` tells whether it is consumed or has to wait. -/
def servePacket (s : State) (node queue : Nat) (pick : List Word → Bool) (act : LQueue → List Word → State → State × Bool) : State :=
  let q := (s.pkg node).queues.look {} queue
  match packetAt s node queue q with
  | .error st => engineStop s (queueAgent node queue q) st
  | .ok (s, none) => s
  | .ok (s, some (a, rd, ws)) =>
    if !pick ws || barred q ws then s else
    match act q ws s with
    | (s, true) => consumeEntry s node q.asid q.base a rd
    | (s, false) => s

/-- A packet of a kind without a reserved bit. -/
def packetOf (kind : Nat) (ws : List Word) : Bool := (bits (ws.getD 0 0) 0 8).toNat == kind && !packetReserved ws

/-- A RUN packet: its run is accepted, or its completion word receives cause 0x68; it waits for an entry of the table. -/
def launch (node queue : Nat) (q : LQueue) (ws : List Word) (s : State) : State × Bool :=
  let ag := launchAgent node queue q
  let refuse (s : State) : State × Bool := (refusePacket s node q (packetDone s node queue q ws) 0x68, true)
  if runTableFull s node then (s, false) else
  match readRun s ag true node (ws.getD 1 0) 3 with
  | .error (.trap c v) => refuse (engineStop s ag (.trap c v))
  | .error st => (engineStop s ag st, false)
  | .ok (none, s) => refuse s
  | .ok (some u, s) =>
    let (e, s) := addRun s node { u with queue := some queue }
    let gen := match s.run? node e with
      | some u => u.gen
      | none => 0
    let p := s.pkg node
    let l := p.queues.look {} queue
    (s.setPkg node { p with queues := p.queues.put queue { l with openRuns := l.openRuns ++ [(e, gen)] } }, true)

/-- RUN_PACKET (R380). -/
def execRunPacket (node queue : Nat) (s : State) : Outcome State Fault Refusal :=
  .next (servePacket s node queue (packetOf 1) (launch node queue))

/-- A COPY packet: it starts on a copy engine of the destination's die, or its completion word receives the cause of R277. A Larder that
it names is the first cluster's of that die, which for a destination there is die 0: the packet names no cluster (log 111). -/
def startCopy (node queue : Nat) (q : LQueue) (ws : List Word) (s : State) : State × Bool :=
  let dst := ws.getD 1 0
  let src := ws.getD 2 0
  let size := ws.getD 3 0
  let done := ws.getD 4 0
  let die := if tagOf dst = 0 then s.homeOf node dst else node * 8
  match copyFails (s.cluster (die * 16)) false size dst src with
  | some (c, _) => (refusePacket s node q done c.toNat, true)
  | none =>
    if copySize size = 0 then
      (if done = 0 then s else writeAs s node q.asid done (leBytes 8 (doneWord 1 0 0).toNat), true) else
    let d := s.die die
    let job : CopyJob := {
      slot := none, op := 0, sn := 0, grp := none, asid := q.asid, priv := q.sys, edge := 0, dst := dst, src := src, size := size, pc := 0
      queue := some (node, queue), doneAt := done }
    let s := s.setDie die { d with copies := d.copies ++ [job] }
    let p := s.pkg node
    let l := p.queues.look {} queue
    (s.setPkg node { p with queues := p.queues.put queue { l with openCopies := l.openCopies + 1 } }, true)

/-- COPY_PACKET (R380). -/
def execCopyPacket (node queue : Nat) (s : State) : Outcome State Fault Refusal :=
  .next (servePacket s node queue (packetOf 2) (startCopy node queue))

/-- A held run goes on (R372): every held context is a candidate again, and every held index is pending. -/
def resumeRun (s : State) (node r : Nat) (gen : BitVec 16) : State :=
  match s.run? node r with
  | none => s
  | some u =>
    if u.gen != gen || !u.holding then s else
    let p := s.pkg node
    let s := s.setPkg node { p with saved := p.saved.map (fun c => if c.grp.run == r then { c with held := false } else c) }
    u.held.foldl (fun s h => repend s node ⟨r, gen, h.1, h.2⟩) (s.setRun node r { u with holding := false, held := [] })

/-- RESUME_PACKET (R372, R380). -/
def execResumePacket (node queue : Nat) (s : State) : Outcome State Fault Refusal :=
  .next (servePacket s node queue (packetOf 3) (fun _ ws s =>
    (resumeRun s node (bits (ws.getD 1 0) 0 8).toNat (bits (ws.getD 1 0) 8 16), true)))

/-- RESERVED_PACKET (R380): a packet of a reserved kind, or with a reserved bit, is consumed without effect but for its DONE word. -/
def execReservedPacket (node queue : Nat) (s : State) : Outcome State Fault Refusal :=
  .next (servePacket s node queue (fun ws => !(packetOf 1 ws || packetOf 2 ws || packetOf 3 ws))
    (fun q ws s => (refusePacket s node q (packetDone s node queue q ws) 0x68, true)))

/-- The Distributor serves a queue: whatever packet it is at. -/
def serveQueue (s : State) (node queue : Nat) : State :=
  servePacket s node queue (fun _ => true) (fun q ws s =>
    if packetOf 1 ws then launch node queue q ws s
    else if packetOf 2 ws then startCopy node queue q ws s
    else if packetOf 3 ws then (resumeRun s node (bits (ws.getD 1 0) 0 8).toNat (bits (ws.getD 1 0) 8 16), true)
    else (refusePacket s node q (packetDone s node queue q ws) 0x68, true))

end Sys2Proof.Machine
end

