-- ==== Sys2Proof/Machine/System.lean ====
section
/-! DEFINITION. Major 0x3E: TRAP, ERET, MFS, MTS, YIELD and ERD (11_traps.md R256, R260-R264). -/

namespace Sys2Proof.Machine

open Host (Outcome)

/-- What a trap of the thread that runs has to wait for: values on their way, the progress word of its macro, or the page of its head. -/
def headWait (s : State) : Option Wait :=
  let s := writeReturned s s.cur
  if s.th.returning (fun _ => true) then some .returned else
  match parkMacro s with
  | .error w => some w
  | .ok s =>
  if s.th.inh then none else
  match framePlace s s.cur true s.th.framep 4096 with
  | .error (.wait (.service die img)) => some (.service die img)
  | .error (.wait (.migrating die)) => some (.migrating die)
  | _ => none

/-- An instruction that commits and then traps (R261, R263): EPC names the address at which execution continues. -/
def commitAndTrap (s : State) (cause : BitVec 7) (val : Word) : Outcome State Fault Refusal :=
  match headWait s with
  | some w => .next ((writeReturned s s.cur).enterWait w none)
  | none =>
    let s := s.advance
    .next (takeTrap s cause val s.th.pc none false)

/-- TRAP (R261). -/
def execTrap (c : BitVec 7) (s : State) : Outcome State Fault Refusal := serialise s fun s => commitAndTrap s 0x0E (c.zeroExtend 64)

/-- ERET (R256), privileged (R60). What INH has held back lands at once, before the first granule of the instruction that resumes (R255). -/
def execEret (s : State) : Outcome State Fault Refusal :=
  serialise s fun s => privileged s ((wordOf .eret).zeroExtend 64) fun s => scalarOut s (do
    let s ← applyHead s s.cur
    return (landNow s).getD s)

/-! ## Special registers (R262) -/

/-- The places of the registers that are words of the head at FRAMEP. -/
def headOffset (r : Nat) : Option Nat :=
  match r with
  | 0x008 => some 0x000
  | 0x009 => some 0x008
  | 0x00A => some 0x010
  | 0x00B => some 0x018
  | _ => none

/-- Whether a number is in the table. -/
def sprNamed (r : Nat) : Bool := r ≤ 0x00B || (0x010 ≤ r && r ≤ 0x016)
/-- The registers that only system privilege reads and writes. -/
def sprSystem (r : Nat) : Bool := r == 0x00B || (0x010 ≤ r && r ≤ 0x013)
/-- The registers that MTS may write at a privilege. -/
def sprWritable (r : Nat) (sys : Bool) : Bool := r ≤ 4 || (sys && ((7 ≤ r && r ≤ 0x00B) || (0x010 ≤ r && r ≤ 0x013)))

/-- Where a word of the head lies, with the state in which the access reaches it: it is one at system privilege, behind the thread's own
earlier accesses to the line (07_streams.md R182), and a read meets an uncorrectable word. -/
def headPlace (s : State) (write : Bool) (off : Nat) : Except Stop (Nat × State) := do
  let a := s.th.framep + BitVec.ofNat 64 off
  let key ← framePlace s s.cur write a 8
  let s := reachOwn s s.cur a key 8 (if write then some [] else none)
  match ownOpen s s.cur key 8 with
  | some op => throw (.wait (.edge op))
  | none => pure ()
  meetsBad s ⟨s.th.asid, true, s.cur, []⟩ write key 8 0 a
  return (key, s)

/-- PSTAT. -/
def pstatWord (t : Thread) : Word := BitVec.ofNat 64 (t.priv.toNat + t.inh.toNat * 2 + t.ppend.toNat * 4)

/-- A special register that is not a word of the head. CYCLE is a count that the manual does not give (log 5). -/
def sprRead (s : State) (r : Nat) : Word × State :=
  let t := s.th
  match r with
  | 0x000 => (t.vl.zeroExtend 64, s)
  | 0x001 => (t.vtype, s)
  | 0x002 => (t.cols.zeroExtend 64, s)
  | 0x003 => (t.fcs, s)
  | 0x004 => (t.srnd.zeroExtend 64, s)
  | 0x005 => (0x8000000000000000#64, s)
  | 0x006 => (t.msdepth.zeroExtend 64, s)
  | 0x007 => (pstatWord t, s)
  | 0x010 => (t.tvec, s)
  | 0x011 => (t.framep, s)
  | 0x012 => (t.troute0, s)
  | 0x013 => (t.troute1, s)
  | 0x014 => (t.asid.zeroExtend 64, s)
  | 0x015 => (cidOf s.coreKey ||| BitVec.ofNat 64 (s.cur % 4 * 2 ^ 9), s)
  | 0x016 =>
    let (w, s) := s.fresh
    let c := s.core s.coreKey
    let v := satAdd c.cycle w.toNat
    (v, s.setCore s.coreKey { c with cycle := v })
  | _ => (0, s)

/-- The fields of EPC, ECAUSE, EVAL and ESTAT; their reserved bits read 0 (R251; 01_thread.md R42; 00_scope.md R6). -/
def headFields (r : Nat) : Word :=
  match r with
  | 0x008 => 0x003FFFFFFFFFFFFC#64
  | 0x009 => 0x17F#64
  | 0x00A => 0xFFFFFFFFFFFFFFFF#64
  | _ => 0x3FFFFFFF#64

/-- MFS's read of a register (R262). A group without a frame has taken no trap, and its EPC, ECAUSE, EVAL and ESTAT read the 0 that they
hold at its start (01_thread.md R10; log 97). -/
def mfsBody (s : State) (d : BitVec 5) (r : Nat) : Except Stop State := do
  if !sprNamed r then throw (.trap 0x0C (BitVec.ofNat 64 r))
  match headOffset r with
  | some off =>
    if s.th.framep = 0 && s.th.frame.isNone then return s.ret d 0
    let (key, s) ← headPlace s false off
    let s := s.correct key 8
    return s.ret d (memWord s.mem key &&& headFields r)
  | none =>
    let (v, s) := sprRead s r
    return s.ret d v

/-- MFS (R262): an empty vector queue is read as such, since it is serialising. -/
def execMfs (d : BitVec 5) (r : BitVec 12) (s : State) : Outcome State Fault Refusal :=
  serialise s fun s =>
    if sprSystem r.toNat && !s.th.priv then .next (trapAt s 0x04 ((wordOf (.mfs d r)).zeroExtend 64) none)
    else scalarOut s (mfsBody s d r.toNat)

/-- The bits that MTS writes of a word of the head: the fields of EPC and ECAUSE, all of EVAL, and the writable fields of ESTAT (R251;
01_thread.md R42). -/
def headMask (r : Nat) : Word :=
  match r with
  | 0x008 => 0x003FFFFFFFFFFFFC#64
  | 0x009 => 0x17F#64
  | 0x00A => 0xFFFFFFFFFFFFFFFF#64
  | _ => 0xFFFFF7#64

/-- A word of the head written; BODY that becomes 1 first writes the live body. -/
def headWrite (s : State) (r off : Nat) (v : Word) : Except Stop State := do
  let (key, s) ← headPlace s true off
  let old := memWord s.mem key
  let new := (old &&& ~~~(headMask r)) ||| (v &&& headMask r)
  let s ← if r = 0x00B && !bit old 1 && bit v 1 then do
      let ps ← framePages s s.cur true (0 :: bodyPages s.th)
      let bad := s.th.badRegs
      let (first, s) := poisonFirst (writeBody s s.cur ps) s.cur bad
      let word : Word := BitVec.ofNat 64 (bad.length + first * 2 ^ 16)
      pure (writeOwn s s.cur (s.th.framep + 0x640) (frameAt ps 0x640) (leBytes 8 word.toNat))
    else pure s
  let a := s.th.framep + BitVec.ofNat 64 off
  return storeBytes (putData s s.dieKey a key (leBytes 8 new.toNat)) s.th.asid a key (leBytes 8 new.toNat)

/-- A special register that is not a word of the head written, reserved bits ignored (R262; 01_thread.md R15, R17, R22, R39, R41). -/
def sprWrite (t : Thread) (r : Nat) (v : Word) : Except Stop Thread :=
  match r with
  | 0x000 => .ok { t with vl := bits v 0 15 }.clampVl
  | 0x001 => if vtypeLegal v then .ok { t with vtype := v }.clampVl else .error (.trap 0x03 v)
  | 0x002 => if 16384 < (bits v 0 15).toNat then .error (.trap 0x03 v) else .ok { t with cols := bits v 0 15 }
  | 0x003 => .ok { t with fcs := fcsWrite t.fcs v }
  | 0x004 => .ok { t with srnd := if bits v 0 32 = 0 then 1 else bits v 0 32 }
  | 0x007 => .ok { t with inh := bit v 1 }
  | 0x010 => .ok { t with tvec := v &&& 0xFFFFFFFFFFFC#64 }
  | 0x011 => .ok { t with framep := v &&& 0xFFFFFFFFFFFFF000#64 }
  | 0x012 => .ok { t with troute0 := v }
  | 0x013 => .ok { t with troute1 := v }
  | _ => .ok t

/-- MTS's write of a register (R262). -/
def mtsBody (s : State) (r : Nat) (v : Word) : Except Stop State := do
  if !sprNamed r || !sprWritable r s.th.priv then throw (.trap 0x0C (BitVec.ofNat 64 r))
  match headOffset r with
  | some off => return (← headWrite s r off v).advance
  | none => return { s with th := (← sprWrite s.th r v) }.advance

/-- MTS (R262). -/
def execMts (a : BitVec 5) (r : BitVec 12) (s : State) : Outcome State Fault Refusal :=
  serialise s fun s =>
    if sprSystem r.toNat && !s.th.priv then .next (trapAt s 0x04 ((wordOf (.mts a r)).zeroExtend 64) none)
    else scalarOut s (mtsBody s r.toNat (s.x a))

/-! ## YIELD and ERD (R263, R264) -/

/-- Whether a group of equal or higher run priority waits for a slot of the partition of the thread that runs. -/
def yieldWanted (s : State) : Bool :=
  match s.runOf s.cur with
  | none => false
  | some u => (cands s s.nodeKey).any (fun c => match s.run? s.nodeKey c.run with
    | some v => v.part == u.part && u.prio.toNat ≤ v.prio.toNat
    | none => false)

/-- YIELD (R263). -/
def execYield (s : State) : Outcome State Fault Refusal :=
  serialise s fun s => if !s.th.inh && yieldWanted s then commitAndTrap s 0 1 else .next s.advance

/-- The partition of the thread that runs. -/
def threadPart (s : State) : Partition :=
  match (s.pkg s.nodeKey).partOf s.th.asid with
  | some k => (s.pkg s.nodeKey).part k
  | none => {}

/-- An energy counter (R264; 17 R390, R391): the consumption of groups, stages and partitions is not given by the manual (log 5). -/
def energyCounter (s : State) (sel : Nat) : Word × State :=
  match sel with
  | 0 => let s := consume s s.cur; (s.th.energy, s)
  | 1 =>
    let s := consume s s.cur
    match s.runOf s.cur, s.th.grp with
    | some u, some g => ((u.stages.getD g.stage { words := [], gc := 0 }).energy, s)
    | _, _ => (s.th.energy, s)
  | 2 => let s := consume s s.cur; ((threadPart s).used, s)
  | 3 => (BitVec.ofNat 64 ((threadPart s).inBudget.toNat * 1024), s)
  | _ => ((s.pkg s.nodeKey).period, s)

/-- ERD (R264): selectors 5 to 15 are reserved. -/
def execErd (d : BitVec 5) (sel : BitVec 4) (s : State) : Outcome State Fault Refusal :=
  serialise s fun s =>
    if 4 < sel.toNat then .next (trapAt s 0x02 ((wordOf (.erd d sel)).zeroExtend 64) none)
    else
      let (v, s) := energyCounter s sel.toNat
      .next (s.ret d v)

end Sys2Proof.Machine
end

