-- ==== Sys2Proof/Machine/Ethernet.lean ====
section
/-! DEFINITION. The Ethernet engine: send queues, inbound RDMA and completions (18_fabric.md R428, R429). -/

namespace Sys2Proof.Machine

open Host (Outcome)

/-- A queue pair of a package. -/
abbrev Package.qpair (p : Package) (k : Nat) : QPair := p.qpairs.look {} k

/-- A queue pair replaced. -/
def State.setQPair (s : State) (node k : Nat) (q : QPair) : State :=
  let p := s.pkg node
  s.setPkg node { p with qpairs := p.qpairs.put k q }

/-- The agent that a queue pair's accesses are: its ASID, at user privilege (17 R388). -/
abbrev QPair.agent (q : QPair) (node qp : Nat) : Agent := ⟨q.asid, false, node * 2048, [12, node, qp]⟩

/-- The engine of a package acts on nothing: boot has disabled the ports, or ended in RESCUE (17_package_system.md R396). -/
def Package.ethernetOff (p : Package) : Bool := p.modulesOff.contains 26 || p.rescue

/-- The places of n bytes at an address for the engine, in pieces that do not leave a line; a line that a die engine owns is waited for
(07_streams.md R191). -/
def enginePieces (s : State) (ag : Agent) (write : Bool) : List (Word × Nat) → Except Stop (List (Word × Nat × Nat))
  | [] => .ok []
  | (a, n) :: r => do
    let key ← enginePlace s ag write n a
    if !s.lineFree key then throw (.wait (.recall key))
    return (a, key, n) :: (← enginePieces s ag write r)

/-- n bytes from an address on, cut at lines. -/
def linePieces (a : Word) : Nat → Nat → List (Word × Nat)
  | 0, _ => []
  | _ + 1, 0 => []
  | f + 1, n =>
    let k := min n (128 - a.toNat % 128)
    (a, k) :: linePieces (a + BitVec.ofNat 64 k) f (n - k)

/-- The pieces of n bytes at an address. -/
def spanPieces (a : Word) (n : Nat) : List (Word × Nat) := linePieces a (n / 128 + 2) n

/-- Bytes written by the engine at an address, in their order, as write events of the queue pair's agent. -/
def engineWrite (s : State) (q : QPair) (node qp : Nat) (a : Word) (bs : List Byte) : Except Stop State := do
  let ps ← enginePieces s (q.agent node qp) true (spanPieces a bs.length)
  return (ps.foldl (fun (r : State × List Byte) p =>
    (storeBytes (reachFrom r.1 q.asid (node * 8) none p.1 p.2.1 p.2.2 (some (r.2.take p.2.2))) q.asid p.1 p.2.1 (r.2.take p.2.2), r.2.drop p.2.2)) (s, bs)).1

/-! ## Outbound (R428) -/

/-- The completion word of an entry. -/
def workWord (ok : Bool) (code bytes : Nat) : Word :=
  BitVec.ofNat 64 ((if ok then 1 else 2) + (if ok then 0 else code % 256 * 2 ^ 8) + bytes % 2 ^ 48 * 2 ^ 16)

/-- Bytes of a queue pair that cannot be written yet are held, line by line, and behind them what their message delivers. -/
def holdWrite (s : State) (q : QPair) (node qp : Nat) (a : Word) (bs : List Byte) (msg : List Byte := []) : State :=
  let p := s.pkg node
  let piece (r : List HeldAccess × List Byte) (c : Word × Nat) : List HeldAccess × List Byte :=
    (r.1 ++ [⟨q.asid, false, none, c.1, c.2, some (r.2.take c.2), some qp, none⟩], r.2.drop c.2)
  let last : List HeldAccess := if msg.isEmpty then [] else [⟨q.asid, false, none, a, 0, none, some qp, some msg⟩]
  s.setPkg node { p with writes := p.writes ++ ((spanPieces a bs.length).foldl piece ([], bs)).1 ++ last }

/-- A completion word is written, where the entry names one that is aligned and of pod memory (log 126). -/
def writeWork (s : State) (q : QPair) (node qp : Nat) (caddr w : Word) : State :=
  if caddr = 0 || caddr.toNat % 8 != 0 || tagOf caddr != 0 then s else
  match engineWrite s q node qp caddr (leBytes 8 w.toNat) with
  | .ok s => s
  | .error (.wait _) => holdWrite s q node qp caddr (leBytes 8 w.toNat)
  | .error _ => s

/-- What is reserved in a work entry. -/
def workReserved (ws : List Word) : Bool :=
  let w0 := ws.getD 0 0
  let opc := (bits w0 0 8).toNat
  4 < opc || bits w0 9 23 != 0 || (ws.drop 5).any (· != 0)

/-- The engine takes the entry that a send queue is at: a reserved bit completes it with code 1; the local bytes of a WRITE or a SEND are
read, and the entry waits for the peer. An entry longer than 2^31 bytes or whose LADDR is of another tag, or a local read that fails,
completes it with an error code that the manual does not give (logs 5, 126). -/
def sendEntry (s : State) (node qp : Nat) : State :=
  let q := (s.pkg node).qpair qp
  let ag := q.agent node qp
  if (s.pkg node).ethernetOff || !q.en || tagOf q.base != 0 then s else
  match entryAt s ag q.base (2 ^ q.logns.toNat) with
  | .error st => engineStop s ag st
  | .ok (s, none) => s
  | .ok (s, some (a, rd, ws)) =>
    let w0 := ws.getD 0 0
    if bit w0 8 && !q.open_.isEmpty then s else
    let caddr := ws.getD 4 0
    let len := (bits (ws.getD 2 0) 0 32).toNat
    let take (s : State) : State := match engineWrite s q node qp a (leBytes 8 0) with
      | .ok s => match engineWrite s q node qp (q.base + 8) (leBytes 8 (rd + 1).toNat) with
        | .ok s => s
        | .error _ => s
      | .error _ => s
    let failed (s : State) (code : Nat) : State := writeWork (take s) q node qp caddr (workWord false code 0)
    if workReserved ws then failed s 1 else
    if 2 ^ 31 < len || tagOf (ws.getD 1 0) != 0 then
      let (c, s) := s.fresh
      failed s c.toNat
    else
    let local_ := if (bits w0 0 8).toNat = 3 then .ok [] else enginePieces s ag false (spanPieces (ws.getD 1 0) len)
    match local_ with
    | .error (.wait w) => engineStop s ag (.wait w)
    | .error st =>
      let (c, s) := (engineStop s ag st).fresh
      failed s c.toNat
    | .ok ps =>
      let s := ps.foldl (fun s p => engineRead s ag p.1 p.2.1 p.2.2) s
      let e : WorkEntry := { opc := bits w0 0 8, laddr := ws.getD 1 0, len := BitVec.ofNat 64 len, caddr := caddr }
      (take s).setQPair node qp { q with open_ := q.open_ ++ [e] }

/-- SEND_QUEUE_ENTRY (R428). -/
def execSendQueueEntry (node qp : Nat) (s : State) : Outcome State Fault Refusal := .next (sendEntry s node qp)

/-- n bytes that come from outside the pod (log 5). -/
def freshBytes (s : State) : Nat → List Byte × State
  | 0 => ([], s)
  | n + 1 =>
    let (w, s) := s.fresh
    let (bs, s) := freshBytes s n
    (bits w 0 8 :: bs, s)

/-- WORK_ENTRY_COMPLETION (R428): the peer has answered the oldest entry; the bytes of a READ are written, and then the completion
word. -/
def execWorkEntryCompletion (node qp : Nat) (ok : Bool) (code : BitVec 8) (bytes : Nat) (s : State) : Outcome State Fault Refusal :=
  let q := (s.pkg node).qpair qp
  if (s.pkg node).ethernetOff then .next s else
  match q.open_ with
  | [] => .next s
  | e :: rest =>
    let bytes := min bytes e.len.toNat
    let read : Except Stop State :=
      if e.opc = 3 && ok then
        let (bs, s) := freshBytes s bytes
        engineWrite s q node qp e.laddr bs
      else .ok s
    match read with
    | .error (.wait w) => .next (engineStop s (q.agent node qp) (.wait w))
    | .error st =>
      let (c, s) := (engineStop s (q.agent node qp) st).fresh
      .next (writeWork (s.setQPair node qp { q with open_ := rest }) q node qp e.caddr (workWord false c.toNat 0))
    | .ok s => .next (writeWork (s.setQPair node qp { q with open_ := rest }) q node qp e.caddr (workWord ok code.toNat bytes))

/-! ## Inbound (R429) -/

/-- Whether the memory-region table lets an access of a queue pair pass. -/
def regionAdmits (m : MemReg) (q : QPair) (rkey : BitVec 32) (addr : Word) (len : Nat) (wr : Bool) : Bool :=
  m.tag == bits rkey 12 20 && m.asid == q.asid && m.base.toNat ≤ addr.toNat && addr.toNat + len ≤ m.base.toNat + m.len.toNat
    && (if wr then m.wr else m.rd)

/-- RDMA_INBOUND (R429): an access that the table refuses is answered with an error and changes nothing; a write performs its bytes in
order, or is held with them behind the earlier writes of its queue pair. What its data holds beyond its length ends a message: the
immediate data of a WRITE_IMM, or the body of a SEND, whose place the manual does not give, with no length and so no region; it is delivered
once every byte before it has performed (log 126). -/
def execRdmaInbound (node qp : Nat) (rkey : BitVec 32) (addr : BitVec 64) (len : Nat) (wr : Bool) (data : List (BitVec 8)) (s : State) :
    Outcome State Fault Refusal :=
  let p := s.pkg node
  let q := p.qpair qp
  if p.ethernetOff then .next s else
  let msg := if wr then data.drop len else []
  let behind := p.writes.any (fun w => w.qp == some qp)
  if len = 0 && !msg.isEmpty then .next (if behind then holdWrite s q node qp addr [] msg else deliver s node qp msg) else
  match p.memregs.entry (bits rkey 0 12).toNat with
  | none => .next s
  | some m =>
    if !regionAdmits m q rkey addr len wr then .next s else
    if !wr then
      match enginePieces s (q.agent node qp) false (spanPieces addr len) with
      | .error st => .next (engineStop s (q.agent node qp) st)
      | .ok ps => .next (ps.foldl (fun s p => engineRead s (q.agent node qp) p.1 p.2.1 p.2.2) s)
    else if behind then .next (holdWrite s q node qp addr (data.take len) msg)
    else match engineWrite s q node qp addr (data.take len) with
      | .ok s => .next (deliver s node qp msg)
      | .error (.wait w) => .next (holdWrite (engineStop s (q.agent node qp) (.wait w)) q node qp addr (data.take len) msg)
      | .error st => .next (engineStop s (q.agent node qp) st)

end Sys2Proof.Machine
end

