-- ==== Sys2Proof/Machine/Devices.lean ====
section
/-! DEFINITION. What the devices do when it is their turn: one piece of the work that is open anywhere in the pod, the first that
changes something (log 2). An event on the agenda does any piece at any other time. -/

namespace Sys2Proof.Machine

open Host (Outcome)

/-- A piece of work. -/
abbrev Act := State → Outcome State Fault Refusal

/-- Work that always has a next state. -/
abbrev Act.of (f : State → State) : Act := fun s => .next (f s)

/-- The state without what a mere attempt changes: the free values used, the waits, the ages of candidates and the count of turns. -/
def State.lasting (s : State) : State :=
  let calm (t : Thread) : Thread := { t with stalled := false, wait := none }
  { s with
    free := 0, round := 0, th := calm s.th, parked := s.parked.map (fun p => (p.1, calm p.2))
    pkgs := s.pkgs.map (fun p => (p.1, { p.2 with ages := [], lastRun := Vector.replicate 4 0 })) }

/-- The first piece of work that changes something; the waiting threads try again after it. -/
def firstWork (s : State) : List Act → Outcome State Fault Refusal
  | [] => .next s
  | a :: r =>
    match a s with
    | .next s' => if s'.lasting = s.lasting then firstWork s r else .next s'.wake
    | .fault f => .fault f
    | .refused e => .refused e

/-- The work of a slot: its vector queue, its departure and its start. -/
def slotWork (s : State) (k : Nat) : List Act :=
  let t := s.thread k
  (if t.vq.isEmpty then [] else [fun s => stepQueue s k])
  ++ (if t.slot == .draining then [Act.of (finishExit · k), Act.of (finishDrain · k)] else [])
  ++ (if t.slot == .loading then [Act.of (startGroup · k)] else [])

/-- The work of a slot's operations in flight: its returned values and other elements, and the rows of its matrix pipe. -/
def flightWork (s : State) (k : Nat) : List Act :=
  let t := s.thread k
  (List.range t.pend.length).map (execElementComplete k) ++ (if t.rows.isEmpty then [] else [execMatrixStep k])

/-- The work of a package that has booted (17_package_system.md R396): accesses that are held, completed runs, queues, decisions, and send
queues. -/
def packageWork (node : Nat) (p : Package) : List Act :=
  if p.rescue || p.bootStep < 32 then [] else
  (List.range p.writes.length).map (fun i => Act.of (retryHeld · node i))
  ++ p.runs.map (fun r => Act.of (finishRun · node r.1))
  ++ p.queues.map (fun q => Act.of (serveQueue · node q.1))
  ++ [Act.of (decide_ · node)]
  ++ p.qpairs.map (fun q => Act.of (sendEntry · node q.1))

/-- The work of a cluster's sequencer. -/
def clusterWork (k : Nat) : List Act := [Act.of (startMacro · k), Act.of (stepMacro · k)]

/-- The work of a core's buffers. -/
def coreWork (k : Nat) (c : Core) : List Act :=
  (List.range c.wbuf.length).map (execWriteBufferSend k) ++ (List.range c.comb.length).map (execMergeAgeExpiry k)

/-- The work of a die: transfers, copies, captures, conversions, and page services. -/
def dieWork (k : Nat) (d : Die) : List Act :=
  (if d.unsent.isEmpty then [] else [Act.of (sendUnsent · k)])
  ++ (List.range d.notices.length).map (fun i => Act.of (landNotice · k i))
  ++ (List.range d.lineWrites.length).map (execLineWrite k)
  ++ (List.range d.contribs.length).map (fun i => Act.of (contribute · k i))
  ++ (List.range d.rows.length).map (fun i => Act.of (fanRow · k i))
  ++ (List.range d.copies.length).map (fun i => Act.of (progressCopy · k i 4096))
  ++ d.views.flatMap (fun v => [Act.of (finishCapture · k v.1), Act.of (startCapture · k v.1)])
  ++ d.relays.flatMap (fun r =>
    (List.range r.2.tiles.length).map (fun i => Act.of (finishConversion · k r.1 i)) ++ [Act.of (startConversion · k r.1)])
  ++ [Act.of (finishInval · k), Act.of (finishMigration · k)]

/-- The limits on waits. -/
def limitWork (s : State) : List Act :=
  s.slots.flatMap (fun k => if (s.thread k).slot == .running then [execFullEmptyTimeout k, execFabricTimeout k, execPhaseTimeout k] else [])
  ++ s.dies.flatMap (fun d =>
    d.2.combiners.flatMap (fun c => [execCombinerTimeout d.1 c.1, execColltoAnswerTimeout d.1 c.1, execCombinerSlotFree d.1 c.1])
    ++ (List.range d.2.fsreqs.length).map (fun i => execFaultServiceTimeout d.1 i))
  ++ (s.pkgs.filter (fun p => p.2.saved.any (·.untilPeriod) || (!p.2.runs.isEmpty && p.2.parts.any (fun q => q.2.inBudget != 0)))).map
    (fun p => Act.of (startPeriod · p.1))

/-- A list from a place of it on, and round again. -/
def rotate {α : Type} (n : Nat) (l : List α) : List α := l.drop (n % l.length) ++ l.take (n % l.length)

/-- All open work, in the order in which it is tried: each turn begins with another kind, after all kinds with another owner of each, and
after all owners with another piece of an owner's, so that work that always goes on holds up no other (16_package_scheduling.md R383). -/
def openWork (s : State) : List Act :=
  let from_ (l : List (List Act)) : List Act :=
    let r := s.round / 6
    (rotate r (l.map (rotate (r / max 1 l.length)))).flatten
  (rotate s.round
    [from_ (s.slots.map (slotWork s)), from_ (s.pkgs.map (fun p => packageWork p.1 p.2)), from_ (s.clusters.map (fun c => clusterWork c.1)),
      from_ (s.cores.map (fun c => coreWork c.1 c.2)), from_ (s.dies.map (fun d => dieWork d.1 d.2)), from_ (s.slots.map (flightWork s))]).flatten

/-- The devices' turn. The limits on waits run out only where no thread is ready. -/
def stepDevices (s : State) : Outcome State Fault Refusal :=
  firstWork { s with turn := false, round := s.round + 1 } (openWork s ++ if (nextThread s).isNone then limitWork s else [])

end Sys2Proof.Machine
end

