-- ==== Sys2Proof/Machine/Dispatch.lean ====
section
/-! DEFINITION. One arm per instruction: its meaning, or its rejection by name. -/

namespace Sys2Proof.Machine

/-- What an instruction does to a state. -/
def exec (i : Instr) (s : State) : Host.Outcome State Fault Refusal :=
  match i with
  | .add d a b => Sys2Proof.Machine.execAdd d a b s
  | .sub d a b => Sys2Proof.Machine.execSub d a b s
  | .and d a b => Sys2Proof.Machine.execAnd d a b s
  | .or d a b => Sys2Proof.Machine.execOr d a b s
  | .xor d a b => Sys2Proof.Machine.execXor d a b s
  | .andn d a b => Sys2Proof.Machine.execAndn d a b s
  | .shadd d a b c => Sys2Proof.Machine.execShadd d a b c s
  | .sll d a b => Sys2Proof.Machine.execSll d a b s
  | .srl d a b => Sys2Proof.Machine.execSrl d a b s
  | .sra d a b => Sys2Proof.Machine.execSra d a b s
  | .ror d a b => Sys2Proof.Machine.execRor d a b s
  | .clz d a => Sys2Proof.Machine.execClz d a s
  | .ctz d a => Sys2Proof.Machine.execCtz d a s
  | .popc d a => Sys2Proof.Machine.execPopc d a s
  | .bext d a b w => Sys2Proof.Machine.execBext d a b w s
  | .seq d a b => Sys2Proof.Machine.execSeq d a b s
  | .sne d a b => Sys2Proof.Machine.execSne d a b s
  | .slt d a b => Sys2Proof.Machine.execSlt d a b s
  | .sltn d a b => Sys2Proof.Machine.execSltn d a b s
  | .min d a b => Sys2Proof.Machine.execMin d a b s
  | .max d a b => Sys2Proof.Machine.execMax d a b s
  | .mul d a b => Sys2Proof.Machine.execMul d a b s
  | .mulh d a b => Sys2Proof.Machine.execMulh d a b s
  | .mulhn d a b => Sys2Proof.Machine.execMulhn d a b s
  | .div d a b => Sys2Proof.Machine.execDiv d a b s
  | .divn d a b => Sys2Proof.Machine.execDivn d a b s
  | .rem d a b => Sys2Proof.Machine.execRem d a b s
  | .remn d a b => Sys2Proof.Machine.execRemn d a b s
  | .madd d a b c => Sys2Proof.Machine.execMadd d a b c s
  | .addi d a im => Sys2Proof.Machine.execAddi d a im s
  | .andi d a im => Sys2Proof.Machine.execAndi d a im s
  | .ori d a im => Sys2Proof.Machine.execOri d a im s
  | .xori d a im => Sys2Proof.Machine.execXori d a im s
  | .shori d a im => Sys2Proof.Machine.execShori d a im s
  | .addpc d im => Sys2Proof.Machine.execAddpc d im s
  | .slli d a m => Sys2Proof.Machine.execSlli d a m s
  | .srli d a m => Sys2Proof.Machine.execSrli d a m s
  | .srai d a m => Sys2Proof.Machine.execSrai d a m s
  | .slti d a im => Sys2Proof.Machine.execSlti d a im s
  | .beqz a o => Sys2Proof.Machine.execBeqz a o s
  | .bnez a o => Sys2Proof.Machine.execBnez a o s
  | .bltz a o => Sys2Proof.Machine.execBltz a o s
  | .bgez a o => Sys2Proof.Machine.execBgez a o s
  | .bgtz a o => Sys2Proof.Machine.execBgtz a o s
  | .blez a o => Sys2Proof.Machine.execBlez a o s
  | .bempty o => Sys2Proof.Machine.execBempty o s
  | .jmp o => Sys2Proof.Machine.execJmp o s
  | .call o => Sys2Proof.Machine.execCall o s
  | .jr a => Sys2Proof.Machine.execJr a s
  | .callr d a => Sys2Proof.Machine.execCallr d a s
  | .jtab d a l => Sys2Proof.Machine.execJtab d a l s
  | .loop a l => Sys2Proof.Machine.execLoop a l s
  | .mfls d sb => Sys2Proof.Machine.execMfls d sb s
  | .mtls a sb => Sys2Proof.Machine.execMtls a sb s
  | .vadd d a b x w k sb => Sys2Proof.Machine.execVadd d a b x w k sb s
  | .vsub d a b x w k sb => Sys2Proof.Machine.execVsub d a b x w k sb s
  | .vrsub d a b x w k sb => Sys2Proof.Machine.execVrsub d a b x w k sb s
  | .vmin d a b x w k sb => Sys2Proof.Machine.execVmin d a b x w k sb s
  | .vmax d a b x w k sb => Sys2Proof.Machine.execVmax d a b x w k sb s
  | .vabs d a w k sb => Sys2Proof.Machine.execVabs d a w k sb s
  | .vabsd d a b x w k sb => Sys2Proof.Machine.execVabsd d a b x w k sb s
  | .vmov d b x w k sb => Sys2Proof.Machine.execVmov d b x w k sb s
  | .vmul d a b x w k sb => Sys2Proof.Machine.execVmul d a b x w k sb s
  | .vmulh d a b x w k sb => Sys2Proof.Machine.execVmulh d a b x w k sb s
  | .vmacc d a b x w k sb => Sys2Proof.Machine.execVmacc d a b x w k sb s
  | .vdot4 d a b x w k sb => Sys2Proof.Machine.execVdot4 d a b x w k sb s
  | .vdiv d a b x w k sb => Sys2Proof.Machine.execVdiv d a b x w k sb s
  | .vand d a b x k sb => Sys2Proof.Machine.execVand d a b x k sb s
  | .vor d a b x k sb => Sys2Proof.Machine.execVor d a b x k sb s
  | .vxor d a b x k sb => Sys2Proof.Machine.execVxor d a b x k sb s
  | .vandn d a b x k sb => Sys2Proof.Machine.execVandn d a b x k sb s
  | .vsll d a b x k sb => Sys2Proof.Machine.execVsll d a b x k sb s
  | .vsrl d a b x k sb => Sys2Proof.Machine.execVsrl d a b x k sb s
  | .vsra d a b x k sb => Sys2Proof.Machine.execVsra d a b x k sb s
  | .vpopc d a k sb => Sys2Proof.Machine.execVpopc d a k sb s
  | .vceq d a b x k sb => Sys2Proof.Machine.execVceq d a b x k sb s
  | .vcne d a b x k sb => Sys2Proof.Machine.execVcne d a b x k sb s
  | .vclt d a b x k sb => Sys2Proof.Machine.execVclt d a b x k sb s
  | .vcle d a b x k sb => Sys2Proof.Machine.execVcle d a b x k sb s
  | .vcgt d a b x k sb => Sys2Proof.Machine.execVcgt d a b x k sb s
  | .vcge d a b x k sb => Sys2Proof.Machine.execVcge d a b x k sb s
  | .vfadd d a b x w k => Sys2Proof.Machine.execVfadd d a b x w k s
  | .vfsub d a b x w k => Sys2Proof.Machine.execVfsub d a b x w k s
  | .vfmul d a b x w k => Sys2Proof.Machine.execVfmul d a b x w k s
  | .vfdiv d a b x w k => Sys2Proof.Machine.execVfdiv d a b x w k s
  | .vfsqrt d a w k => Sys2Proof.Machine.execVfsqrt d a w k s
  | .vfmin d a b x w k => Sys2Proof.Machine.execVfmin d a b x w k s
  | .vfmax d a b x w k => Sys2Proof.Machine.execVfmax d a b x w k s
  | .vfabs d a w k => Sys2Proof.Machine.execVfabs d a w k s
  | .vfneg d a w k => Sys2Proof.Machine.execVfneg d a w k s
  | .vfmacc d a b x w k => Sys2Proof.Machine.execVfmacc d a b x w k s
  | .vfnmacc d a b x w k => Sys2Proof.Machine.execVfnmacc d a b x w k s
  | .vfmadd d a b x w k => Sys2Proof.Machine.execVfmadd d a b x w k s
  | .vcvt d a e f k sb => Sys2Proof.Machine.execVcvt d a e f k sb s
  | .mpush a => Sys2Proof.Machine.execMpush a s
  | .minv => Sys2Proof.Machine.execMinv s
  | .mpop => Sys2Proof.Machine.execMpop s
  | .mand d a b k => Sys2Proof.Machine.execMand d a b k s
  | .mor d a b k => Sys2Proof.Machine.execMor d a b k s
  | .mxor d a b k => Sys2Proof.Machine.execMxor d a b k s
  | .mmov d a k => Sys2Proof.Machine.execMmov d a k s
  | .mcnt d a k => Sys2Proof.Machine.execMcnt d a k s
  | .many d a k => Sys2Proof.Machine.execMany d a k s
  | .mfirst d a k => Sys2Proof.Machine.execMfirst d a k s
  | .vslideup d a b k => Sys2Proof.Machine.execVslideup d a b k s
  | .vslidedn d a b k => Sys2Proof.Machine.execVslidedn d a b k s
  | .vslide1up d a b k => Sys2Proof.Machine.execVslide1up d a b k s
  | .vslide1dn d a b k => Sys2Proof.Machine.execVslide1dn d a b k s
  | .vperm d a b k => Sys2Proof.Machine.execVperm d a b k s
  | .vcompress d a b k => Sys2Proof.Machine.execVcompress d a b k s
  | .vbcast d a b k => Sys2Proof.Machine.execVbcast d a b k s
  | .vmvxs d a sb => Sys2Proof.Machine.execVmvxs d a sb s
  | .vmvsx d a k => Sys2Proof.Machine.execVmvsx d a k s
  | .vrsum d a k sb => Sys2Proof.Machine.execVrsum d a k sb s
  | .vrmin d a k sb => Sys2Proof.Machine.execVrmin d a k sb s
  | .vrmax d a k sb => Sys2Proof.Machine.execVrmax d a k sb s
  | .vrmini d a k sb => Sys2Proof.Machine.execVrmini d a k sb s
  | .vrmaxi d a k sb => Sys2Proof.Machine.execVrmaxi d a k sb s
  | .vscan d a k sb => Sys2Proof.Machine.execVscan d a k sb s
  | .vscanx d a k sb => Sys2Proof.Machine.execVscanx d a k sb s
  | .vsegsum d a b k sb => Sys2Proof.Machine.execVsegsum d a b k sb s
  | .vsegmin d a b k sb => Sys2Proof.Machine.execVsegmin d a b k sb s
  | .vsegmax d a b k sb => Sys2Proof.Machine.execVsegmax d a b k sb s
  | .vsegscan d a b k sb => Sys2Proof.Machine.execVsegscan d a b k sb s
  | .vmerge d a b sb => Sys2Proof.Machine.execVmerge d a b sb s
  | .vtopk d a b sb => Sys2Proof.Machine.execVtopk d a b sb s
  | .vmrgk d a b sb => Sys2Proof.Machine.execVmrgk d a b sb s
  | .vsortstep d a b sb => Sys2Proof.Machine.execVsortstep d a b sb s
  | .vbmax a w k => Sys2Proof.Machine.execVbmax a w k s
  | .vscale d a w k => Sys2Proof.Machine.execVscale d a w k s
  | .vquant d a w k => Sys2Proof.Machine.execVquant d a w k s
  | .vdeq d a w k => Sys2Proof.Machine.execVdeq d a w k s
  | .vsfma d a b w k => Sys2Proof.Machine.execVsfma d a b w k s
  | .vseti d a t => Sys2Proof.Machine.execVseti d a t s
  | .vsetvl d a => Sys2Proof.Machine.execVsetvl d a s
  | .vsett d a => Sys2Proof.Machine.execVsett d a s
  | .vshape a => Sys2Proof.Machine.execVshape a s
  | .vshapei c => Sys2Proof.Machine.execVshapei c s
  | .lds8 t b im sb e => Sys2Proof.Machine.execLds8 t b im sb e s
  | .ldn8 t b im sb e => Sys2Proof.Machine.execLdn8 t b im sb e s
  | .lds16 t b im sb e => Sys2Proof.Machine.execLds16 t b im sb e s
  | .ldn16 t b im sb e => Sys2Proof.Machine.execLdn16 t b im sb e s
  | .lds32 t b im sb e => Sys2Proof.Machine.execLds32 t b im sb e s
  | .ldn32 t b im sb e => Sys2Proof.Machine.execLdn32 t b im sb e s
  | .ld64 t b im sb e => Sys2Proof.Machine.execLd64 t b im sb e s
  | .st8 t b im sb e n => Sys2Proof.Machine.execSt8 t b im sb e n s
  | .st16 t b im sb e n => Sys2Proof.Machine.execSt16 t b im sb e n s
  | .st32 t b im sb e n => Sys2Proof.Machine.execSt32 t b im sb e n s
  | .st64 t b im sb e n => Sys2Proof.Machine.execSt64 t b im sb e n s
  | .saadd t b im sb e => Sys2Proof.Machine.execSaadd t b im sb e s
  | .samax t b im sb e => Sys2Proof.Machine.execSamax t b im sb e s
  | .saswap t b im sb e => Sys2Proof.Machine.execSaswap t b im sb e s
  | .sacas t b im sb e => Sys2Proof.Machine.execSacas t b im sb e s
  | .vld t b sb e k n => Sys2Proof.Machine.execVld t b sb e k n s
  | .vlds t b im sb e k n => Sys2Proof.Machine.execVlds t b im sb e k n s
  | .vld2d t b im sb e k n => Sys2Proof.Machine.execVld2d t b im sb e k n s
  | .vst t b sb e k n => Sys2Proof.Machine.execVst t b sb e k n s
  | .vsts t b im sb e k n => Sys2Proof.Machine.execVsts t b im sb e k n s
  | .vst2d t b im sb e k n => Sys2Proof.Machine.execVst2d t b im sb e k n s
  | .vgath t b im sb e k n => Sys2Proof.Machine.execVgath t b im sb e k n s
  | .vgatha t im sb e k n => Sys2Proof.Machine.execVgatha t im sb e k n s
  | .vgathf t b im sb e k n => Sys2Proof.Machine.execVgathf t b im sb e k n s
  | .vscat t b im sb e k n => Sys2Proof.Machine.execVscat t b im sb e k n s
  | .vscata t im sb e k n => Sys2Proof.Machine.execVscata t im sb e k n s
  | .vscatf t b im sb e k n => Sys2Proof.Machine.execVscatf t b im sb e k n s
  | .vaadd t b im sb e k n => Sys2Proof.Machine.execVaadd t b im sb e k n s
  | .vamin t b im sb e k n => Sys2Proof.Machine.execVamin t b im sb e k n s
  | .vamax t b im sb e k n => Sys2Proof.Machine.execVamax t b im sb e k n s
  | .vaor t b im sb e k n => Sys2Proof.Machine.execVaor t b im sb e k n s
  | .vaswap t b im sb e k n => Sys2Proof.Machine.execVaswap t b im sb e k n s
  | .vacas t b im sb e k n => Sys2Proof.Machine.execVacas t b im sb e k n s
  | .vcadd t b im sb e k n => Sys2Proof.Machine.execVcadd t b im sb e k n s
  | .vcmin t b im sb e k n => Sys2Proof.Machine.execVcmin t b im sb e k n s
  | .vcmax t b im sb e k n => Sys2Proof.Machine.execVcmax t b im sb e k n s
  | .vcfadd t b im sb e k n => Sys2Proof.Machine.execVcfadd t b im sb e k n s
  | .vcfmax t b im sb e k n => Sys2Proof.Machine.execVcfmax t b im sb e k n s
  | .hld t b sb e => Sys2Proof.Machine.execHld t b sb e s
  | .hst t b sb e => Sys2Proof.Machine.execHst t b sb e s
  | .cld t b im sb e k n => Sys2Proof.Machine.execCld t b im sb e k n s
  | .cst t b im sb e k n => Sys2Proof.Machine.execCst t b im sb e k n s
  | .hget t b im => Sys2Proof.Machine.execHget t b im s
  | .hset t b im => Sys2Proof.Machine.execHset t b im s
  | .fbind t b im => Sys2Proof.Machine.execFbind t b im s
  | .fpop t b sb e k n => Sys2Proof.Machine.execFpop t b sb e k n s
  | .ftrim t b => Sys2Proof.Machine.execFtrim t b s
  | .ffree t => Sys2Proof.Machine.execFfree t s
  | .pld t b sb e k n => Sys2Proof.Machine.execPld t b sb e k n s
  | .pst t b sb e k n => Sys2Proof.Machine.execPst t b sb e k n s
  | .pldx t b im sb e k n => Sys2Proof.Machine.execPldx t b im sb e k n s
  | .pstx t b im sb e k n => Sys2Proof.Machine.execPstx t b im sb e k n s
  | .waitc b sb => Sys2Proof.Machine.execWaitc b sb s
  | .mfic t sb => Sys2Proof.Machine.execMfic t sb s
  | .mfcc t sb => Sys2Proof.Machine.execMfcc t sb s
  | .mfe t e => Sys2Proof.Machine.execMfe t e s
  | .mte b e => Sys2Proof.Machine.execMte b e s
  | .mtss b sb => Sys2Proof.Machine.execMtss b sb s
  | .viewreg d a b => Sys2Proof.Machine.execViewreg d a b s
  | .viewdrop a => Sys2Proof.Machine.execViewdrop a s
  | .viewq d a b => Sys2Proof.Machine.execViewq d a b s
  | .viewsync a f => Sys2Proof.Machine.execViewsync a f s
  | .relayout d a => Sys2Proof.Machine.execRelayout d a s
  | .sealOp a b => Sys2Proof.Machine.execSealOp a b s
  | .unsealOp a b => Sys2Proof.Machine.execUnsealOp a b s
  | .dormer d a b => Sys2Proof.Machine.execDormer d a b s
  | .dormrel a => Sys2Proof.Machine.execDormrel a s
  | .tldp d a b p => Sys2Proof.Machine.execTldp d a b p s
  | .tldl d a b p => Sys2Proof.Machine.execTldl d a b p s
  | .mrow d a c p => Sys2Proof.Machine.execMrow d a c p s
  | .mrowz d a c p => Sys2Proof.Machine.execMrowz d a c p s
  | .accrd d b c => Sys2Proof.Machine.execAccrd d b c s
  | .accwr a c => Sys2Proof.Machine.execAccwr a c s
  | .accclr c => Sys2Proof.Machine.execAccclr c s
  | .tfree d => Sys2Proof.Machine.execTfree d s
  | .gang => Sys2Proof.Machine.execGang s
  | .ungang => Sys2Proof.Machine.execUngang s
  | .evcfg a t => Sys2Proof.Machine.execEvcfg a t s
  | .evpulse sb => Sys2Proof.Machine.execEvpulse sb s
  | .evwait d c => Sys2Proof.Machine.execEvwait d c s
  | .macroOp a => Sys2Proof.Machine.execMacroOp a s
  | .ldw t b sb e k n => Sys2Proof.Machine.execLdw t b sb e k n s
  | .ldc t b sb e k n => Sys2Proof.Machine.execLdc t b sb e k n s
  | .stfl t b sb e k n => Sys2Proof.Machine.execStfl t b sb e k n s
  | .lclr b im sb e n => Sys2Proof.Machine.execLclr b im sb e n s
  | .copy t b im sb e n => Sys2Proof.Machine.execCopy t b im sb e n s
  | .phase => Sys2Proof.Machine.execPhase s
  | .leadset l => Sys2Proof.Machine.execLeadset l s
  | .tsend t b im sb e k n => Sys2Proof.Machine.execTsend t b im sb e k n s
  | .coll t b im sb e n => Sys2Proof.Machine.execColl t b im sb e n s
  | .collq t => Sys2Proof.Machine.execCollq t s
  | .run d a => Sys2Proof.Machine.execRun d a s
  | .grow d a => Sys2Proof.Machine.execGrow d a s
  | .exit => Sys2Proof.Machine.execExit s
  | .trap c => Sys2Proof.Machine.execTrap c s
  | .eret => Sys2Proof.Machine.execEret s
  | .mfs d r => Sys2Proof.Machine.execMfs d r s
  | .mts a r => Sys2Proof.Machine.execMts a r s
  | .yield => Sys2Proof.Machine.execYield s
  | .erd d sb => Sys2Proof.Machine.execErd d sb s
  | .vectorDispatch slot => Sys2Proof.Machine.execVectorDispatch slot s
  | .granuleLanding slot => Sys2Proof.Machine.execGranuleLanding slot s
  | .vectorCommit slot => Sys2Proof.Machine.execVectorCommit slot s
  | .scalarCommit slot => Sys2Proof.Machine.execScalarCommit slot s
  | .streamExhaustionEnd slot sn => Sys2Proof.Machine.execStreamExhaustionEnd slot sn s
  | .elementComplete slot idx => Sys2Proof.Machine.execElementComplete slot idx s
  | .returnedValue slot idx => Sys2Proof.Machine.execReturnedValue slot idx s
  | .checkRequest slot addr size wr data => Sys2Proof.Machine.execCheckRequest slot addr size wr data s
  | .writeBufferSend core idx => Sys2Proof.Machine.execWriteBufferSend core idx s
  | .lineWrite die idx => Sys2Proof.Machine.execLineWrite die idx s
  | .mergeAgeExpiry core idx => Sys2Proof.Machine.execMergeAgeExpiry core idx s
  | .waitcSatisfied slot => Sys2Proof.Machine.execWaitcSatisfied slot s
  | .evwaitSatisfied slot => Sys2Proof.Machine.execEvwaitSatisfied slot s
  | .larderGranuleAction slot => Sys2Proof.Machine.execLarderGranuleAction slot s
  | .fullEmptyTimeout slot => Sys2Proof.Machine.execFullEmptyTimeout slot s
  | .phaseRelease slot => Sys2Proof.Machine.execPhaseRelease slot s
  | .phaseTimeout slot => Sys2Proof.Machine.execPhaseTimeout slot s
  | .macroStart cluster => Sys2Proof.Machine.execMacroStart cluster s
  | .macroStep cluster => Sys2Proof.Machine.execMacroStep cluster s
  | .copyComplete slot opid => Sys2Proof.Machine.execCopyComplete slot opid s
  | .matrixStep slot => Sys2Proof.Machine.execMatrixStep slot s
  | .trapTaken slot cause val => Sys2Proof.Machine.execTrapTaken slot cause val s
  | .asyncReport slot cause val sn pc elem => Sys2Proof.Machine.execAsyncReport slot cause val sn pc elem s
  | .asyncReportTrap slot => Sys2Proof.Machine.execAsyncReportTrap slot s
  | .preemptionRequest slot => Sys2Proof.Machine.execPreemptionRequest slot s
  | .preemption slot => Sys2Proof.Machine.execPreemption slot s
  | .contextSave slot => Sys2Proof.Machine.execContextSave slot s
  | .contextRestore slot idx => Sys2Proof.Machine.execContextRestore slot idx s
  | .pantryScrub core => Sys2Proof.Machine.execPantryScrub core s
  | .coreWithdrawal core => Sys2Proof.Machine.execCoreWithdrawal core s
  | .tileStateQuery core die rec tile => Sys2Proof.Machine.execTileStateQuery core die rec tile s
  | .tileConversionStart die rec => Sys2Proof.Machine.execTileConversionStart die rec s
  | .tileConverted die rec tile => Sys2Proof.Machine.execTileConverted die rec tile s
  | .conversionAbandon die rec tile => Sys2Proof.Machine.execConversionAbandon die rec tile s
  | .relayoutSettled slot => Sys2Proof.Machine.execRelayoutSettled slot s
  | .viewCapture die view => Sys2Proof.Machine.execViewCapture die view s
  | .viewCaptureEnd die view => Sys2Proof.Machine.execViewCaptureEnd die view s
  | .stallReadRelease slot => Sys2Proof.Machine.execStallReadRelease slot s
  | .unsealComplete slot => Sys2Proof.Machine.execUnsealComplete slot s
  | .dormerDead die idx => Sys2Proof.Machine.execDormerDead die idx s
  | .registrationRelease die idx => Sys2Proof.Machine.execRegistrationRelease die idx s
  | .faultServiceTimeout die idx => Sys2Proof.Machine.execFaultServiceTimeout die idx s
  | .fsreqRead die => Sys2Proof.Machine.execFsreqRead die s
  | .fsansRetry die v => Sys2Proof.Machine.execFsansRetry die v s
  | .fsansRefuse die v => Sys2Proof.Machine.execFsansRefuse die v s
  | .invalidation die => Sys2Proof.Machine.execInvalidation die s
  | .invalidationComplete die => Sys2Proof.Machine.execInvalidationComplete die s
  | .migration die => Sys2Proof.Machine.execMigration die s
  | .migrationComplete die => Sys2Proof.Machine.execMigrationComplete die s
  | .prefetchFill die evict => Sys2Proof.Machine.execPrefetchFill die evict s
  | .rlctlResume die rec => Sys2Proof.Machine.execRlctlResume die rec s
  | .evctlClear cluster => Sys2Proof.Machine.execEvctlClear cluster s
  | .icinv core asid all => Sys2Proof.Machine.execIcinv core asid all s
  | .distributorDecision node => Sys2Proof.Machine.execDistributorDecision node s
  | .groupStart slot => Sys2Proof.Machine.execGroupStart slot s
  | .preloadPromotion core => Sys2Proof.Machine.execPreloadPromotion core s
  | .exitTakesEffect slot => Sys2Proof.Machine.execExitTakesEffect slot s
  | .groupFault node cause val run stage index => Sys2Proof.Machine.execGroupFault node cause val run stage index s
  | .energyOverrun slot used => Sys2Proof.Machine.execEnergyOverrun slot used s
  | .runEntryFree slot => Sys2Proof.Machine.execRunEntryFree slot s
  | .runComplete node run => Sys2Proof.Machine.execRunComplete node run s
  | .runPacket node queue => Sys2Proof.Machine.execRunPacket node queue s
  | .copyPacket node queue => Sys2Proof.Machine.execCopyPacket node queue s
  | .resumePacket node queue => Sys2Proof.Machine.execResumePacket node queue s
  | .budgetPeriodStart node => Sys2Proof.Machine.execBudgetPeriodStart node s
  | .budgetTick node part used => Sys2Proof.Machine.execBudgetTick node part used s
  | .lightReclaim node port berHigh => Sys2Proof.Machine.execLightReclaim node port berHigh s
  | .clpartWrite node idx v => Sys2Proof.Machine.execClpartWrite node idx v s
  | .asidmapWrite node idx v => Sys2Proof.Machine.execAsidmapWrite node idx v s
  | .pbudWrite node idx v => Sys2Proof.Machine.execPbudWrite node idx v s
  | .hans node v => Sys2Proof.Machine.execHans node v s
  | .bootStep node pass code => Sys2Proof.Machine.execBootStep node pass code s
  | .bootctlGo node step => Sys2Proof.Machine.execBootctlGo node step s
  | .bootctlSkip node step => Sys2Proof.Machine.execBootctlSkip node step s
  | .reset node => Sys2Proof.Machine.execReset node s
  | .standbyPowerLoss node => Sys2Proof.Machine.execStandbyPowerLoss node s
  | .srselWrite node v => Sys2Proof.Machine.execSrselWrite node v s
  | .srdataRead node => Sys2Proof.Machine.execSrdataRead node s
  | .attestation node => Sys2Proof.Machine.execAttestation node s
  | .fitiaRequest node req addr size wr data => Sys2Proof.Machine.execFitiaRequest node req addr size wr data s
  | .routeCommit node => Sys2Proof.Machine.execRouteCommit node s
  | .planeDrain node bits => Sys2Proof.Machine.execPlaneDrain node bits s
  | .planeEnable node bits => Sys2Proof.Machine.execPlaneEnable node bits s
  | .planeIdle node plane => Sys2Proof.Machine.execPlaneIdle node plane s
  | .portStateChange node port st => Sys2Proof.Machine.execPortStateChange node port st s
  | .flitReceive die flit crcOk => Sys2Proof.Machine.execFlitReceive die flit crcOk s
  | .replayRequest die src => Sys2Proof.Machine.execReplayRequest die src s
  | .replay die dst seq => Sys2Proof.Machine.execReplay die dst seq s
  | .notice die idx => Sys2Proof.Machine.execNotice die idx s
  | .fabricTimeout slot => Sys2Proof.Machine.execFabricTimeout slot s
  | .contribution die idx => Sys2Proof.Machine.execContribution die idx s
  | .combinerTimeout die idx => Sys2Proof.Machine.execCombinerTimeout die idx s
  | .colltoAnswerTimeout die idx => Sys2Proof.Machine.execColltoAnswerTimeout die idx s
  | .cbansExtend die idx tag => Sys2Proof.Machine.execCbansExtend die idx tag s
  | .cbansPartial die idx tag => Sys2Proof.Machine.execCbansPartial die idx tag s
  | .combinerSlotFree die idx => Sys2Proof.Machine.execCombinerSlotFree die idx s
  | .collComplete slot => Sys2Proof.Machine.execCollComplete slot s
  | .tokenRowFanout die idx => Sys2Proof.Machine.execTokenRowFanout die idx s
  | .sendQueueEntry node qp => Sys2Proof.Machine.execSendQueueEntry node qp s
  | .rdmaInbound node qp rkey addr len wr data => Sys2Proof.Machine.execRdmaInbound node qp rkey addr len wr data s
  | .registerWrite addr v => Sys2Proof.Machine.execRegisterWrite addr v s
  | .standbyPowerOn node => Sys2Proof.Machine.execStandbyPowerOn node s
  | .hrctlWrite node v => Sys2Proof.Machine.execHrctlWrite node v s
  | .quoteReady node => Sys2Proof.Machine.execQuoteReady node s
  | .reservedPacket node queue => Sys2Proof.Machine.execReservedPacket node queue s
  | .workEntryCompletion node qp ok code bytes => Sys2Proof.Machine.execWorkEntryCompletion node qp ok code bytes s
  | .errorMonitorRequest node port => Sys2Proof.Machine.execErrorMonitorRequest node port s

end Sys2Proof.Machine
end

