-- ==== Sys2Proof/Machine/Step.lean ====
section
/-! DEFINITION. One step of the pod: the event on the agenda, or what is due: a boot step, the devices' turn, or the instruction at
a thread's pc. -/

namespace Sys2Proof.Machine

/-- The outcome of a step with what follows it. -/
def thenDo (f : State → State) (o : Host.Outcome State Fault Refusal) : Host.Outcome State Fault Refusal :=
  match o with
  | .next s => .next (f s)
  | .fault r => .fault r
  | .refused r => .refused r

/-- The thread that runs issues the instruction at its pc. -/
def issueThread (s : State) : Host.Outcome State Fault Refusal :=
  let s := cacheCode s
  match fetch s with
  | .ok i => if s.th.gv && !takesGranule i then .next (trapResume s) else exec i s
  | .error e => .next (trapAt s e.1 e.2 none)

/-- The oldest faulting point of the thread that runs is tried: the next granule of its queue, or the instruction that it is at. -/
def tryPoint (s : State) : Host.Outcome State Fault Refusal :=
  match s.th.front with
  | [] => issueThread { s with th := { s.th with window := 0 } }
  | _ :: _ => landGranule (dispatchHead s s.cur) s.cur

/-- Whether the thread that runs takes a synchronous fault at its landing point (11_traps.md R255): a trial with traps inhibited ends the
group with cause 0x7F just where the instruction traps. -/
def faultsHere (s : State) : Bool :=
  match tryPoint { s with th := { s.th with inh := true } } with
  | .next t => (t.thread s.cur).drain == some (.ended (some 0x7F))
  | _ => false

/-- The slot at which an event lands a trap that no instruction raises, where it does: a pre-emption or a report that is due. -/
def landsFor (i : Instr) (s : State) : Option Nat :=
  let at_ (slot : Nat) (due : Thread → Bool) : Option Nat :=
    let t := s.thread (s.lower slot)
    if t.slot == .running && !t.inh && due t then some (s.lower slot) else none
  match i with
  | .preemption k => at_ k (·.ppend)
  | .asyncReportTrap k => at_ k (fun t => !t.reports.isEmpty)
  | _ => none

/-- An event: a trap that it lands gives way to a synchronous fault at the same landing point, which is taken instead, the request staying
pending (11_traps.md R255). -/
def runEvent (i : Instr) (s : State) : Host.Outcome State Fault Refusal :=
  match landsFor i s with
  | none => exec i s
  | some k =>
    let f := s.focus k
    if canLand f && faultsHere f then thenDo (fun t => syncUpper (t.focus s.cur) k) (tryPoint f) else exec i s

/-- The thread that runs, in its turn: what lands at it, unless a synchronous fault stands at the same landing point, which goes first
(11_traps.md R255); the page that its queue waits for, a full commit window, or its next instruction. -/
def stepThread (s : State) : Host.Outcome State Fault Refusal :=
  match landNow s with
  | some t => if faultsHere s then tryPoint s else .next t
  | none =>
    match s.th.vq, s.th.wait with
    | [], _ => issueThread { s with th := { s.th with window := 0 } }
    | _ :: _, some (.service _ _) => if s.th.front.isEmpty then issueThread s else stepQueue s s.cur
    | _ :: _, _ => if 128 ≤ s.th.waiting then .next (s.enterWait .queue none) else issueThread s

/-- What happens next when no event is on the agenda. -/
def stepDue (s : State) : Host.Outcome State Fault Refusal :=
  match due s with
  | .boot n => .next (bootStep s n true 0)
  | .devices => stepDevices s
  | .thread k => thenDo afterThread (stepThread (s.focus k))

/-- One step: an event whose time has come, or what is due; the crossbars count what it pulsed (12_cluster.md R286). -/
def step (s : State) : Host.Outcome State Fault Refusal :=
  thenDo tickCrossbars (match s.agenda with
    | (0, i) :: r => thenDo State.wake (runEvent i { s with agenda := r })
    | (n + 1, i) :: r => stepDue { s with agenda := (n, i) :: r }
    | [] => stepDue s)

/-- The state with one instruction word where step fetches next, and with all that its being fetched takes (log 11): every
package has booted, the slot in focus runs a thread with nothing pending and no other is ready, its pc is a multiple of 4, and it lies
in a page of code space that is mapped for it. -/
def State.withFetchWord (s : State) (nbits w : Nat) : State :=
  let t := { s.th with
    slot := .running, gangHigh := false, stalled := false, wait := none, drain := none, gsuf := 0, gv := false, vq := [], window := 0
    reports := [], ppend := false, overrun := false, pc := s.th.pc &&& ~~~3#64 }
  let page : CodePage := ⟨s.nodeKey, t.asid, none, t.pc.toNat / 4096, 0, false⟩
  { s with
    th := t
    parked := s.parked.map (fun p => (p.1, { p.2 with stalled := true }))
    agenda := []
    turn := false
    cores := s.cores.map (fun c => if c.1 = s.coreKey then (c.1, { c.2 with dead := false, icache := [] }) else c)
    pkgs := s.pkgs.map (fun p => (p.1, { p.2 with bootStep := 32 }))
    code := page :: s.code
    mem := memPut s.mem (t.pc.toNat % 4096) (wordBytes (BitVec.ofNat 32 (w % 2 ^ nbits))) }

end Sys2Proof.Machine
end

