-- ==== Sys2Proof/Laws/PerInstr.lean ====
section
/-! SUPPORT. The round trip of the encoding, one lemma per constructor: decoding an encoded well-formed instruction gives it
back (02_encoding.md R46-R59). The lemmas about the formats come first; each instruction cites them. -/

set_option Elab.async false
set_option linter.all false

namespace Sys2Proof.Laws

theorem field_hi {n m : Nat} (x : BitVec n) (y : BitVec m) (k l : Nat) (h : m ≤ k) :
    (x ++ y).extractLsb' k l = x.extractLsb' (k - m) l := BitVec.extractLsb'_append_eq_of_le h

theorem field_lo {n m : Nat} (x : BitVec n) (y : BitVec m) (k l : Nat) (h : k + l ≤ m) :
    (x ++ y).extractLsb' k l = y.extractLsb' k l := BitVec.extractLsb'_append_eq_of_add_le h

@[simp] theorem fb1_bb (b : Bool) : fb1 (bb b) = b := by cases b <;> first | assumption | rfl

theorem reserve_true (i : Instr) : reserve true i = .ok i := rfl

@[simp] theorem mkA_major (p : BitVec 6) (d : BitVec 5) (a : BitVec 5) (b : BitVec 5) (x : BitVec 5) (f : BitVec 6) : major (mkA p d a b x f) = p := by
  change BitVec.extractLsb' (n := 6 + (5 + (5 + (5 + (5 + 6))))) _ _ _ = _
  unfold mkA; repeat (first | rw [field_hi _ _ _ _ (by decide)] | rw [field_lo _ _ _ _ (by decide)])
  exact BitVec.extractLsb'_eq_self

@[simp] theorem mkA_fd (p : BitVec 6) (d : BitVec 5) (a : BitVec 5) (b : BitVec 5) (x : BitVec 5) (f : BitVec 6) : fd (mkA p d a b x f) = d := by
  change BitVec.extractLsb' (n := 6 + (5 + (5 + (5 + (5 + 6))))) _ _ _ = _
  unfold mkA; repeat (first | rw [field_hi _ _ _ _ (by decide)] | rw [field_lo _ _ _ _ (by decide)])
  exact BitVec.extractLsb'_eq_self

@[simp] theorem mkA_fa (p : BitVec 6) (d : BitVec 5) (a : BitVec 5) (b : BitVec 5) (x : BitVec 5) (f : BitVec 6) : fa (mkA p d a b x f) = a := by
  change BitVec.extractLsb' (n := 6 + (5 + (5 + (5 + (5 + 6))))) _ _ _ = _
  unfold mkA; repeat (first | rw [field_hi _ _ _ _ (by decide)] | rw [field_lo _ _ _ _ (by decide)])
  exact BitVec.extractLsb'_eq_self

@[simp] theorem mkA_fb (p : BitVec 6) (d : BitVec 5) (a : BitVec 5) (b : BitVec 5) (x : BitVec 5) (f : BitVec 6) : fb (mkA p d a b x f) = b := by
  change BitVec.extractLsb' (n := 6 + (5 + (5 + (5 + (5 + 6))))) _ _ _ = _
  unfold mkA; repeat (first | rw [field_hi _ _ _ _ (by decide)] | rw [field_lo _ _ _ _ (by decide)])
  exact BitVec.extractLsb'_eq_self

@[simp] theorem mkA_aux (p : BitVec 6) (d : BitVec 5) (a : BitVec 5) (b : BitVec 5) (x : BitVec 5) (f : BitVec 6) : aux (mkA p d a b x f) = x := by
  change BitVec.extractLsb' (n := 6 + (5 + (5 + (5 + (5 + 6))))) _ _ _ = _
  unfold mkA; repeat (first | rw [field_hi _ _ _ _ (by decide)] | rw [field_lo _ _ _ _ (by decide)])
  exact BitVec.extractLsb'_eq_self

@[simp] theorem mkA_fn (p : BitVec 6) (d : BitVec 5) (a : BitVec 5) (b : BitVec 5) (x : BitVec 5) (f : BitVec 6) : fn (mkA p d a b x f) = f := by
  change BitVec.extractLsb' (n := 6 + (5 + (5 + (5 + (5 + 6))))) _ _ _ = _
  unfold mkA; repeat (first | rw [field_hi _ _ _ _ (by decide)] | rw [field_lo _ _ _ _ (by decide)])
  exact BitVec.extractLsb'_eq_self

@[simp] theorem mkI_major (p : BitVec 6) (d : BitVec 5) (a : BitVec 5) (i : BitVec 16) : major (mkI p d a i) = p := by
  change BitVec.extractLsb' (n := 6 + (5 + (5 + 16))) _ _ _ = _
  unfold mkI; repeat (first | rw [field_hi _ _ _ _ (by decide)] | rw [field_lo _ _ _ _ (by decide)])
  exact BitVec.extractLsb'_eq_self

@[simp] theorem mkI_fd (p : BitVec 6) (d : BitVec 5) (a : BitVec 5) (i : BitVec 16) : fd (mkI p d a i) = d := by
  change BitVec.extractLsb' (n := 6 + (5 + (5 + 16))) _ _ _ = _
  unfold mkI; repeat (first | rw [field_hi _ _ _ _ (by decide)] | rw [field_lo _ _ _ _ (by decide)])
  exact BitVec.extractLsb'_eq_self

@[simp] theorem mkI_fa (p : BitVec 6) (d : BitVec 5) (a : BitVec 5) (i : BitVec 16) : fa (mkI p d a i) = a := by
  change BitVec.extractLsb' (n := 6 + (5 + (5 + 16))) _ _ _ = _
  unfold mkI; repeat (first | rw [field_hi _ _ _ _ (by decide)] | rw [field_lo _ _ _ _ (by decide)])
  exact BitVec.extractLsb'_eq_self

@[simp] theorem mkI_imm16 (p : BitVec 6) (d : BitVec 5) (a : BitVec 5) (i : BitVec 16) : imm16 (mkI p d a i) = i := by
  change BitVec.extractLsb' (n := 6 + (5 + (5 + 16))) _ _ _ = _
  unfold mkI; repeat (first | rw [field_hi _ _ _ _ (by decide)] | rw [field_lo _ _ _ _ (by decide)])
  exact BitVec.extractLsb'_eq_self

@[simp] theorem mkJ_major (p : BitVec 6) (o : BitVec 26) : major (mkJ p o) = p := by
  change BitVec.extractLsb' (n := 6 + 26) _ _ _ = _
  unfold mkJ; repeat (first | rw [field_hi _ _ _ _ (by decide)] | rw [field_lo _ _ _ _ (by decide)])
  exact BitVec.extractLsb'_eq_self

@[simp] theorem mkJ_off26 (p : BitVec 6) (o : BitVec 26) : off26 (mkJ p o) = o := by
  change BitVec.extractLsb' (n := 6 + 26) _ _ _ = _
  unfold mkJ; repeat (first | rw [field_hi _ _ _ _ (by decide)] | rw [field_lo _ _ _ _ (by decide)])
  exact BitVec.extractLsb'_eq_self

@[simp] theorem mkV_major (p : BitVec 6) (d : BitVec 5) (a : BitVec 5) (b : BitVec 5) (f : BitVec 7) (w : BitVec 2) (k : BitVec 1) (s : BitVec 1) : major (mkV p d a b f w k s) = p := by
  change BitVec.extractLsb' (n := 6 + (5 + (5 + (5 + (7 + (2 + (1 + 1))))))) _ _ _ = _
  unfold mkV; repeat (first | rw [field_hi _ _ _ _ (by decide)] | rw [field_lo _ _ _ _ (by decide)])
  exact BitVec.extractLsb'_eq_self

@[simp] theorem mkV_fd (p : BitVec 6) (d : BitVec 5) (a : BitVec 5) (b : BitVec 5) (f : BitVec 7) (w : BitVec 2) (k : BitVec 1) (s : BitVec 1) : fd (mkV p d a b f w k s) = d := by
  change BitVec.extractLsb' (n := 6 + (5 + (5 + (5 + (7 + (2 + (1 + 1))))))) _ _ _ = _
  unfold mkV; repeat (first | rw [field_hi _ _ _ _ (by decide)] | rw [field_lo _ _ _ _ (by decide)])
  exact BitVec.extractLsb'_eq_self

@[simp] theorem mkV_fa (p : BitVec 6) (d : BitVec 5) (a : BitVec 5) (b : BitVec 5) (f : BitVec 7) (w : BitVec 2) (k : BitVec 1) (s : BitVec 1) : fa (mkV p d a b f w k s) = a := by
  change BitVec.extractLsb' (n := 6 + (5 + (5 + (5 + (7 + (2 + (1 + 1))))))) _ _ _ = _
  unfold mkV; repeat (first | rw [field_hi _ _ _ _ (by decide)] | rw [field_lo _ _ _ _ (by decide)])
  exact BitVec.extractLsb'_eq_self

@[simp] theorem mkV_fb (p : BitVec 6) (d : BitVec 5) (a : BitVec 5) (b : BitVec 5) (f : BitVec 7) (w : BitVec 2) (k : BitVec 1) (s : BitVec 1) : fb (mkV p d a b f w k s) = b := by
  change BitVec.extractLsb' (n := 6 + (5 + (5 + (5 + (7 + (2 + (1 + 1))))))) _ _ _ = _
  unfold mkV; repeat (first | rw [field_hi _ _ _ _ (by decide)] | rw [field_lo _ _ _ _ (by decide)])
  exact BitVec.extractLsb'_eq_self

@[simp] theorem mkV_f7 (p : BitVec 6) (d : BitVec 5) (a : BitVec 5) (b : BitVec 5) (f : BitVec 7) (w : BitVec 2) (k : BitVec 1) (s : BitVec 1) : f7 (mkV p d a b f w k s) = f := by
  change BitVec.extractLsb' (n := 6 + (5 + (5 + (5 + (7 + (2 + (1 + 1))))))) _ _ _ = _
  unfold mkV; repeat (first | rw [field_hi _ _ _ _ (by decide)] | rw [field_lo _ _ _ _ (by decide)])
  exact BitVec.extractLsb'_eq_self

@[simp] theorem mkV_w2 (p : BitVec 6) (d : BitVec 5) (a : BitVec 5) (b : BitVec 5) (f : BitVec 7) (w : BitVec 2) (k : BitVec 1) (s : BitVec 1) : w2 (mkV p d a b f w k s) = w := by
  change BitVec.extractLsb' (n := 6 + (5 + (5 + (5 + (7 + (2 + (1 + 1))))))) _ _ _ = _
  unfold mkV; repeat (first | rw [field_hi _ _ _ _ (by decide)] | rw [field_lo _ _ _ _ (by decide)])
  exact BitVec.extractLsb'_eq_self

@[simp] theorem mkV_kb (p : BitVec 6) (d : BitVec 5) (a : BitVec 5) (b : BitVec 5) (f : BitVec 7) (w : BitVec 2) (k : BitVec 1) (s : BitVec 1) : kb (mkV p d a b f w k s) = k := by
  change BitVec.extractLsb' (n := 6 + (5 + (5 + (5 + (7 + (2 + (1 + 1))))))) _ _ _ = _
  unfold mkV; repeat (first | rw [field_hi _ _ _ _ (by decide)] | rw [field_lo _ _ _ _ (by decide)])
  exact BitVec.extractLsb'_eq_self

@[simp] theorem mkV_sb (p : BitVec 6) (d : BitVec 5) (a : BitVec 5) (b : BitVec 5) (f : BitVec 7) (w : BitVec 2) (k : BitVec 1) (s : BitVec 1) : sb (mkV p d a b f w k s) = s := by
  change BitVec.extractLsb' (n := 6 + (5 + (5 + (5 + (7 + (2 + (1 + 1))))))) _ _ _ = _
  unfold mkV; repeat (first | rw [field_hi _ _ _ _ (by decide)] | rw [field_lo _ _ _ _ (by decide)])
  exact BitVec.extractLsb'_eq_self

@[simp] theorem mkM_major (p : BitVec 6) (t : BitVec 5) (b : BitVec 5) (i : BitVec 5) (n : BitVec 3) (e : BitVec 3) (f : BitVec 3) (k : BitVec 1) (z : BitVec 1) : major (mkM p t b i n e f k z) = p := by
  change BitVec.extractLsb' (n := 6 + (5 + (5 + (5 + (3 + (3 + (3 + (1 + 1)))))))) _ _ _ = _
  unfold mkM; repeat (first | rw [field_hi _ _ _ _ (by decide)] | rw [field_lo _ _ _ _ (by decide)])
  exact BitVec.extractLsb'_eq_self

@[simp] theorem mkM_fd (p : BitVec 6) (t : BitVec 5) (b : BitVec 5) (i : BitVec 5) (n : BitVec 3) (e : BitVec 3) (f : BitVec 3) (k : BitVec 1) (z : BitVec 1) : fd (mkM p t b i n e f k z) = t := by
  change BitVec.extractLsb' (n := 6 + (5 + (5 + (5 + (3 + (3 + (3 + (1 + 1)))))))) _ _ _ = _
  unfold mkM; repeat (first | rw [field_hi _ _ _ _ (by decide)] | rw [field_lo _ _ _ _ (by decide)])
  exact BitVec.extractLsb'_eq_self

@[simp] theorem mkM_fa (p : BitVec 6) (t : BitVec 5) (b : BitVec 5) (i : BitVec 5) (n : BitVec 3) (e : BitVec 3) (f : BitVec 3) (k : BitVec 1) (z : BitVec 1) : fa (mkM p t b i n e f k z) = b := by
  change BitVec.extractLsb' (n := 6 + (5 + (5 + (5 + (3 + (3 + (3 + (1 + 1)))))))) _ _ _ = _
  unfold mkM; repeat (first | rw [field_hi _ _ _ _ (by decide)] | rw [field_lo _ _ _ _ (by decide)])
  exact BitVec.extractLsb'_eq_self

@[simp] theorem mkM_fb (p : BitVec 6) (t : BitVec 5) (b : BitVec 5) (i : BitVec 5) (n : BitVec 3) (e : BitVec 3) (f : BitVec 3) (k : BitVec 1) (z : BitVec 1) : fb (mkM p t b i n e f k z) = i := by
  change BitVec.extractLsb' (n := 6 + (5 + (5 + (5 + (3 + (3 + (3 + (1 + 1)))))))) _ _ _ = _
  unfold mkM; repeat (first | rw [field_hi _ _ _ _ (by decide)] | rw [field_lo _ _ _ _ (by decide)])
  exact BitVec.extractLsb'_eq_self

@[simp] theorem mkM_sn (p : BitVec 6) (t : BitVec 5) (b : BitVec 5) (i : BitVec 5) (n : BitVec 3) (e : BitVec 3) (f : BitVec 3) (k : BitVec 1) (z : BitVec 1) : sn (mkM p t b i n e f k z) = n := by
  change BitVec.extractLsb' (n := 6 + (5 + (5 + (5 + (3 + (3 + (3 + (1 + 1)))))))) _ _ _ = _
  unfold mkM; repeat (first | rw [field_hi _ _ _ _ (by decide)] | rw [field_lo _ _ _ _ (by decide)])
  exact BitVec.extractLsb'_eq_self

@[simp] theorem mkM_es (p : BitVec 6) (t : BitVec 5) (b : BitVec 5) (i : BitVec 5) (n : BitVec 3) (e : BitVec 3) (f : BitVec 3) (k : BitVec 1) (z : BitVec 1) : es (mkM p t b i n e f k z) = e := by
  change BitVec.extractLsb' (n := 6 + (5 + (5 + (5 + (3 + (3 + (3 + (1 + 1)))))))) _ _ _ = _
  unfold mkM; repeat (first | rw [field_hi _ _ _ _ (by decide)] | rw [field_lo _ _ _ _ (by decide)])
  exact BitVec.extractLsb'_eq_self

@[simp] theorem mkM_f3 (p : BitVec 6) (t : BitVec 5) (b : BitVec 5) (i : BitVec 5) (n : BitVec 3) (e : BitVec 3) (f : BitVec 3) (k : BitVec 1) (z : BitVec 1) : f3 (mkM p t b i n e f k z) = f := by
  change BitVec.extractLsb' (n := 6 + (5 + (5 + (5 + (3 + (3 + (3 + (1 + 1)))))))) _ _ _ = _
  unfold mkM; repeat (first | rw [field_hi _ _ _ _ (by decide)] | rw [field_lo _ _ _ _ (by decide)])
  exact BitVec.extractLsb'_eq_self

@[simp] theorem mkM_kb (p : BitVec 6) (t : BitVec 5) (b : BitVec 5) (i : BitVec 5) (n : BitVec 3) (e : BitVec 3) (f : BitVec 3) (k : BitVec 1) (z : BitVec 1) : kb (mkM p t b i n e f k z) = k := by
  change BitVec.extractLsb' (n := 6 + (5 + (5 + (5 + (3 + (3 + (3 + (1 + 1)))))))) _ _ _ = _
  unfold mkM; repeat (first | rw [field_hi _ _ _ _ (by decide)] | rw [field_lo _ _ _ _ (by decide)])
  exact BitVec.extractLsb'_eq_self

@[simp] theorem mkM_sb (p : BitVec 6) (t : BitVec 5) (b : BitVec 5) (i : BitVec 5) (n : BitVec 3) (e : BitVec 3) (f : BitVec 3) (k : BitVec 1) (z : BitVec 1) : sb (mkM p t b i n e f k z) = z := by
  change BitVec.extractLsb' (n := 6 + (5 + (5 + (5 + (3 + (3 + (3 + (1 + 1)))))))) _ _ _ = _
  unfold mkM; repeat (first | rw [field_hi _ _ _ _ (by decide)] | rw [field_lo _ _ _ _ (by decide)])
  exact BitVec.extractLsb'_eq_self

@[simp] theorem mkT_major (p : BitVec 6) (d : BitVec 5) (a : BitVec 5) (b : BitVec 5) (c : BitVec 3) (f : BitVec 4) (z : BitVec 4) : major (mkT p d a b c f z) = p := by
  change BitVec.extractLsb' (n := 6 + (5 + (5 + (5 + (3 + (4 + 4)))))) _ _ _ = _
  unfold mkT; repeat (first | rw [field_hi _ _ _ _ (by decide)] | rw [field_lo _ _ _ _ (by decide)])
  exact BitVec.extractLsb'_eq_self

@[simp] theorem mkT_fd (p : BitVec 6) (d : BitVec 5) (a : BitVec 5) (b : BitVec 5) (c : BitVec 3) (f : BitVec 4) (z : BitVec 4) : fd (mkT p d a b c f z) = d := by
  change BitVec.extractLsb' (n := 6 + (5 + (5 + (5 + (3 + (4 + 4)))))) _ _ _ = _
  unfold mkT; repeat (first | rw [field_hi _ _ _ _ (by decide)] | rw [field_lo _ _ _ _ (by decide)])
  exact BitVec.extractLsb'_eq_self

@[simp] theorem mkT_fa (p : BitVec 6) (d : BitVec 5) (a : BitVec 5) (b : BitVec 5) (c : BitVec 3) (f : BitVec 4) (z : BitVec 4) : fa (mkT p d a b c f z) = a := by
  change BitVec.extractLsb' (n := 6 + (5 + (5 + (5 + (3 + (4 + 4)))))) _ _ _ = _
  unfold mkT; repeat (first | rw [field_hi _ _ _ _ (by decide)] | rw [field_lo _ _ _ _ (by decide)])
  exact BitVec.extractLsb'_eq_self

@[simp] theorem mkT_fb (p : BitVec 6) (d : BitVec 5) (a : BitVec 5) (b : BitVec 5) (c : BitVec 3) (f : BitVec 4) (z : BitVec 4) : fb (mkT p d a b c f z) = b := by
  change BitVec.extractLsb' (n := 6 + (5 + (5 + (5 + (3 + (4 + 4)))))) _ _ _ = _
  unfold mkT; repeat (first | rw [field_hi _ _ _ _ (by decide)] | rw [field_lo _ _ _ _ (by decide)])
  exact BitVec.extractLsb'_eq_self

@[simp] theorem mkT_sn (p : BitVec 6) (d : BitVec 5) (a : BitVec 5) (b : BitVec 5) (c : BitVec 3) (f : BitVec 4) (z : BitVec 4) : sn (mkT p d a b c f z) = c := by
  change BitVec.extractLsb' (n := 6 + (5 + (5 + (5 + (3 + (4 + 4)))))) _ _ _ = _
  unfold mkT; repeat (first | rw [field_hi _ _ _ _ (by decide)] | rw [field_lo _ _ _ _ (by decide)])
  exact BitVec.extractLsb'_eq_self

@[simp] theorem mkT_f4 (p : BitVec 6) (d : BitVec 5) (a : BitVec 5) (b : BitVec 5) (c : BitVec 3) (f : BitVec 4) (z : BitVec 4) : f4 (mkT p d a b c f z) = f := by
  change BitVec.extractLsb' (n := 6 + (5 + (5 + (5 + (3 + (4 + 4)))))) _ _ _ = _
  unfold mkT; repeat (first | rw [field_hi _ _ _ _ (by decide)] | rw [field_lo _ _ _ _ (by decide)])
  exact BitVec.extractLsb'_eq_self

@[simp] theorem mkT_pl (p : BitVec 6) (d : BitVec 5) (a : BitVec 5) (b : BitVec 5) (c : BitVec 3) (f : BitVec 4) (z : BitVec 4) : pl (mkT p d a b c f z) = z := by
  change BitVec.extractLsb' (n := 6 + (5 + (5 + (5 + (3 + (4 + 4)))))) _ _ _ = _
  unfold mkT; repeat (first | rw [field_hi _ _ _ _ (by decide)] | rw [field_lo _ _ _ _ (by decide)])
  exact BitVec.extractLsb'_eq_self

@[simp] theorem mkZ_major (p : BitVec 6) (d : BitVec 5) (a : BitVec 5) (f : BitVec 4) (z : BitVec 12) : major (mkZ p d a f z) = p := by
  change BitVec.extractLsb' (n := 6 + (5 + (5 + (4 + 12)))) _ _ _ = _
  unfold mkZ; repeat (first | rw [field_hi _ _ _ _ (by decide)] | rw [field_lo _ _ _ _ (by decide)])
  exact BitVec.extractLsb'_eq_self

@[simp] theorem mkZ_fd (p : BitVec 6) (d : BitVec 5) (a : BitVec 5) (f : BitVec 4) (z : BitVec 12) : fd (mkZ p d a f z) = d := by
  change BitVec.extractLsb' (n := 6 + (5 + (5 + (4 + 12)))) _ _ _ = _
  unfold mkZ; repeat (first | rw [field_hi _ _ _ _ (by decide)] | rw [field_lo _ _ _ _ (by decide)])
  exact BitVec.extractLsb'_eq_self

@[simp] theorem mkZ_fa (p : BitVec 6) (d : BitVec 5) (a : BitVec 5) (f : BitVec 4) (z : BitVec 12) : fa (mkZ p d a f z) = a := by
  change BitVec.extractLsb' (n := 6 + (5 + (5 + (4 + 12)))) _ _ _ = _
  unfold mkZ; repeat (first | rw [field_hi _ _ _ _ (by decide)] | rw [field_lo _ _ _ _ (by decide)])
  exact BitVec.extractLsb'_eq_self

@[simp] theorem mkZ_zfn (p : BitVec 6) (d : BitVec 5) (a : BitVec 5) (f : BitVec 4) (z : BitVec 12) : zfn (mkZ p d a f z) = f := by
  change BitVec.extractLsb' (n := 6 + (5 + (5 + (4 + 12)))) _ _ _ = _
  unfold mkZ; repeat (first | rw [field_hi _ _ _ _ (by decide)] | rw [field_lo _ _ _ _ (by decide)])
  exact BitVec.extractLsb'_eq_self

@[simp] theorem mkZ_zd (p : BitVec 6) (d : BitVec 5) (a : BitVec 5) (f : BitVec 4) (z : BitVec 12) : zd (mkZ p d a f z) = z := by
  change BitVec.extractLsb' (n := 6 + (5 + (5 + (4 + 12)))) _ _ _ = _
  unfold mkZ; repeat (first | rw [field_hi _ _ _ _ (by decide)] | rw [field_lo _ _ _ _ (by decide)])
  exact BitVec.extractLsb'_eq_self

@[simp] theorem sub_hi_1_4 (x : BitVec 1) (y : BitVec 4) : sub 4 1 (x ++ y) = x := by
  unfold sub; rw [field_hi _ _ _ _ (by decide)]; exact BitVec.extractLsb'_eq_self

@[simp] theorem sub_lo_1_4 (x : BitVec 1) (y : BitVec 4) : sub 0 4 (x ++ y) = y := by
  unfold sub; rw [field_lo _ _ _ _ (by decide)]; exact BitVec.extractLsb'_eq_self

@[simp] theorem sub_hi_1_6 (x : BitVec 1) (y : BitVec 6) : sub 6 1 (x ++ y) = x := by
  unfold sub; rw [field_hi _ _ _ _ (by decide)]; exact BitVec.extractLsb'_eq_self

@[simp] theorem sub_lo_1_6 (x : BitVec 1) (y : BitVec 6) : sub 0 6 (x ++ y) = y := by
  unfold sub; rw [field_lo _ _ _ _ (by decide)]; exact BitVec.extractLsb'_eq_self

@[simp] theorem sub_hi_2_10 (x : BitVec 2) (y : BitVec 10) : sub 10 2 (x ++ y) = x := by
  unfold sub; rw [field_hi _ _ _ _ (by decide)]; exact BitVec.extractLsb'_eq_self

@[simp] theorem sub_lo_2_10 (x : BitVec 2) (y : BitVec 10) : sub 0 10 (x ++ y) = y := by
  unfold sub; rw [field_lo _ _ _ _ (by decide)]; exact BitVec.extractLsb'_eq_self

@[simp] theorem sub_hi_3_2 (x : BitVec 3) (y : BitVec 2) : sub 2 3 (x ++ y) = x := by
  unfold sub; rw [field_hi _ _ _ _ (by decide)]; exact BitVec.extractLsb'_eq_self

@[simp] theorem sub_lo_3_2 (x : BitVec 3) (y : BitVec 2) : sub 0 2 (x ++ y) = y := by
  unfold sub; rw [field_lo _ _ _ _ (by decide)]; exact BitVec.extractLsb'_eq_self

@[simp] theorem sub_hi_3_4 (x : BitVec 3) (y : BitVec 4) : sub 4 3 (x ++ y) = x := by
  unfold sub; rw [field_hi _ _ _ _ (by decide)]; exact BitVec.extractLsb'_eq_self

@[simp] theorem sub_lo_3_4 (x : BitVec 3) (y : BitVec 4) : sub 0 4 (x ++ y) = y := by
  unfold sub; rw [field_lo _ _ _ _ (by decide)]; exact BitVec.extractLsb'_eq_self

@[simp] theorem sub_hi_4_1 (x : BitVec 4) (y : BitVec 1) : sub 1 4 (x ++ y) = x := by
  unfold sub; rw [field_hi _ _ _ _ (by decide)]; exact BitVec.extractLsb'_eq_self

@[simp] theorem sub_lo_4_1 (x : BitVec 4) (y : BitVec 1) : sub 0 1 (x ++ y) = y := by
  unfold sub; rw [field_lo _ _ _ _ (by decide)]; exact BitVec.extractLsb'_eq_self

@[simp] theorem sub_hi_4_8 (x : BitVec 4) (y : BitVec 8) : sub 8 4 (x ++ y) = x := by
  unfold sub; rw [field_hi _ _ _ _ (by decide)]; exact BitVec.extractLsb'_eq_self

@[simp] theorem sub_lo_4_8 (x : BitVec 4) (y : BitVec 8) : sub 0 8 (x ++ y) = y := by
  unfold sub; rw [field_lo _ _ _ _ (by decide)]; exact BitVec.extractLsb'_eq_self

@[simp] theorem sub_hi_5_7 (x : BitVec 5) (y : BitVec 7) : sub 7 5 (x ++ y) = x := by
  unfold sub; rw [field_hi _ _ _ _ (by decide)]; exact BitVec.extractLsb'_eq_self

@[simp] theorem sub_lo_5_7 (x : BitVec 5) (y : BitVec 7) : sub 0 7 (x ++ y) = y := by
  unfold sub; rw [field_lo _ _ _ _ (by decide)]; exact BitVec.extractLsb'_eq_self

@[simp] theorem sub_hi_6_6 (x : BitVec 6) (y : BitVec 6) : sub 6 6 (x ++ y) = x := by
  unfold sub; rw [field_hi _ _ _ _ (by decide)]; exact BitVec.extractLsb'_eq_self

@[simp] theorem sub_lo_6_6 (x : BitVec 6) (y : BitVec 6) : sub 0 6 (x ++ y) = y := by
  unfold sub; rw [field_lo _ _ _ _ (by decide)]; exact BitVec.extractLsb'_eq_self

@[simp] theorem sub_hi_7_5 (x : BitVec 7) (y : BitVec 5) : sub 5 7 (x ++ y) = x := by
  unfold sub; rw [field_hi _ _ _ _ (by decide)]; exact BitVec.extractLsb'_eq_self

@[simp] theorem sub_lo_7_5 (x : BitVec 7) (y : BitVec 5) : sub 0 5 (x ++ y) = y := by
  unfold sub; rw [field_lo _ _ _ _ (by decide)]; exact BitVec.extractLsb'_eq_self

@[simp] theorem sub_hi_8_4 (x : BitVec 8) (y : BitVec 4) : sub 4 8 (x ++ y) = x := by
  unfold sub; rw [field_hi _ _ _ _ (by decide)]; exact BitVec.extractLsb'_eq_self

@[simp] theorem sub_lo_8_4 (x : BitVec 8) (y : BitVec 4) : sub 0 4 (x ++ y) = y := by
  unfold sub; rw [field_lo _ _ _ _ (by decide)]; exact BitVec.extractLsb'_eq_self

/-- What is said of each instruction: its word decodes to it. -/
def RoundTrip.Statement (i : Instr) : Prop :=
  WellFormed i → ∀ w, encode i = some w → decode w = .ok i

namespace RoundTrip

theorem add (d : BitVec 5) (a : BitVec 5) (b : BitVec 5) : Statement (.add d a b) := by
  intro hw w h
  obtain rfl := Option.some.inj h
  simp [decode, decode01, reserve, mkA_major, mkA_fd, mkA_fa, mkA_fb, mkA_aux, mkA_fn] <;> first | assumption | rfl

theorem sub (d : BitVec 5) (a : BitVec 5) (b : BitVec 5) : Statement (.sub d a b) := by
  intro hw w h
  obtain rfl := Option.some.inj h
  simp [decode, decode01, reserve, mkA_major, mkA_fd, mkA_fa, mkA_fb, mkA_aux, mkA_fn] <;> first | assumption | rfl

theorem and (d : BitVec 5) (a : BitVec 5) (b : BitVec 5) : Statement (.and d a b) := by
  intro hw w h
  obtain rfl := Option.some.inj h
  simp [decode, decode01, reserve, mkA_major, mkA_fd, mkA_fa, mkA_fb, mkA_aux, mkA_fn] <;> first | assumption | rfl

theorem or (d : BitVec 5) (a : BitVec 5) (b : BitVec 5) : Statement (.or d a b) := by
  intro hw w h
  obtain rfl := Option.some.inj h
  simp [decode, decode01, reserve, mkA_major, mkA_fd, mkA_fa, mkA_fb, mkA_aux, mkA_fn] <;> first | assumption | rfl

theorem xor (d : BitVec 5) (a : BitVec 5) (b : BitVec 5) : Statement (.xor d a b) := by
  intro hw w h
  obtain rfl := Option.some.inj h
  simp [decode, decode01, reserve, mkA_major, mkA_fd, mkA_fa, mkA_fb, mkA_aux, mkA_fn] <;> first | assumption | rfl

theorem andn (d : BitVec 5) (a : BitVec 5) (b : BitVec 5) : Statement (.andn d a b) := by
  intro hw w h
  obtain rfl := Option.some.inj h
  simp [decode, decode01, reserve, mkA_major, mkA_fd, mkA_fa, mkA_fb, mkA_aux, mkA_fn] <;> first | assumption | rfl

theorem shadd (d : BitVec 5) (a : BitVec 5) (b : BitVec 5) (c : BitVec 5) : Statement (.shadd d a b c) := by
  intro hw w h
  obtain rfl := Option.some.inj h
  simp [decode, decode01, reserve, mkA_major, mkA_fd, mkA_fa, mkA_fb, mkA_aux, mkA_fn] <;> first | assumption | rfl

theorem sll (d : BitVec 5) (a : BitVec 5) (b : BitVec 5) : Statement (.sll d a b) := by
  intro hw w h
  obtain rfl := Option.some.inj h
  simp [decode, decode02, reserve, mkA_major, mkA_fd, mkA_fa, mkA_fb, mkA_aux, mkA_fn] <;> first | assumption | rfl

theorem srl (d : BitVec 5) (a : BitVec 5) (b : BitVec 5) : Statement (.srl d a b) := by
  intro hw w h
  obtain rfl := Option.some.inj h
  simp [decode, decode02, reserve, mkA_major, mkA_fd, mkA_fa, mkA_fb, mkA_aux, mkA_fn] <;> first | assumption | rfl

theorem sra (d : BitVec 5) (a : BitVec 5) (b : BitVec 5) : Statement (.sra d a b) := by
  intro hw w h
  obtain rfl := Option.some.inj h
  simp [decode, decode02, reserve, mkA_major, mkA_fd, mkA_fa, mkA_fb, mkA_aux, mkA_fn] <;> first | assumption | rfl

theorem ror (d : BitVec 5) (a : BitVec 5) (b : BitVec 5) : Statement (.ror d a b) := by
  intro hw w h
  obtain rfl := Option.some.inj h
  simp [decode, decode02, reserve, mkA_major, mkA_fd, mkA_fa, mkA_fb, mkA_aux, mkA_fn] <;> first | assumption | rfl

theorem clz (d : BitVec 5) (a : BitVec 5) : Statement (.clz d a) := by
  intro hw w h
  obtain rfl := Option.some.inj h
  simp [decode, decode02, reserve, mkA_major, mkA_fd, mkA_fa, mkA_fb, mkA_aux, mkA_fn] <;> first | assumption | rfl

theorem ctz (d : BitVec 5) (a : BitVec 5) : Statement (.ctz d a) := by
  intro hw w h
  obtain rfl := Option.some.inj h
  simp [decode, decode02, reserve, mkA_major, mkA_fd, mkA_fa, mkA_fb, mkA_aux, mkA_fn] <;> first | assumption | rfl

theorem popc (d : BitVec 5) (a : BitVec 5) : Statement (.popc d a) := by
  intro hw w h
  obtain rfl := Option.some.inj h
  simp [decode, decode02, reserve, mkA_major, mkA_fd, mkA_fa, mkA_fb, mkA_aux, mkA_fn] <;> first | assumption | rfl

theorem bext (d : BitVec 5) (a : BitVec 5) (b : BitVec 5) (w : BitVec 5) : Statement (.bext d a b w) := by
  intro hw w h
  obtain rfl := Option.some.inj h
  simp [decode, decode02, reserve, mkA_major, mkA_fd, mkA_fa, mkA_fb, mkA_aux, mkA_fn] <;> first | assumption | rfl

theorem seq (d : BitVec 5) (a : BitVec 5) (b : BitVec 5) : Statement (.seq d a b) := by
  intro hw w h
  obtain rfl := Option.some.inj h
  simp [decode, decode03, reserve, mkA_major, mkA_fd, mkA_fa, mkA_fb, mkA_aux, mkA_fn] <;> first | assumption | rfl

theorem sne (d : BitVec 5) (a : BitVec 5) (b : BitVec 5) : Statement (.sne d a b) := by
  intro hw w h
  obtain rfl := Option.some.inj h
  simp [decode, decode03, reserve, mkA_major, mkA_fd, mkA_fa, mkA_fb, mkA_aux, mkA_fn] <;> first | assumption | rfl

theorem slt (d : BitVec 5) (a : BitVec 5) (b : BitVec 5) : Statement (.slt d a b) := by
  intro hw w h
  obtain rfl := Option.some.inj h
  simp [decode, decode03, reserve, mkA_major, mkA_fd, mkA_fa, mkA_fb, mkA_aux, mkA_fn] <;> first | assumption | rfl

theorem sltn (d : BitVec 5) (a : BitVec 5) (b : BitVec 5) : Statement (.sltn d a b) := by
  intro hw w h
  obtain rfl := Option.some.inj h
  simp [decode, decode03, reserve, mkA_major, mkA_fd, mkA_fa, mkA_fb, mkA_aux, mkA_fn] <;> first | assumption | rfl

theorem min (d : BitVec 5) (a : BitVec 5) (b : BitVec 5) : Statement (.min d a b) := by
  intro hw w h
  obtain rfl := Option.some.inj h
  simp [decode, decode03, reserve, mkA_major, mkA_fd, mkA_fa, mkA_fb, mkA_aux, mkA_fn] <;> first | assumption | rfl

theorem max (d : BitVec 5) (a : BitVec 5) (b : BitVec 5) : Statement (.max d a b) := by
  intro hw w h
  obtain rfl := Option.some.inj h
  simp [decode, decode03, reserve, mkA_major, mkA_fd, mkA_fa, mkA_fb, mkA_aux, mkA_fn] <;> first | assumption | rfl

theorem mul (d : BitVec 5) (a : BitVec 5) (b : BitVec 5) : Statement (.mul d a b) := by
  intro hw w h
  obtain rfl := Option.some.inj h
  simp [decode, decode04, reserve, mkA_major, mkA_fd, mkA_fa, mkA_fb, mkA_aux, mkA_fn] <;> first | assumption | rfl

theorem mulh (d : BitVec 5) (a : BitVec 5) (b : BitVec 5) : Statement (.mulh d a b) := by
  intro hw w h
  obtain rfl := Option.some.inj h
  simp [decode, decode04, reserve, mkA_major, mkA_fd, mkA_fa, mkA_fb, mkA_aux, mkA_fn] <;> first | assumption | rfl

theorem mulhn (d : BitVec 5) (a : BitVec 5) (b : BitVec 5) : Statement (.mulhn d a b) := by
  intro hw w h
  obtain rfl := Option.some.inj h
  simp [decode, decode04, reserve, mkA_major, mkA_fd, mkA_fa, mkA_fb, mkA_aux, mkA_fn] <;> first | assumption | rfl

theorem div (d : BitVec 5) (a : BitVec 5) (b : BitVec 5) : Statement (.div d a b) := by
  intro hw w h
  obtain rfl := Option.some.inj h
  simp [decode, decode04, reserve, mkA_major, mkA_fd, mkA_fa, mkA_fb, mkA_aux, mkA_fn] <;> first | assumption | rfl

theorem divn (d : BitVec 5) (a : BitVec 5) (b : BitVec 5) : Statement (.divn d a b) := by
  intro hw w h
  obtain rfl := Option.some.inj h
  simp [decode, decode04, reserve, mkA_major, mkA_fd, mkA_fa, mkA_fb, mkA_aux, mkA_fn] <;> first | assumption | rfl

theorem rem (d : BitVec 5) (a : BitVec 5) (b : BitVec 5) : Statement (.rem d a b) := by
  intro hw w h
  obtain rfl := Option.some.inj h
  simp [decode, decode04, reserve, mkA_major, mkA_fd, mkA_fa, mkA_fb, mkA_aux, mkA_fn] <;> first | assumption | rfl

theorem remn (d : BitVec 5) (a : BitVec 5) (b : BitVec 5) : Statement (.remn d a b) := by
  intro hw w h
  obtain rfl := Option.some.inj h
  simp [decode, decode04, reserve, mkA_major, mkA_fd, mkA_fa, mkA_fb, mkA_aux, mkA_fn] <;> first | assumption | rfl

theorem madd (d : BitVec 5) (a : BitVec 5) (b : BitVec 5) (c : BitVec 5) : Statement (.madd d a b c) := by
  intro hw w h
  obtain rfl := Option.some.inj h
  simp [decode, decode04, reserve, mkA_major, mkA_fd, mkA_fa, mkA_fb, mkA_aux, mkA_fn] <;> first | assumption | rfl

theorem addi (d : BitVec 5) (a : BitVec 5) (i : BitVec 16) : Statement (.addi d a i) := by
  intro hw w h
  obtain rfl := Option.some.inj h
  simp [decode, decode05, reserve, mkI_major, mkI_fd, mkI_fa, mkI_imm16] <;> first | assumption | rfl

theorem andi (d : BitVec 5) (a : BitVec 5) (i : BitVec 16) : Statement (.andi d a i) := by
  intro hw w h
  obtain rfl := Option.some.inj h
  simp [decode, decode06, reserve, mkI_major, mkI_fd, mkI_fa, mkI_imm16] <;> first | assumption | rfl

theorem ori (d : BitVec 5) (a : BitVec 5) (i : BitVec 16) : Statement (.ori d a i) := by
  intro hw w h
  obtain rfl := Option.some.inj h
  simp [decode, decode07, reserve, mkI_major, mkI_fd, mkI_fa, mkI_imm16] <;> first | assumption | rfl

theorem xori (d : BitVec 5) (a : BitVec 5) (i : BitVec 16) : Statement (.xori d a i) := by
  intro hw w h
  obtain rfl := Option.some.inj h
  simp [decode, decode08, reserve, mkI_major, mkI_fd, mkI_fa, mkI_imm16] <;> first | assumption | rfl

theorem shori (d : BitVec 5) (a : BitVec 5) (i : BitVec 16) : Statement (.shori d a i) := by
  intro hw w h
  obtain rfl := Option.some.inj h
  simp [decode, decode09, reserve, mkI_major, mkI_fd, mkI_fa, mkI_imm16] <;> first | assumption | rfl

theorem addpc (d : BitVec 5) (i : BitVec 16) : Statement (.addpc d i) := by
  intro hw w h
  obtain rfl := Option.some.inj h
  simp [decode, decode0B, reserve, mkI_major, mkI_fd, mkI_fa, mkI_imm16] <;> first | assumption | rfl

theorem slli (d : BitVec 5) (a : BitVec 5) (m : BitVec 6) : Statement (.slli d a m) := by
  intro hw w h
  obtain rfl := Option.some.inj h
  simp [decode, decode0A, reserve, mkZ_major, mkZ_fd, mkZ_fa, mkZ_zfn, mkZ_zd, sub_hi_6_6, sub_lo_6_6] <;> first | assumption | rfl

theorem srli (d : BitVec 5) (a : BitVec 5) (m : BitVec 6) : Statement (.srli d a m) := by
  intro hw w h
  obtain rfl := Option.some.inj h
  simp [decode, decode0A, reserve, mkZ_major, mkZ_fd, mkZ_fa, mkZ_zfn, mkZ_zd, sub_hi_6_6, sub_lo_6_6] <;> first | assumption | rfl

theorem srai (d : BitVec 5) (a : BitVec 5) (m : BitVec 6) : Statement (.srai d a m) := by
  intro hw w h
  obtain rfl := Option.some.inj h
  simp [decode, decode0A, reserve, mkZ_major, mkZ_fd, mkZ_fa, mkZ_zfn, mkZ_zd, sub_hi_6_6, sub_lo_6_6] <;> first | assumption | rfl

theorem slti (d : BitVec 5) (a : BitVec 5) (i : BitVec 12) : Statement (.slti d a i) := by
  intro hw w h
  obtain rfl := Option.some.inj h
  simp [decode, decode0A, reserve, mkZ_major, mkZ_fd, mkZ_fa, mkZ_zfn, mkZ_zd] <;> first | assumption | rfl

theorem beqz (a : BitVec 5) (o : BitVec 16) : Statement (.beqz a o) := by
  intro hw w h
  obtain rfl := Option.some.inj h
  simp [decode, decode0C, reserve, mkI_major, mkI_fd, mkI_fa, mkI_imm16] <;> first | assumption | rfl

theorem bnez (a : BitVec 5) (o : BitVec 16) : Statement (.bnez a o) := by
  intro hw w h
  obtain rfl := Option.some.inj h
  simp [decode, decode0C, reserve, mkI_major, mkI_fd, mkI_fa, mkI_imm16] <;> first | assumption | rfl

theorem bltz (a : BitVec 5) (o : BitVec 16) : Statement (.bltz a o) := by
  intro hw w h
  obtain rfl := Option.some.inj h
  simp [decode, decode0C, reserve, mkI_major, mkI_fd, mkI_fa, mkI_imm16] <;> first | assumption | rfl

theorem bgez (a : BitVec 5) (o : BitVec 16) : Statement (.bgez a o) := by
  intro hw w h
  obtain rfl := Option.some.inj h
  simp [decode, decode0C, reserve, mkI_major, mkI_fd, mkI_fa, mkI_imm16] <;> first | assumption | rfl

theorem bgtz (a : BitVec 5) (o : BitVec 16) : Statement (.bgtz a o) := by
  intro hw w h
  obtain rfl := Option.some.inj h
  simp [decode, decode0C, reserve, mkI_major, mkI_fd, mkI_fa, mkI_imm16] <;> first | assumption | rfl

theorem blez (a : BitVec 5) (o : BitVec 16) : Statement (.blez a o) := by
  intro hw w h
  obtain rfl := Option.some.inj h
  simp [decode, decode0C, reserve, mkI_major, mkI_fd, mkI_fa, mkI_imm16] <;> first | assumption | rfl

theorem bempty (o : BitVec 16) : Statement (.bempty o) := by
  intro hw w h
  obtain rfl := Option.some.inj h
  simp [decode, decode0C, reserve, mkI_major, mkI_fd, mkI_fa, mkI_imm16] <;> first | assumption | rfl

theorem jmp (o : BitVec 26) : Statement (.jmp o) := by
  intro hw w h
  obtain rfl := Option.some.inj h
  simp [decode, decode0D, reserve, mkJ_major, mkJ_off26] <;> first | assumption | rfl

theorem call (o : BitVec 26) : Statement (.call o) := by
  intro hw w h
  obtain rfl := Option.some.inj h
  simp [decode, decode0E, reserve, mkJ_major, mkJ_off26] <;> first | assumption | rfl

theorem jr (a : BitVec 5) : Statement (.jr a) := by
  intro hw w h
  obtain rfl := Option.some.inj h
  simp [decode, decode0F, reserve, mkZ_major, mkZ_fd, mkZ_fa, mkZ_zfn, mkZ_zd] <;> first | assumption | rfl

theorem callr (d : BitVec 5) (a : BitVec 5) : Statement (.callr d a) := by
  intro hw w h
  obtain rfl := Option.some.inj h
  simp [decode, decode0F, reserve, mkZ_major, mkZ_fd, mkZ_fa, mkZ_zfn, mkZ_zd] <;> first | assumption | rfl

theorem jtab (d : BitVec 5) (a : BitVec 5) (l : BitVec 12) : Statement (.jtab d a l) := by
  intro hw w h
  obtain rfl := Option.some.inj h
  simp [decode, decode0F, reserve, mkZ_major, mkZ_fd, mkZ_fa, mkZ_zfn, mkZ_zd] <;> first | assumption | rfl

theorem loop (a : BitVec 5) (l : BitVec 8) : Statement (.loop a l) := by
  intro hw w h
  obtain rfl := Option.some.inj h
  simp [decode, decode0F, reserve, mkZ_major, mkZ_fd, mkZ_fa, mkZ_zfn, mkZ_zd, sub_hi_4_8, sub_lo_4_8] <;> first | assumption | rfl

theorem mfls (d : BitVec 5) (s : BitVec 4) : Statement (.mfls d s) := by
  intro hw w h
  obtain rfl := Option.some.inj h
  simp only [WellFormed, wellFormed, decide_eq_true_eq] at hw
  simp [decode, decode0F, reserve, mkZ_major, mkZ_fd, mkZ_fa, mkZ_zfn, mkZ_zd, sub_hi_8_4, sub_lo_8_4, hw] <;> first | assumption | rfl

theorem mtls (a : BitVec 5) (s : BitVec 4) : Statement (.mtls a s) := by
  intro hw w h
  obtain rfl := Option.some.inj h
  simp only [WellFormed, wellFormed, decide_eq_true_eq] at hw
  simp [decode, decode0F, reserve, mkZ_major, mkZ_fd, mkZ_fa, mkZ_zfn, mkZ_zd, sub_hi_8_4, sub_lo_8_4, hw] <;> first | assumption | rfl

theorem vadd (d : BitVec 5) (a : BitVec 5) (b : BitVec 5) (x : Bool) (w : BitVec 2) (k : Bool) (s : Bool) : Statement (.vadd d a b x w k s) := by
  intro hw w h
  obtain rfl := Option.some.inj h
  simp [decode, decode10, reserve, mkV_major, mkV_fd, mkV_fa, mkV_fb, mkV_f7, mkV_w2, mkV_kb, mkV_sb, sub_hi_1_6, sub_lo_1_6] <;> first | assumption | rfl

theorem vsub (d : BitVec 5) (a : BitVec 5) (b : BitVec 5) (x : Bool) (w : BitVec 2) (k : Bool) (s : Bool) : Statement (.vsub d a b x w k s) := by
  intro hw w h
  obtain rfl := Option.some.inj h
  simp [decode, decode10, reserve, mkV_major, mkV_fd, mkV_fa, mkV_fb, mkV_f7, mkV_w2, mkV_kb, mkV_sb, sub_hi_1_6, sub_lo_1_6] <;> first | assumption | rfl

theorem vrsub (d : BitVec 5) (a : BitVec 5) (b : BitVec 5) (x : Bool) (w : BitVec 2) (k : Bool) (s : Bool) : Statement (.vrsub d a b x w k s) := by
  intro hw w h
  obtain rfl := Option.some.inj h
  simp [decode, decode10, reserve, mkV_major, mkV_fd, mkV_fa, mkV_fb, mkV_f7, mkV_w2, mkV_kb, mkV_sb, sub_hi_1_6, sub_lo_1_6] <;> first | assumption | rfl

theorem vmin (d : BitVec 5) (a : BitVec 5) (b : BitVec 5) (x : Bool) (w : BitVec 2) (k : Bool) (s : Bool) : Statement (.vmin d a b x w k s) := by
  intro hw w h
  obtain rfl := Option.some.inj h
  simp [decode, decode10, reserve, mkV_major, mkV_fd, mkV_fa, mkV_fb, mkV_f7, mkV_w2, mkV_kb, mkV_sb, sub_hi_1_6, sub_lo_1_6] <;> first | assumption | rfl

theorem vmax (d : BitVec 5) (a : BitVec 5) (b : BitVec 5) (x : Bool) (w : BitVec 2) (k : Bool) (s : Bool) : Statement (.vmax d a b x w k s) := by
  intro hw w h
  obtain rfl := Option.some.inj h
  simp [decode, decode10, reserve, mkV_major, mkV_fd, mkV_fa, mkV_fb, mkV_f7, mkV_w2, mkV_kb, mkV_sb, sub_hi_1_6, sub_lo_1_6] <;> first | assumption | rfl

theorem vabs (d : BitVec 5) (a : BitVec 5) (w : BitVec 2) (k : Bool) (s : Bool) : Statement (.vabs d a w k s) := by
  intro hw w h
  obtain rfl := Option.some.inj h
  simp [decode, decode10, reserve, mkV_major, mkV_fd, mkV_fa, mkV_fb, mkV_f7, mkV_w2, mkV_kb, mkV_sb] <;> first | assumption | rfl

theorem vabsd (d : BitVec 5) (a : BitVec 5) (b : BitVec 5) (x : Bool) (w : BitVec 2) (k : Bool) (s : Bool) : Statement (.vabsd d a b x w k s) := by
  intro hw w h
  obtain rfl := Option.some.inj h
  simp [decode, decode10, reserve, mkV_major, mkV_fd, mkV_fa, mkV_fb, mkV_f7, mkV_w2, mkV_kb, mkV_sb, sub_hi_1_6, sub_lo_1_6] <;> first | assumption | rfl

theorem vmov (d : BitVec 5) (b : BitVec 5) (x : Bool) (w : BitVec 2) (k : Bool) (s : Bool) : Statement (.vmov d b x w k s) := by
  intro hw w h
  obtain rfl := Option.some.inj h
  simp [decode, decode10, reserve, mkV_major, mkV_fd, mkV_fa, mkV_fb, mkV_f7, mkV_w2, mkV_kb, mkV_sb, sub_hi_1_6, sub_lo_1_6] <;> first | assumption | rfl

theorem vmul (d : BitVec 5) (a : BitVec 5) (b : BitVec 5) (x : Bool) (w : BitVec 2) (k : Bool) (s : Bool) : Statement (.vmul d a b x w k s) := by
  intro hw w h
  obtain rfl := Option.some.inj h
  simp [decode, decode11, reserve, mkV_major, mkV_fd, mkV_fa, mkV_fb, mkV_f7, mkV_w2, mkV_kb, mkV_sb, sub_hi_1_6, sub_lo_1_6] <;> first | assumption | rfl

theorem vmulh (d : BitVec 5) (a : BitVec 5) (b : BitVec 5) (x : Bool) (w : BitVec 2) (k : Bool) (s : Bool) : Statement (.vmulh d a b x w k s) := by
  intro hw w h
  obtain rfl := Option.some.inj h
  simp [decode, decode11, reserve, mkV_major, mkV_fd, mkV_fa, mkV_fb, mkV_f7, mkV_w2, mkV_kb, mkV_sb, sub_hi_1_6, sub_lo_1_6] <;> first | assumption | rfl

theorem vmacc (d : BitVec 5) (a : BitVec 5) (b : BitVec 5) (x : Bool) (w : BitVec 2) (k : Bool) (s : Bool) : Statement (.vmacc d a b x w k s) := by
  intro hw w h
  obtain rfl := Option.some.inj h
  simp [decode, decode11, reserve, mkV_major, mkV_fd, mkV_fa, mkV_fb, mkV_f7, mkV_w2, mkV_kb, mkV_sb, sub_hi_1_6, sub_lo_1_6] <;> first | assumption | rfl

theorem vdot4 (d : BitVec 5) (a : BitVec 5) (b : BitVec 5) (x : Bool) (w : BitVec 2) (k : Bool) (s : Bool) : Statement (.vdot4 d a b x w k s) := by
  intro hw w h
  obtain rfl := Option.some.inj h
  simp [decode, decode11, reserve, mkV_major, mkV_fd, mkV_fa, mkV_fb, mkV_f7, mkV_w2, mkV_kb, mkV_sb, sub_hi_1_6, sub_lo_1_6] <;> first | assumption | rfl

theorem vdiv (d : BitVec 5) (a : BitVec 5) (b : BitVec 5) (x : Bool) (w : BitVec 2) (k : Bool) (s : Bool) : Statement (.vdiv d a b x w k s) := by
  intro hw w h
  obtain rfl := Option.some.inj h
  simp [decode, decode11, reserve, mkV_major, mkV_fd, mkV_fa, mkV_fb, mkV_f7, mkV_w2, mkV_kb, mkV_sb, sub_hi_1_6, sub_lo_1_6] <;> first | assumption | rfl

theorem vand (d : BitVec 5) (a : BitVec 5) (b : BitVec 5) (x : Bool) (k : Bool) (s : Bool) : Statement (.vand d a b x k s) := by
  intro hw w h
  obtain rfl := Option.some.inj h
  simp [decode, decode12, reserve, mkV_major, mkV_fd, mkV_fa, mkV_fb, mkV_f7, mkV_w2, mkV_kb, mkV_sb, sub_hi_1_6, sub_lo_1_6] <;> first | assumption | rfl

theorem vor (d : BitVec 5) (a : BitVec 5) (b : BitVec 5) (x : Bool) (k : Bool) (s : Bool) : Statement (.vor d a b x k s) := by
  intro hw w h
  obtain rfl := Option.some.inj h
  simp [decode, decode12, reserve, mkV_major, mkV_fd, mkV_fa, mkV_fb, mkV_f7, mkV_w2, mkV_kb, mkV_sb, sub_hi_1_6, sub_lo_1_6] <;> first | assumption | rfl

theorem vxor (d : BitVec 5) (a : BitVec 5) (b : BitVec 5) (x : Bool) (k : Bool) (s : Bool) : Statement (.vxor d a b x k s) := by
  intro hw w h
  obtain rfl := Option.some.inj h
  simp [decode, decode12, reserve, mkV_major, mkV_fd, mkV_fa, mkV_fb, mkV_f7, mkV_w2, mkV_kb, mkV_sb, sub_hi_1_6, sub_lo_1_6] <;> first | assumption | rfl

theorem vandn (d : BitVec 5) (a : BitVec 5) (b : BitVec 5) (x : Bool) (k : Bool) (s : Bool) : Statement (.vandn d a b x k s) := by
  intro hw w h
  obtain rfl := Option.some.inj h
  simp [decode, decode12, reserve, mkV_major, mkV_fd, mkV_fa, mkV_fb, mkV_f7, mkV_w2, mkV_kb, mkV_sb, sub_hi_1_6, sub_lo_1_6] <;> first | assumption | rfl

theorem vsll (d : BitVec 5) (a : BitVec 5) (b : BitVec 5) (x : Bool) (k : Bool) (s : Bool) : Statement (.vsll d a b x k s) := by
  intro hw w h
  obtain rfl := Option.some.inj h
  simp [decode, decode12, reserve, mkV_major, mkV_fd, mkV_fa, mkV_fb, mkV_f7, mkV_w2, mkV_kb, mkV_sb, sub_hi_1_6, sub_lo_1_6] <;> first | assumption | rfl

theorem vsrl (d : BitVec 5) (a : BitVec 5) (b : BitVec 5) (x : Bool) (k : Bool) (s : Bool) : Statement (.vsrl d a b x k s) := by
  intro hw w h
  obtain rfl := Option.some.inj h
  simp [decode, decode12, reserve, mkV_major, mkV_fd, mkV_fa, mkV_fb, mkV_f7, mkV_w2, mkV_kb, mkV_sb, sub_hi_1_6, sub_lo_1_6] <;> first | assumption | rfl

theorem vsra (d : BitVec 5) (a : BitVec 5) (b : BitVec 5) (x : Bool) (k : Bool) (s : Bool) : Statement (.vsra d a b x k s) := by
  intro hw w h
  obtain rfl := Option.some.inj h
  simp [decode, decode12, reserve, mkV_major, mkV_fd, mkV_fa, mkV_fb, mkV_f7, mkV_w2, mkV_kb, mkV_sb, sub_hi_1_6, sub_lo_1_6] <;> first | assumption | rfl

theorem vpopc (d : BitVec 5) (a : BitVec 5) (k : Bool) (s : Bool) : Statement (.vpopc d a k s) := by
  intro hw w h
  obtain rfl := Option.some.inj h
  simp [decode, decode12, reserve, mkV_major, mkV_fd, mkV_fa, mkV_fb, mkV_f7, mkV_w2, mkV_kb, mkV_sb] <;> first | assumption | rfl

theorem vceq (d : BitVec 4) (a : BitVec 5) (b : BitVec 5) (x : Bool) (k : Bool) (s : Bool) : Statement (.vceq d a b x k s) := by
  intro hw w h
  obtain rfl := Option.some.inj h
  simp [decode, decode13, reserve, mkV_major, mkV_fd, mkV_fa, mkV_fb, mkV_f7, mkV_w2, mkV_kb, mkV_sb, sub_hi_1_4, sub_hi_1_6, sub_lo_1_4, sub_lo_1_6] <;> first | assumption | rfl

theorem vcne (d : BitVec 4) (a : BitVec 5) (b : BitVec 5) (x : Bool) (k : Bool) (s : Bool) : Statement (.vcne d a b x k s) := by
  intro hw w h
  obtain rfl := Option.some.inj h
  simp [decode, decode13, reserve, mkV_major, mkV_fd, mkV_fa, mkV_fb, mkV_f7, mkV_w2, mkV_kb, mkV_sb, sub_hi_1_4, sub_hi_1_6, sub_lo_1_4, sub_lo_1_6] <;> first | assumption | rfl

theorem vclt (d : BitVec 4) (a : BitVec 5) (b : BitVec 5) (x : Bool) (k : Bool) (s : Bool) : Statement (.vclt d a b x k s) := by
  intro hw w h
  obtain rfl := Option.some.inj h
  simp [decode, decode13, reserve, mkV_major, mkV_fd, mkV_fa, mkV_fb, mkV_f7, mkV_w2, mkV_kb, mkV_sb, sub_hi_1_4, sub_hi_1_6, sub_lo_1_4, sub_lo_1_6] <;> first | assumption | rfl

theorem vcle (d : BitVec 4) (a : BitVec 5) (b : BitVec 5) (x : Bool) (k : Bool) (s : Bool) : Statement (.vcle d a b x k s) := by
  intro hw w h
  obtain rfl := Option.some.inj h
  simp [decode, decode13, reserve, mkV_major, mkV_fd, mkV_fa, mkV_fb, mkV_f7, mkV_w2, mkV_kb, mkV_sb, sub_hi_1_4, sub_hi_1_6, sub_lo_1_4, sub_lo_1_6] <;> first | assumption | rfl

theorem vcgt (d : BitVec 4) (a : BitVec 5) (b : BitVec 5) (x : Bool) (k : Bool) (s : Bool) : Statement (.vcgt d a b x k s) := by
  intro hw w h
  obtain rfl := Option.some.inj h
  simp [decode, decode13, reserve, mkV_major, mkV_fd, mkV_fa, mkV_fb, mkV_f7, mkV_w2, mkV_kb, mkV_sb, sub_hi_1_4, sub_hi_1_6, sub_lo_1_4, sub_lo_1_6] <;> first | assumption | rfl

theorem vcge (d : BitVec 4) (a : BitVec 5) (b : BitVec 5) (x : Bool) (k : Bool) (s : Bool) : Statement (.vcge d a b x k s) := by
  intro hw w h
  obtain rfl := Option.some.inj h
  simp [decode, decode13, reserve, mkV_major, mkV_fd, mkV_fa, mkV_fb, mkV_f7, mkV_w2, mkV_kb, mkV_sb, sub_hi_1_4, sub_hi_1_6, sub_lo_1_4, sub_lo_1_6] <;> first | assumption | rfl

theorem vfadd (d : BitVec 5) (a : BitVec 5) (b : BitVec 5) (x : Bool) (w : BitVec 2) (k : Bool) : Statement (.vfadd d a b x w k) := by
  intro hw w h
  obtain rfl := Option.some.inj h
  simp [decode, decode14, reserve, mkV_major, mkV_fd, mkV_fa, mkV_fb, mkV_f7, mkV_w2, mkV_kb, mkV_sb, sub_hi_1_6, sub_lo_1_6] <;> first | assumption | rfl

theorem vfsub (d : BitVec 5) (a : BitVec 5) (b : BitVec 5) (x : Bool) (w : BitVec 2) (k : Bool) : Statement (.vfsub d a b x w k) := by
  intro hw w h
  obtain rfl := Option.some.inj h
  simp [decode, decode14, reserve, mkV_major, mkV_fd, mkV_fa, mkV_fb, mkV_f7, mkV_w2, mkV_kb, mkV_sb, sub_hi_1_6, sub_lo_1_6] <;> first | assumption | rfl

theorem vfmul (d : BitVec 5) (a : BitVec 5) (b : BitVec 5) (x : Bool) (w : BitVec 2) (k : Bool) : Statement (.vfmul d a b x w k) := by
  intro hw w h
  obtain rfl := Option.some.inj h
  simp [decode, decode14, reserve, mkV_major, mkV_fd, mkV_fa, mkV_fb, mkV_f7, mkV_w2, mkV_kb, mkV_sb, sub_hi_1_6, sub_lo_1_6] <;> first | assumption | rfl

theorem vfdiv (d : BitVec 5) (a : BitVec 5) (b : BitVec 5) (x : Bool) (w : BitVec 2) (k : Bool) : Statement (.vfdiv d a b x w k) := by
  intro hw w h
  obtain rfl := Option.some.inj h
  simp [decode, decode14, reserve, mkV_major, mkV_fd, mkV_fa, mkV_fb, mkV_f7, mkV_w2, mkV_kb, mkV_sb, sub_hi_1_6, sub_lo_1_6] <;> first | assumption | rfl

theorem vfsqrt (d : BitVec 5) (a : BitVec 5) (w : BitVec 2) (k : Bool) : Statement (.vfsqrt d a w k) := by
  intro hw w h
  obtain rfl := Option.some.inj h
  simp [decode, decode14, reserve, mkV_major, mkV_fd, mkV_fa, mkV_fb, mkV_f7, mkV_w2, mkV_kb, mkV_sb] <;> first | assumption | rfl

theorem vfmin (d : BitVec 5) (a : BitVec 5) (b : BitVec 5) (x : Bool) (w : BitVec 2) (k : Bool) : Statement (.vfmin d a b x w k) := by
  intro hw w h
  obtain rfl := Option.some.inj h
  simp [decode, decode14, reserve, mkV_major, mkV_fd, mkV_fa, mkV_fb, mkV_f7, mkV_w2, mkV_kb, mkV_sb, sub_hi_1_6, sub_lo_1_6] <;> first | assumption | rfl

theorem vfmax (d : BitVec 5) (a : BitVec 5) (b : BitVec 5) (x : Bool) (w : BitVec 2) (k : Bool) : Statement (.vfmax d a b x w k) := by
  intro hw w h
  obtain rfl := Option.some.inj h
  simp [decode, decode14, reserve, mkV_major, mkV_fd, mkV_fa, mkV_fb, mkV_f7, mkV_w2, mkV_kb, mkV_sb, sub_hi_1_6, sub_lo_1_6] <;> first | assumption | rfl

theorem vfabs (d : BitVec 5) (a : BitVec 5) (w : BitVec 2) (k : Bool) : Statement (.vfabs d a w k) := by
  intro hw w h
  obtain rfl := Option.some.inj h
  simp [decode, decode14, reserve, mkV_major, mkV_fd, mkV_fa, mkV_fb, mkV_f7, mkV_w2, mkV_kb, mkV_sb] <;> first | assumption | rfl

theorem vfneg (d : BitVec 5) (a : BitVec 5) (w : BitVec 2) (k : Bool) : Statement (.vfneg d a w k) := by
  intro hw w h
  obtain rfl := Option.some.inj h
  simp [decode, decode14, reserve, mkV_major, mkV_fd, mkV_fa, mkV_fb, mkV_f7, mkV_w2, mkV_kb, mkV_sb] <;> first | assumption | rfl

theorem vfmacc (d : BitVec 5) (a : BitVec 5) (b : BitVec 5) (x : Bool) (w : BitVec 2) (k : Bool) : Statement (.vfmacc d a b x w k) := by
  intro hw w h
  obtain rfl := Option.some.inj h
  simp [decode, decode15, reserve, mkV_major, mkV_fd, mkV_fa, mkV_fb, mkV_f7, mkV_w2, mkV_kb, mkV_sb, sub_hi_1_6, sub_lo_1_6] <;> first | assumption | rfl

theorem vfnmacc (d : BitVec 5) (a : BitVec 5) (b : BitVec 5) (x : Bool) (w : BitVec 2) (k : Bool) : Statement (.vfnmacc d a b x w k) := by
  intro hw w h
  obtain rfl := Option.some.inj h
  simp [decode, decode15, reserve, mkV_major, mkV_fd, mkV_fa, mkV_fb, mkV_f7, mkV_w2, mkV_kb, mkV_sb, sub_hi_1_6, sub_lo_1_6] <;> first | assumption | rfl

theorem vfmadd (d : BitVec 5) (a : BitVec 5) (b : BitVec 5) (x : Bool) (w : BitVec 2) (k : Bool) : Statement (.vfmadd d a b x w k) := by
  intro hw w h
  obtain rfl := Option.some.inj h
  simp [decode, decode15, reserve, mkV_major, mkV_fd, mkV_fa, mkV_fb, mkV_f7, mkV_w2, mkV_kb, mkV_sb, sub_hi_1_6, sub_lo_1_6] <;> first | assumption | rfl

theorem vcvt (d : BitVec 5) (a : BitVec 5) (e : BitVec 3) (f : BitVec 4) (k : Bool) (s : Bool) : Statement (.vcvt d a e f k s) := by
  intro hw w h
  obtain rfl := Option.some.inj h
  simp only [WellFormed, wellFormed, decide_eq_true_eq] at hw
  simp [decode, decode16, reserve, mkV_major, mkV_fd, mkV_fa, mkV_fb, mkV_f7, mkV_w2, mkV_kb, mkV_sb, sub_hi_3_4, sub_lo_3_4, hw] <;> first | assumption | rfl

theorem mpush (a : BitVec 4) : Statement (.mpush a) := by
  intro hw w h
  obtain rfl := Option.some.inj h
  simp [decode, decode17, reserve, mkV_major, mkV_fd, mkV_fa, mkV_fb, mkV_f7, mkV_w2, mkV_kb, mkV_sb, sub_hi_1_4, sub_lo_1_4] <;> first | assumption | rfl

theorem minv : Statement (.minv) := by
  intro hw w h
  obtain rfl := Option.some.inj h
  simp [decode, decode17, reserve, mkV_major, mkV_fd, mkV_fa, mkV_fb, mkV_f7, mkV_w2, mkV_kb, mkV_sb] <;> first | assumption | rfl

theorem mpop : Statement (.mpop) := by
  intro hw w h
  obtain rfl := Option.some.inj h
  simp [decode, decode17, reserve, mkV_major, mkV_fd, mkV_fa, mkV_fb, mkV_f7, mkV_w2, mkV_kb, mkV_sb] <;> first | assumption | rfl

theorem mand (d : BitVec 4) (a : BitVec 4) (b : BitVec 4) (k : Bool) : Statement (.mand d a b k) := by
  intro hw w h
  obtain rfl := Option.some.inj h
  simp [decode, decode17, reserve, mkV_major, mkV_fd, mkV_fa, mkV_fb, mkV_f7, mkV_w2, mkV_kb, mkV_sb, sub_hi_1_4, sub_lo_1_4] <;> first | assumption | rfl

theorem mor (d : BitVec 4) (a : BitVec 4) (b : BitVec 4) (k : Bool) : Statement (.mor d a b k) := by
  intro hw w h
  obtain rfl := Option.some.inj h
  simp [decode, decode17, reserve, mkV_major, mkV_fd, mkV_fa, mkV_fb, mkV_f7, mkV_w2, mkV_kb, mkV_sb, sub_hi_1_4, sub_lo_1_4] <;> first | assumption | rfl

theorem mxor (d : BitVec 4) (a : BitVec 4) (b : BitVec 4) (k : Bool) : Statement (.mxor d a b k) := by
  intro hw w h
  obtain rfl := Option.some.inj h
  simp [decode, decode17, reserve, mkV_major, mkV_fd, mkV_fa, mkV_fb, mkV_f7, mkV_w2, mkV_kb, mkV_sb, sub_hi_1_4, sub_lo_1_4] <;> first | assumption | rfl

theorem mmov (d : BitVec 4) (a : BitVec 4) (k : Bool) : Statement (.mmov d a k) := by
  intro hw w h
  obtain rfl := Option.some.inj h
  simp [decode, decode17, reserve, mkV_major, mkV_fd, mkV_fa, mkV_fb, mkV_f7, mkV_w2, mkV_kb, mkV_sb, sub_hi_1_4, sub_lo_1_4] <;> first | assumption | rfl

theorem mcnt (d : BitVec 5) (a : BitVec 4) (k : Bool) : Statement (.mcnt d a k) := by
  intro hw w h
  obtain rfl := Option.some.inj h
  simp [decode, decode17, reserve, mkV_major, mkV_fd, mkV_fa, mkV_fb, mkV_f7, mkV_w2, mkV_kb, mkV_sb, sub_hi_1_4, sub_lo_1_4] <;> first | assumption | rfl

theorem many (d : BitVec 5) (a : BitVec 4) (k : Bool) : Statement (.many d a k) := by
  intro hw w h
  obtain rfl := Option.some.inj h
  simp [decode, decode17, reserve, mkV_major, mkV_fd, mkV_fa, mkV_fb, mkV_f7, mkV_w2, mkV_kb, mkV_sb, sub_hi_1_4, sub_lo_1_4] <;> first | assumption | rfl

theorem mfirst (d : BitVec 5) (a : BitVec 4) (k : Bool) : Statement (.mfirst d a k) := by
  intro hw w h
  obtain rfl := Option.some.inj h
  simp [decode, decode17, reserve, mkV_major, mkV_fd, mkV_fa, mkV_fb, mkV_f7, mkV_w2, mkV_kb, mkV_sb, sub_hi_1_4, sub_lo_1_4] <;> first | assumption | rfl

theorem vslideup (d : BitVec 5) (a : BitVec 5) (b : BitVec 5) (k : Bool) : Statement (.vslideup d a b k) := by
  intro hw w h
  obtain rfl := Option.some.inj h
  simp [decode, decode18, reserve, mkV_major, mkV_fd, mkV_fa, mkV_fb, mkV_f7, mkV_w2, mkV_kb, mkV_sb] <;> first | assumption | rfl

theorem vslidedn (d : BitVec 5) (a : BitVec 5) (b : BitVec 5) (k : Bool) : Statement (.vslidedn d a b k) := by
  intro hw w h
  obtain rfl := Option.some.inj h
  simp [decode, decode18, reserve, mkV_major, mkV_fd, mkV_fa, mkV_fb, mkV_f7, mkV_w2, mkV_kb, mkV_sb] <;> first | assumption | rfl

theorem vslide1up (d : BitVec 5) (a : BitVec 5) (b : BitVec 5) (k : Bool) : Statement (.vslide1up d a b k) := by
  intro hw w h
  obtain rfl := Option.some.inj h
  simp [decode, decode18, reserve, mkV_major, mkV_fd, mkV_fa, mkV_fb, mkV_f7, mkV_w2, mkV_kb, mkV_sb] <;> first | assumption | rfl

theorem vslide1dn (d : BitVec 5) (a : BitVec 5) (b : BitVec 5) (k : Bool) : Statement (.vslide1dn d a b k) := by
  intro hw w h
  obtain rfl := Option.some.inj h
  simp [decode, decode18, reserve, mkV_major, mkV_fd, mkV_fa, mkV_fb, mkV_f7, mkV_w2, mkV_kb, mkV_sb] <;> first | assumption | rfl

theorem vperm (d : BitVec 5) (a : BitVec 5) (b : BitVec 5) (k : Bool) : Statement (.vperm d a b k) := by
  intro hw w h
  obtain rfl := Option.some.inj h
  simp [decode, decode18, reserve, mkV_major, mkV_fd, mkV_fa, mkV_fb, mkV_f7, mkV_w2, mkV_kb, mkV_sb] <;> first | assumption | rfl

theorem vcompress (d : BitVec 5) (a : BitVec 5) (b : BitVec 4) (k : Bool) : Statement (.vcompress d a b k) := by
  intro hw w h
  obtain rfl := Option.some.inj h
  simp [decode, decode18, reserve, mkV_major, mkV_fd, mkV_fa, mkV_fb, mkV_f7, mkV_w2, mkV_kb, mkV_sb, sub_hi_1_4, sub_lo_1_4] <;> first | assumption | rfl

theorem vbcast (d : BitVec 5) (a : BitVec 5) (b : BitVec 5) (k : Bool) : Statement (.vbcast d a b k) := by
  intro hw w h
  obtain rfl := Option.some.inj h
  simp [decode, decode18, reserve, mkV_major, mkV_fd, mkV_fa, mkV_fb, mkV_f7, mkV_w2, mkV_kb, mkV_sb] <;> first | assumption | rfl

theorem vmvxs (d : BitVec 5) (a : BitVec 5) (s : Bool) : Statement (.vmvxs d a s) := by
  intro hw w h
  obtain rfl := Option.some.inj h
  simp [decode, decode18, reserve, mkV_major, mkV_fd, mkV_fa, mkV_fb, mkV_f7, mkV_w2, mkV_kb, mkV_sb] <;> first | assumption | rfl

theorem vmvsx (d : BitVec 5) (a : BitVec 5) (k : Bool) : Statement (.vmvsx d a k) := by
  intro hw w h
  obtain rfl := Option.some.inj h
  simp [decode, decode18, reserve, mkV_major, mkV_fd, mkV_fa, mkV_fb, mkV_f7, mkV_w2, mkV_kb, mkV_sb] <;> first | assumption | rfl

theorem vrsum (d : BitVec 5) (a : BitVec 5) (k : Bool) (s : Bool) : Statement (.vrsum d a k s) := by
  intro hw w h
  obtain rfl := Option.some.inj h
  simp [decode, decode19, reserve, mkV_major, mkV_fd, mkV_fa, mkV_fb, mkV_f7, mkV_w2, mkV_kb, mkV_sb] <;> first | assumption | rfl

theorem vrmin (d : BitVec 5) (a : BitVec 5) (k : Bool) (s : Bool) : Statement (.vrmin d a k s) := by
  intro hw w h
  obtain rfl := Option.some.inj h
  simp [decode, decode19, reserve, mkV_major, mkV_fd, mkV_fa, mkV_fb, mkV_f7, mkV_w2, mkV_kb, mkV_sb] <;> first | assumption | rfl

theorem vrmax (d : BitVec 5) (a : BitVec 5) (k : Bool) (s : Bool) : Statement (.vrmax d a k s) := by
  intro hw w h
  obtain rfl := Option.some.inj h
  simp [decode, decode19, reserve, mkV_major, mkV_fd, mkV_fa, mkV_fb, mkV_f7, mkV_w2, mkV_kb, mkV_sb] <;> first | assumption | rfl

theorem vrmini (d : BitVec 5) (a : BitVec 5) (k : Bool) (s : Bool) : Statement (.vrmini d a k s) := by
  intro hw w h
  obtain rfl := Option.some.inj h
  simp [decode, decode19, reserve, mkV_major, mkV_fd, mkV_fa, mkV_fb, mkV_f7, mkV_w2, mkV_kb, mkV_sb] <;> first | assumption | rfl

theorem vrmaxi (d : BitVec 5) (a : BitVec 5) (k : Bool) (s : Bool) : Statement (.vrmaxi d a k s) := by
  intro hw w h
  obtain rfl := Option.some.inj h
  simp [decode, decode19, reserve, mkV_major, mkV_fd, mkV_fa, mkV_fb, mkV_f7, mkV_w2, mkV_kb, mkV_sb] <;> first | assumption | rfl

theorem vscan (d : BitVec 5) (a : BitVec 5) (k : Bool) (s : Bool) : Statement (.vscan d a k s) := by
  intro hw w h
  obtain rfl := Option.some.inj h
  simp [decode, decode19, reserve, mkV_major, mkV_fd, mkV_fa, mkV_fb, mkV_f7, mkV_w2, mkV_kb, mkV_sb] <;> first | assumption | rfl

theorem vscanx (d : BitVec 5) (a : BitVec 5) (k : Bool) (s : Bool) : Statement (.vscanx d a k s) := by
  intro hw w h
  obtain rfl := Option.some.inj h
  simp [decode, decode19, reserve, mkV_major, mkV_fd, mkV_fa, mkV_fb, mkV_f7, mkV_w2, mkV_kb, mkV_sb] <;> first | assumption | rfl

theorem vsegsum (d : BitVec 5) (a : BitVec 5) (b : BitVec 4) (k : Bool) (s : Bool) : Statement (.vsegsum d a b k s) := by
  intro hw w h
  obtain rfl := Option.some.inj h
  simp [decode, decode1A, reserve, mkV_major, mkV_fd, mkV_fa, mkV_fb, mkV_f7, mkV_w2, mkV_kb, mkV_sb, sub_hi_1_4, sub_lo_1_4] <;> first | assumption | rfl

theorem vsegmin (d : BitVec 5) (a : BitVec 5) (b : BitVec 4) (k : Bool) (s : Bool) : Statement (.vsegmin d a b k s) := by
  intro hw w h
  obtain rfl := Option.some.inj h
  simp [decode, decode1A, reserve, mkV_major, mkV_fd, mkV_fa, mkV_fb, mkV_f7, mkV_w2, mkV_kb, mkV_sb, sub_hi_1_4, sub_lo_1_4] <;> first | assumption | rfl

theorem vsegmax (d : BitVec 5) (a : BitVec 5) (b : BitVec 4) (k : Bool) (s : Bool) : Statement (.vsegmax d a b k s) := by
  intro hw w h
  obtain rfl := Option.some.inj h
  simp [decode, decode1A, reserve, mkV_major, mkV_fd, mkV_fa, mkV_fb, mkV_f7, mkV_w2, mkV_kb, mkV_sb, sub_hi_1_4, sub_lo_1_4] <;> first | assumption | rfl

theorem vsegscan (d : BitVec 5) (a : BitVec 5) (b : BitVec 4) (k : Bool) (s : Bool) : Statement (.vsegscan d a b k s) := by
  intro hw w h
  obtain rfl := Option.some.inj h
  simp [decode, decode1A, reserve, mkV_major, mkV_fd, mkV_fa, mkV_fb, mkV_f7, mkV_w2, mkV_kb, mkV_sb, sub_hi_1_4, sub_lo_1_4] <;> first | assumption | rfl

theorem vmerge (d : BitVec 5) (a : BitVec 5) (b : BitVec 5) (s : Bool) : Statement (.vmerge d a b s) := by
  intro hw w h
  obtain rfl := Option.some.inj h
  simp [decode, decode1B, reserve, mkV_major, mkV_fd, mkV_fa, mkV_fb, mkV_f7, mkV_w2, mkV_kb, mkV_sb] <;> first | assumption | rfl

theorem vtopk (d : BitVec 5) (a : BitVec 5) (b : BitVec 5) (s : Bool) : Statement (.vtopk d a b s) := by
  intro hw w h
  obtain rfl := Option.some.inj h
  simp [decode, decode1B, reserve, mkV_major, mkV_fd, mkV_fa, mkV_fb, mkV_f7, mkV_w2, mkV_kb, mkV_sb] <;> first | assumption | rfl

theorem vmrgk (d : BitVec 5) (a : BitVec 5) (b : BitVec 5) (s : Bool) : Statement (.vmrgk d a b s) := by
  intro hw w h
  obtain rfl := Option.some.inj h
  simp [decode, decode1B, reserve, mkV_major, mkV_fd, mkV_fa, mkV_fb, mkV_f7, mkV_w2, mkV_kb, mkV_sb] <;> first | assumption | rfl

theorem vsortstep (d : BitVec 5) (a : BitVec 5) (b : BitVec 5) (s : Bool) : Statement (.vsortstep d a b s) := by
  intro hw w h
  obtain rfl := Option.some.inj h
  simp [decode, decode1B, reserve, mkV_major, mkV_fd, mkV_fa, mkV_fb, mkV_f7, mkV_w2, mkV_kb, mkV_sb] <;> first | assumption | rfl

theorem vbmax (a : BitVec 5) (w : BitVec 2) (k : Bool) : Statement (.vbmax a w k) := by
  intro hw w h
  obtain rfl := Option.some.inj h
  simp [decode, decode1C, reserve, mkV_major, mkV_fd, mkV_fa, mkV_fb, mkV_f7, mkV_w2, mkV_kb, mkV_sb] <;> first | assumption | rfl

theorem vscale (d : BitVec 5) (a : BitVec 5) (w : BitVec 2) (k : Bool) : Statement (.vscale d a w k) := by
  intro hw w h
  obtain rfl := Option.some.inj h
  simp [decode, decode1C, reserve, mkV_major, mkV_fd, mkV_fa, mkV_fb, mkV_f7, mkV_w2, mkV_kb, mkV_sb] <;> first | assumption | rfl

theorem vquant (d : BitVec 5) (a : BitVec 5) (w : BitVec 2) (k : Bool) : Statement (.vquant d a w k) := by
  intro hw w h
  obtain rfl := Option.some.inj h
  simp [decode, decode1C, reserve, mkV_major, mkV_fd, mkV_fa, mkV_fb, mkV_f7, mkV_w2, mkV_kb, mkV_sb] <;> first | assumption | rfl

theorem vdeq (d : BitVec 5) (a : BitVec 5) (w : BitVec 2) (k : Bool) : Statement (.vdeq d a w k) := by
  intro hw w h
  obtain rfl := Option.some.inj h
  simp [decode, decode1C, reserve, mkV_major, mkV_fd, mkV_fa, mkV_fb, mkV_f7, mkV_w2, mkV_kb, mkV_sb] <;> first | assumption | rfl

theorem vsfma (d : BitVec 5) (a : BitVec 5) (b : BitVec 5) (w : BitVec 2) (k : Bool) : Statement (.vsfma d a b w k) := by
  intro hw w h
  obtain rfl := Option.some.inj h
  simp [decode, decode1C, reserve, mkV_major, mkV_fd, mkV_fa, mkV_fb, mkV_f7, mkV_w2, mkV_kb, mkV_sb] <;> first | assumption | rfl

theorem vseti (d : BitVec 5) (a : BitVec 5) (t : BitVec 10) : Statement (.vseti d a t) := by
  intro hw w h
  obtain rfl := Option.some.inj h
  simp [decode, decode1D, reserve, mkZ_major, mkZ_fd, mkZ_fa, mkZ_zfn, mkZ_zd, sub_hi_2_10, sub_lo_2_10] <;> first | assumption | rfl

theorem vsetvl (d : BitVec 5) (a : BitVec 5) : Statement (.vsetvl d a) := by
  intro hw w h
  obtain rfl := Option.some.inj h
  simp [decode, decode1D, reserve, mkZ_major, mkZ_fd, mkZ_fa, mkZ_zfn, mkZ_zd] <;> first | assumption | rfl

theorem vsett (d : BitVec 5) (a : BitVec 5) : Statement (.vsett d a) := by
  intro hw w h
  obtain rfl := Option.some.inj h
  simp [decode, decode1D, reserve, mkZ_major, mkZ_fd, mkZ_fa, mkZ_zfn, mkZ_zd] <;> first | assumption | rfl

theorem vshape (a : BitVec 5) : Statement (.vshape a) := by
  intro hw w h
  obtain rfl := Option.some.inj h
  simp [decode, decode1D, reserve, mkZ_major, mkZ_fd, mkZ_fa, mkZ_zfn, mkZ_zd] <;> first | assumption | rfl

theorem vshapei (c : BitVec 12) : Statement (.vshapei c) := by
  intro hw w h
  obtain rfl := Option.some.inj h
  simp [decode, decode1D, reserve, mkZ_major, mkZ_fd, mkZ_fa, mkZ_zfn, mkZ_zd] <;> first | assumption | rfl

theorem lds8 (t : BitVec 5) (b : BitVec 5) (i : BitVec 5) (s : BitVec 3) (e : BitVec 3) : Statement (.lds8 t b i s e) := by
  intro hw w h
  obtain rfl := Option.some.inj h
  simp [decode, decode20, reserve, mkM_major, mkM_fd, mkM_fa, mkM_fb, mkM_sn, mkM_es, mkM_f3, mkM_kb, mkM_sb] <;> first | assumption | rfl

theorem ldn8 (t : BitVec 5) (b : BitVec 5) (i : BitVec 5) (s : BitVec 3) (e : BitVec 3) : Statement (.ldn8 t b i s e) := by
  intro hw w h
  obtain rfl := Option.some.inj h
  simp [decode, decode20, reserve, mkM_major, mkM_fd, mkM_fa, mkM_fb, mkM_sn, mkM_es, mkM_f3, mkM_kb, mkM_sb] <;> first | assumption | rfl

theorem lds16 (t : BitVec 5) (b : BitVec 5) (i : BitVec 5) (s : BitVec 3) (e : BitVec 3) : Statement (.lds16 t b i s e) := by
  intro hw w h
  obtain rfl := Option.some.inj h
  simp [decode, decode20, reserve, mkM_major, mkM_fd, mkM_fa, mkM_fb, mkM_sn, mkM_es, mkM_f3, mkM_kb, mkM_sb] <;> first | assumption | rfl

theorem ldn16 (t : BitVec 5) (b : BitVec 5) (i : BitVec 5) (s : BitVec 3) (e : BitVec 3) : Statement (.ldn16 t b i s e) := by
  intro hw w h
  obtain rfl := Option.some.inj h
  simp [decode, decode20, reserve, mkM_major, mkM_fd, mkM_fa, mkM_fb, mkM_sn, mkM_es, mkM_f3, mkM_kb, mkM_sb] <;> first | assumption | rfl

theorem lds32 (t : BitVec 5) (b : BitVec 5) (i : BitVec 5) (s : BitVec 3) (e : BitVec 3) : Statement (.lds32 t b i s e) := by
  intro hw w h
  obtain rfl := Option.some.inj h
  simp [decode, decode20, reserve, mkM_major, mkM_fd, mkM_fa, mkM_fb, mkM_sn, mkM_es, mkM_f3, mkM_kb, mkM_sb] <;> first | assumption | rfl

theorem ldn32 (t : BitVec 5) (b : BitVec 5) (i : BitVec 5) (s : BitVec 3) (e : BitVec 3) : Statement (.ldn32 t b i s e) := by
  intro hw w h
  obtain rfl := Option.some.inj h
  simp [decode, decode20, reserve, mkM_major, mkM_fd, mkM_fa, mkM_fb, mkM_sn, mkM_es, mkM_f3, mkM_kb, mkM_sb] <;> first | assumption | rfl

theorem ld64 (t : BitVec 5) (b : BitVec 5) (i : BitVec 5) (s : BitVec 3) (e : BitVec 3) : Statement (.ld64 t b i s e) := by
  intro hw w h
  obtain rfl := Option.some.inj h
  simp [decode, decode20, reserve, mkM_major, mkM_fd, mkM_fa, mkM_fb, mkM_sn, mkM_es, mkM_f3, mkM_kb, mkM_sb] <;> first | assumption | rfl

theorem st8 (t : BitVec 5) (b : BitVec 5) (i : BitVec 5) (s : BitVec 3) (e : BitVec 3) (n : Bool) : Statement (.st8 t b i s e n) := by
  intro hw w h
  obtain rfl := Option.some.inj h
  simp [decode, decode21, reserve, mkM_major, mkM_fd, mkM_fa, mkM_fb, mkM_sn, mkM_es, mkM_f3, mkM_kb, mkM_sb] <;> first | assumption | rfl

theorem st16 (t : BitVec 5) (b : BitVec 5) (i : BitVec 5) (s : BitVec 3) (e : BitVec 3) (n : Bool) : Statement (.st16 t b i s e n) := by
  intro hw w h
  obtain rfl := Option.some.inj h
  simp [decode, decode21, reserve, mkM_major, mkM_fd, mkM_fa, mkM_fb, mkM_sn, mkM_es, mkM_f3, mkM_kb, mkM_sb] <;> first | assumption | rfl

theorem st32 (t : BitVec 5) (b : BitVec 5) (i : BitVec 5) (s : BitVec 3) (e : BitVec 3) (n : Bool) : Statement (.st32 t b i s e n) := by
  intro hw w h
  obtain rfl := Option.some.inj h
  simp [decode, decode21, reserve, mkM_major, mkM_fd, mkM_fa, mkM_fb, mkM_sn, mkM_es, mkM_f3, mkM_kb, mkM_sb] <;> first | assumption | rfl

theorem st64 (t : BitVec 5) (b : BitVec 5) (i : BitVec 5) (s : BitVec 3) (e : BitVec 3) (n : Bool) : Statement (.st64 t b i s e n) := by
  intro hw w h
  obtain rfl := Option.some.inj h
  simp [decode, decode21, reserve, mkM_major, mkM_fd, mkM_fa, mkM_fb, mkM_sn, mkM_es, mkM_f3, mkM_kb, mkM_sb] <;> first | assumption | rfl

theorem saadd (t : BitVec 5) (b : BitVec 5) (i : BitVec 5) (s : BitVec 3) (e : BitVec 3) : Statement (.saadd t b i s e) := by
  intro hw w h
  obtain rfl := Option.some.inj h
  simp [decode, decode21, reserve, mkM_major, mkM_fd, mkM_fa, mkM_fb, mkM_sn, mkM_es, mkM_f3, mkM_kb, mkM_sb] <;> first | assumption | rfl

theorem samax (t : BitVec 5) (b : BitVec 5) (i : BitVec 5) (s : BitVec 3) (e : BitVec 3) : Statement (.samax t b i s e) := by
  intro hw w h
  obtain rfl := Option.some.inj h
  simp [decode, decode21, reserve, mkM_major, mkM_fd, mkM_fa, mkM_fb, mkM_sn, mkM_es, mkM_f3, mkM_kb, mkM_sb] <;> first | assumption | rfl

theorem saswap (t : BitVec 5) (b : BitVec 5) (i : BitVec 5) (s : BitVec 3) (e : BitVec 3) : Statement (.saswap t b i s e) := by
  intro hw w h
  obtain rfl := Option.some.inj h
  simp [decode, decode21, reserve, mkM_major, mkM_fd, mkM_fa, mkM_fb, mkM_sn, mkM_es, mkM_f3, mkM_kb, mkM_sb] <;> first | assumption | rfl

theorem sacas (t : BitVec 5) (b : BitVec 5) (i : BitVec 5) (s : BitVec 3) (e : BitVec 3) : Statement (.sacas t b i s e) := by
  intro hw w h
  obtain rfl := Option.some.inj h
  simp [decode, decode21, reserve, mkM_major, mkM_fd, mkM_fa, mkM_fb, mkM_sn, mkM_es, mkM_f3, mkM_kb, mkM_sb] <;> first | assumption | rfl

theorem vld (t : BitVec 5) (b : BitVec 5) (s : BitVec 3) (e : BitVec 3) (k : Bool) (n : Bool) : Statement (.vld t b s e k n) := by
  intro hw w h
  obtain rfl := Option.some.inj h
  simp [decode, decode22, reserve, mkM_major, mkM_fd, mkM_fa, mkM_fb, mkM_sn, mkM_es, mkM_f3, mkM_kb, mkM_sb] <;> first | assumption | rfl

theorem vlds (t : BitVec 5) (b : BitVec 5) (i : BitVec 5) (s : BitVec 3) (e : BitVec 3) (k : Bool) (n : Bool) : Statement (.vlds t b i s e k n) := by
  intro hw w h
  obtain rfl := Option.some.inj h
  simp [decode, decode22, reserve, mkM_major, mkM_fd, mkM_fa, mkM_fb, mkM_sn, mkM_es, mkM_f3, mkM_kb, mkM_sb] <;> first | assumption | rfl

theorem vld2d (t : BitVec 5) (b : BitVec 5) (i : BitVec 5) (s : BitVec 3) (e : BitVec 3) (k : Bool) (n : Bool) : Statement (.vld2d t b i s e k n) := by
  intro hw w h
  obtain rfl := Option.some.inj h
  simp [decode, decode22, reserve, mkM_major, mkM_fd, mkM_fa, mkM_fb, mkM_sn, mkM_es, mkM_f3, mkM_kb, mkM_sb] <;> first | assumption | rfl

theorem vst (t : BitVec 5) (b : BitVec 5) (s : BitVec 3) (e : BitVec 3) (k : Bool) (n : Bool) : Statement (.vst t b s e k n) := by
  intro hw w h
  obtain rfl := Option.some.inj h
  simp [decode, decode23, reserve, mkM_major, mkM_fd, mkM_fa, mkM_fb, mkM_sn, mkM_es, mkM_f3, mkM_kb, mkM_sb] <;> first | assumption | rfl

theorem vsts (t : BitVec 5) (b : BitVec 5) (i : BitVec 5) (s : BitVec 3) (e : BitVec 3) (k : Bool) (n : Bool) : Statement (.vsts t b i s e k n) := by
  intro hw w h
  obtain rfl := Option.some.inj h
  simp [decode, decode23, reserve, mkM_major, mkM_fd, mkM_fa, mkM_fb, mkM_sn, mkM_es, mkM_f3, mkM_kb, mkM_sb] <;> first | assumption | rfl

theorem vst2d (t : BitVec 5) (b : BitVec 5) (i : BitVec 5) (s : BitVec 3) (e : BitVec 3) (k : Bool) (n : Bool) : Statement (.vst2d t b i s e k n) := by
  intro hw w h
  obtain rfl := Option.some.inj h
  simp [decode, decode23, reserve, mkM_major, mkM_fd, mkM_fa, mkM_fb, mkM_sn, mkM_es, mkM_f3, mkM_kb, mkM_sb] <;> first | assumption | rfl

theorem vgath (t : BitVec 5) (b : BitVec 5) (i : BitVec 5) (s : BitVec 3) (e : BitVec 3) (k : Bool) (n : Bool) : Statement (.vgath t b i s e k n) := by
  intro hw w h
  obtain rfl := Option.some.inj h
  simp [decode, decode24, reserve, mkM_major, mkM_fd, mkM_fa, mkM_fb, mkM_sn, mkM_es, mkM_f3, mkM_kb, mkM_sb] <;> first | assumption | rfl

theorem vgatha (t : BitVec 5) (i : BitVec 5) (s : BitVec 3) (e : BitVec 3) (k : Bool) (n : Bool) : Statement (.vgatha t i s e k n) := by
  intro hw w h
  obtain rfl := Option.some.inj h
  simp [decode, decode24, reserve, mkM_major, mkM_fd, mkM_fa, mkM_fb, mkM_sn, mkM_es, mkM_f3, mkM_kb, mkM_sb] <;> first | assumption | rfl

theorem vgathf (t : BitVec 5) (b : BitVec 5) (i : BitVec 2) (s : BitVec 3) (e : BitVec 3) (k : Bool) (n : Bool) : Statement (.vgathf t b i s e k n) := by
  intro hw w h
  obtain rfl := Option.some.inj h
  simp [decode, decode24, reserve, mkM_major, mkM_fd, mkM_fa, mkM_fb, mkM_sn, mkM_es, mkM_f3, mkM_kb, mkM_sb, sub_hi_3_2, sub_lo_3_2] <;> first | assumption | rfl

theorem vscat (t : BitVec 5) (b : BitVec 5) (i : BitVec 5) (s : BitVec 3) (e : BitVec 3) (k : Bool) (n : Bool) : Statement (.vscat t b i s e k n) := by
  intro hw w h
  obtain rfl := Option.some.inj h
  simp [decode, decode25, reserve, mkM_major, mkM_fd, mkM_fa, mkM_fb, mkM_sn, mkM_es, mkM_f3, mkM_kb, mkM_sb] <;> first | assumption | rfl

theorem vscata (t : BitVec 5) (i : BitVec 5) (s : BitVec 3) (e : BitVec 3) (k : Bool) (n : Bool) : Statement (.vscata t i s e k n) := by
  intro hw w h
  obtain rfl := Option.some.inj h
  simp [decode, decode25, reserve, mkM_major, mkM_fd, mkM_fa, mkM_fb, mkM_sn, mkM_es, mkM_f3, mkM_kb, mkM_sb] <;> first | assumption | rfl

theorem vscatf (t : BitVec 5) (b : BitVec 5) (i : BitVec 2) (s : BitVec 3) (e : BitVec 3) (k : Bool) (n : Bool) : Statement (.vscatf t b i s e k n) := by
  intro hw w h
  obtain rfl := Option.some.inj h
  simp [decode, decode25, reserve, mkM_major, mkM_fd, mkM_fa, mkM_fb, mkM_sn, mkM_es, mkM_f3, mkM_kb, mkM_sb, sub_hi_3_2, sub_lo_3_2] <;> first | assumption | rfl

theorem vaadd (t : BitVec 5) (b : BitVec 5) (i : BitVec 5) (s : BitVec 3) (e : BitVec 3) (k : Bool) (n : Bool) : Statement (.vaadd t b i s e k n) := by
  intro hw w h
  obtain rfl := Option.some.inj h
  simp [decode, decode26, reserve, mkM_major, mkM_fd, mkM_fa, mkM_fb, mkM_sn, mkM_es, mkM_f3, mkM_kb, mkM_sb] <;> first | assumption | rfl

theorem vamin (t : BitVec 5) (b : BitVec 5) (i : BitVec 5) (s : BitVec 3) (e : BitVec 3) (k : Bool) (n : Bool) : Statement (.vamin t b i s e k n) := by
  intro hw w h
  obtain rfl := Option.some.inj h
  simp [decode, decode26, reserve, mkM_major, mkM_fd, mkM_fa, mkM_fb, mkM_sn, mkM_es, mkM_f3, mkM_kb, mkM_sb] <;> first | assumption | rfl

theorem vamax (t : BitVec 5) (b : BitVec 5) (i : BitVec 5) (s : BitVec 3) (e : BitVec 3) (k : Bool) (n : Bool) : Statement (.vamax t b i s e k n) := by
  intro hw w h
  obtain rfl := Option.some.inj h
  simp [decode, decode26, reserve, mkM_major, mkM_fd, mkM_fa, mkM_fb, mkM_sn, mkM_es, mkM_f3, mkM_kb, mkM_sb] <;> first | assumption | rfl

theorem vaor (t : BitVec 5) (b : BitVec 5) (i : BitVec 5) (s : BitVec 3) (e : BitVec 3) (k : Bool) (n : Bool) : Statement (.vaor t b i s e k n) := by
  intro hw w h
  obtain rfl := Option.some.inj h
  simp [decode, decode26, reserve, mkM_major, mkM_fd, mkM_fa, mkM_fb, mkM_sn, mkM_es, mkM_f3, mkM_kb, mkM_sb] <;> first | assumption | rfl

theorem vaswap (t : BitVec 5) (b : BitVec 5) (i : BitVec 5) (s : BitVec 3) (e : BitVec 3) (k : Bool) (n : Bool) : Statement (.vaswap t b i s e k n) := by
  intro hw w h
  obtain rfl := Option.some.inj h
  simp [decode, decode26, reserve, mkM_major, mkM_fd, mkM_fa, mkM_fb, mkM_sn, mkM_es, mkM_f3, mkM_kb, mkM_sb] <;> first | assumption | rfl

theorem vacas (t : BitVec 5) (b : BitVec 5) (i : BitVec 5) (s : BitVec 3) (e : BitVec 3) (k : Bool) (n : Bool) : Statement (.vacas t b i s e k n) := by
  intro hw w h
  obtain rfl := Option.some.inj h
  simp [decode, decode26, reserve, mkM_major, mkM_fd, mkM_fa, mkM_fb, mkM_sn, mkM_es, mkM_f3, mkM_kb, mkM_sb] <;> first | assumption | rfl

theorem vcadd (t : BitVec 5) (b : BitVec 5) (i : BitVec 5) (s : BitVec 3) (e : BitVec 3) (k : Bool) (n : Bool) : Statement (.vcadd t b i s e k n) := by
  intro hw w h
  obtain rfl := Option.some.inj h
  simp [decode, decode27, reserve, mkM_major, mkM_fd, mkM_fa, mkM_fb, mkM_sn, mkM_es, mkM_f3, mkM_kb, mkM_sb] <;> first | assumption | rfl

theorem vcmin (t : BitVec 5) (b : BitVec 5) (i : BitVec 5) (s : BitVec 3) (e : BitVec 3) (k : Bool) (n : Bool) : Statement (.vcmin t b i s e k n) := by
  intro hw w h
  obtain rfl := Option.some.inj h
  simp [decode, decode27, reserve, mkM_major, mkM_fd, mkM_fa, mkM_fb, mkM_sn, mkM_es, mkM_f3, mkM_kb, mkM_sb] <;> first | assumption | rfl

theorem vcmax (t : BitVec 5) (b : BitVec 5) (i : BitVec 5) (s : BitVec 3) (e : BitVec 3) (k : Bool) (n : Bool) : Statement (.vcmax t b i s e k n) := by
  intro hw w h
  obtain rfl := Option.some.inj h
  simp [decode, decode27, reserve, mkM_major, mkM_fd, mkM_fa, mkM_fb, mkM_sn, mkM_es, mkM_f3, mkM_kb, mkM_sb] <;> first | assumption | rfl

theorem vcfadd (t : BitVec 5) (b : BitVec 5) (i : BitVec 5) (s : BitVec 3) (e : BitVec 3) (k : Bool) (n : Bool) : Statement (.vcfadd t b i s e k n) := by
  intro hw w h
  obtain rfl := Option.some.inj h
  simp [decode, decode27, reserve, mkM_major, mkM_fd, mkM_fa, mkM_fb, mkM_sn, mkM_es, mkM_f3, mkM_kb, mkM_sb] <;> first | assumption | rfl

theorem vcfmax (t : BitVec 5) (b : BitVec 5) (i : BitVec 5) (s : BitVec 3) (e : BitVec 3) (k : Bool) (n : Bool) : Statement (.vcfmax t b i s e k n) := by
  intro hw w h
  obtain rfl := Option.some.inj h
  simp [decode, decode27, reserve, mkM_major, mkM_fd, mkM_fa, mkM_fb, mkM_sn, mkM_es, mkM_f3, mkM_kb, mkM_sb] <;> first | assumption | rfl

theorem hld (t : BitVec 4) (b : BitVec 5) (s : BitVec 3) (e : BitVec 3) : Statement (.hld t b s e) := by
  intro hw w h
  obtain rfl := Option.some.inj h
  simp [decode, decode28, reserve, mkM_major, mkM_fd, mkM_fa, mkM_fb, mkM_sn, mkM_es, mkM_f3, mkM_kb, mkM_sb, sub_hi_1_4, sub_lo_1_4] <;> first | assumption | rfl

theorem hst (t : BitVec 4) (b : BitVec 5) (s : BitVec 3) (e : BitVec 3) : Statement (.hst t b s e) := by
  intro hw w h
  obtain rfl := Option.some.inj h
  simp [decode, decode28, reserve, mkM_major, mkM_fd, mkM_fa, mkM_fb, mkM_sn, mkM_es, mkM_f3, mkM_kb, mkM_sb, sub_hi_1_4, sub_lo_1_4] <;> first | assumption | rfl

theorem cld (t : BitVec 5) (b : BitVec 4) (i : BitVec 5) (s : BitVec 3) (e : BitVec 3) (k : Bool) (n : Bool) : Statement (.cld t b i s e k n) := by
  intro hw w h
  obtain rfl := Option.some.inj h
  simp [decode, decode28, reserve, mkM_major, mkM_fd, mkM_fa, mkM_fb, mkM_sn, mkM_es, mkM_f3, mkM_kb, mkM_sb, sub_hi_1_4, sub_lo_1_4] <;> first | assumption | rfl

theorem cst (t : BitVec 5) (b : BitVec 4) (i : BitVec 5) (s : BitVec 3) (e : BitVec 3) (k : Bool) (n : Bool) : Statement (.cst t b i s e k n) := by
  intro hw w h
  obtain rfl := Option.some.inj h
  simp [decode, decode28, reserve, mkM_major, mkM_fd, mkM_fa, mkM_fb, mkM_sn, mkM_es, mkM_f3, mkM_kb, mkM_sb, sub_hi_1_4, sub_lo_1_4] <;> first | assumption | rfl

theorem hget (t : BitVec 5) (b : BitVec 4) (i : BitVec 5) : Statement (.hget t b i) := by
  intro hw w h
  obtain rfl := Option.some.inj h
  simp [decode, decode28, reserve, mkM_major, mkM_fd, mkM_fa, mkM_fb, mkM_sn, mkM_es, mkM_f3, mkM_kb, mkM_sb, sub_hi_1_4, sub_lo_1_4] <;> first | assumption | rfl

theorem hset (t : BitVec 4) (b : BitVec 5) (i : BitVec 5) : Statement (.hset t b i) := by
  intro hw w h
  obtain rfl := Option.some.inj h
  simp [decode, decode28, reserve, mkM_major, mkM_fd, mkM_fa, mkM_fb, mkM_sn, mkM_es, mkM_f3, mkM_kb, mkM_sb, sub_hi_1_4, sub_lo_1_4] <;> first | assumption | rfl

theorem fbind (t : BitVec 2) (b : BitVec 5) (i : BitVec 5) : Statement (.fbind t b i) := by
  intro hw w h
  obtain rfl := Option.some.inj h
  simp [decode, decode29, reserve, mkM_major, mkM_fd, mkM_fa, mkM_fb, mkM_sn, mkM_es, mkM_f3, mkM_kb, mkM_sb, sub_hi_3_2, sub_lo_3_2] <;> first | assumption | rfl

theorem fpop (t : BitVec 5) (b : BitVec 2) (s : BitVec 3) (e : BitVec 3) (k : Bool) (n : Bool) : Statement (.fpop t b s e k n) := by
  intro hw w h
  obtain rfl := Option.some.inj h
  simp [decode, decode29, reserve, mkM_major, mkM_fd, mkM_fa, mkM_fb, mkM_sn, mkM_es, mkM_f3, mkM_kb, mkM_sb, sub_hi_3_2, sub_lo_3_2] <;> first | assumption | rfl

theorem ftrim (t : BitVec 2) (b : BitVec 5) : Statement (.ftrim t b) := by
  intro hw w h
  obtain rfl := Option.some.inj h
  simp [decode, decode29, reserve, mkM_major, mkM_fd, mkM_fa, mkM_fb, mkM_sn, mkM_es, mkM_f3, mkM_kb, mkM_sb, sub_hi_3_2, sub_lo_3_2] <;> first | assumption | rfl

theorem ffree (t : BitVec 2) : Statement (.ffree t) := by
  intro hw w h
  obtain rfl := Option.some.inj h
  simp [decode, decode29, reserve, mkM_major, mkM_fd, mkM_fa, mkM_fb, mkM_sn, mkM_es, mkM_f3, mkM_kb, mkM_sb, sub_hi_3_2, sub_lo_3_2] <;> first | assumption | rfl

theorem pld (t : BitVec 5) (b : BitVec 5) (s : BitVec 3) (e : BitVec 3) (k : Bool) (n : Bool) : Statement (.pld t b s e k n) := by
  intro hw w h
  obtain rfl := Option.some.inj h
  simp [decode, decode2A, reserve, mkM_major, mkM_fd, mkM_fa, mkM_fb, mkM_sn, mkM_es, mkM_f3, mkM_kb, mkM_sb] <;> first | assumption | rfl

theorem pst (t : BitVec 5) (b : BitVec 5) (s : BitVec 3) (e : BitVec 3) (k : Bool) (n : Bool) : Statement (.pst t b s e k n) := by
  intro hw w h
  obtain rfl := Option.some.inj h
  simp [decode, decode2A, reserve, mkM_major, mkM_fd, mkM_fa, mkM_fb, mkM_sn, mkM_es, mkM_f3, mkM_kb, mkM_sb] <;> first | assumption | rfl

theorem pldx (t : BitVec 5) (b : BitVec 5) (i : BitVec 5) (s : BitVec 3) (e : BitVec 3) (k : Bool) (n : Bool) : Statement (.pldx t b i s e k n) := by
  intro hw w h
  obtain rfl := Option.some.inj h
  simp [decode, decode2A, reserve, mkM_major, mkM_fd, mkM_fa, mkM_fb, mkM_sn, mkM_es, mkM_f3, mkM_kb, mkM_sb] <;> first | assumption | rfl

theorem pstx (t : BitVec 5) (b : BitVec 5) (i : BitVec 5) (s : BitVec 3) (e : BitVec 3) (k : Bool) (n : Bool) : Statement (.pstx t b i s e k n) := by
  intro hw w h
  obtain rfl := Option.some.inj h
  simp [decode, decode2A, reserve, mkM_major, mkM_fd, mkM_fa, mkM_fb, mkM_sn, mkM_es, mkM_f3, mkM_kb, mkM_sb] <;> first | assumption | rfl

theorem waitc (b : BitVec 5) (s : BitVec 3) : Statement (.waitc b s) := by
  intro hw w h
  obtain rfl := Option.some.inj h
  simp [decode, decode2B, reserve, mkM_major, mkM_fd, mkM_fa, mkM_fb, mkM_sn, mkM_es, mkM_f3, mkM_kb, mkM_sb] <;> first | assumption | rfl

theorem mfic (t : BitVec 5) (s : BitVec 3) : Statement (.mfic t s) := by
  intro hw w h
  obtain rfl := Option.some.inj h
  simp [decode, decode2B, reserve, mkM_major, mkM_fd, mkM_fa, mkM_fb, mkM_sn, mkM_es, mkM_f3, mkM_kb, mkM_sb] <;> first | assumption | rfl

theorem mfcc (t : BitVec 5) (s : BitVec 3) : Statement (.mfcc t s) := by
  intro hw w h
  obtain rfl := Option.some.inj h
  simp [decode, decode2B, reserve, mkM_major, mkM_fd, mkM_fa, mkM_fb, mkM_sn, mkM_es, mkM_f3, mkM_kb, mkM_sb] <;> first | assumption | rfl

theorem mfe (t : BitVec 5) (e : BitVec 3) : Statement (.mfe t e) := by
  intro hw w h
  obtain rfl := Option.some.inj h
  simp [decode, decode2B, reserve, mkM_major, mkM_fd, mkM_fa, mkM_fb, mkM_sn, mkM_es, mkM_f3, mkM_kb, mkM_sb] <;> first | assumption | rfl

theorem mte (b : BitVec 5) (e : BitVec 3) : Statement (.mte b e) := by
  intro hw w h
  obtain rfl := Option.some.inj h
  simp [decode, decode2B, reserve, mkM_major, mkM_fd, mkM_fa, mkM_fb, mkM_sn, mkM_es, mkM_f3, mkM_kb, mkM_sb] <;> first | assumption | rfl

theorem mtss (b : BitVec 5) (s : BitVec 3) : Statement (.mtss b s) := by
  intro hw w h
  obtain rfl := Option.some.inj h
  simp [decode, decode2B, reserve, mkM_major, mkM_fd, mkM_fa, mkM_fb, mkM_sn, mkM_es, mkM_f3, mkM_kb, mkM_sb] <;> first | assumption | rfl

theorem viewreg (d : BitVec 5) (a : BitVec 4) (b : BitVec 5) : Statement (.viewreg d a b) := by
  intro hw w h
  obtain rfl := Option.some.inj h
  simp [decode, decode2C, reserve, mkA_major, mkA_fd, mkA_fa, mkA_fb, mkA_aux, mkA_fn, sub_hi_1_4, sub_lo_1_4] <;> first | assumption | rfl

theorem viewdrop (a : BitVec 5) : Statement (.viewdrop a) := by
  intro hw w h
  obtain rfl := Option.some.inj h
  simp [decode, decode2C, reserve, mkA_major, mkA_fd, mkA_fa, mkA_fb, mkA_aux, mkA_fn] <;> first | assumption | rfl

theorem viewq (d : BitVec 5) (a : BitVec 5) (b : BitVec 5) : Statement (.viewq d a b) := by
  intro hw w h
  obtain rfl := Option.some.inj h
  simp [decode, decode2C, reserve, mkA_major, mkA_fd, mkA_fa, mkA_fb, mkA_aux, mkA_fn] <;> first | assumption | rfl

theorem viewsync (a : BitVec 5) (f : Bool) : Statement (.viewsync a f) := by
  intro hw w h
  obtain rfl := Option.some.inj h
  simp [decode, decode2C, reserve, mkA_major, mkA_fd, mkA_fa, mkA_fb, mkA_aux, mkA_fn, sub_hi_4_1, sub_lo_4_1] <;> first | assumption | rfl

theorem relayout (d : BitVec 4) (a : BitVec 5) : Statement (.relayout d a) := by
  intro hw w h
  obtain rfl := Option.some.inj h
  simp [decode, decode2D, reserve, mkA_major, mkA_fd, mkA_fa, mkA_fb, mkA_aux, mkA_fn, sub_hi_1_4, sub_lo_1_4] <;> first | assumption | rfl

theorem sealOp (a : BitVec 5) (b : BitVec 5) : Statement (.sealOp a b) := by
  intro hw w h
  obtain rfl := Option.some.inj h
  simp [decode, decode2E, reserve, mkA_major, mkA_fd, mkA_fa, mkA_fb, mkA_aux, mkA_fn] <;> first | assumption | rfl

theorem unsealOp (a : BitVec 5) (b : BitVec 5) : Statement (.unsealOp a b) := by
  intro hw w h
  obtain rfl := Option.some.inj h
  simp [decode, decode2E, reserve, mkA_major, mkA_fd, mkA_fa, mkA_fb, mkA_aux, mkA_fn] <;> first | assumption | rfl

theorem dormer (d : BitVec 5) (a : BitVec 5) (b : BitVec 5) : Statement (.dormer d a b) := by
  intro hw w h
  obtain rfl := Option.some.inj h
  simp [decode, decode2E, reserve, mkA_major, mkA_fd, mkA_fa, mkA_fb, mkA_aux, mkA_fn] <;> first | assumption | rfl

theorem dormrel (a : BitVec 5) : Statement (.dormrel a) := by
  intro hw w h
  obtain rfl := Option.some.inj h
  simp [decode, decode2E, reserve, mkA_major, mkA_fd, mkA_fa, mkA_fb, mkA_aux, mkA_fn] <;> first | assumption | rfl

theorem tldp (d : BitVec 2) (a : BitVec 5) (b : BitVec 5) (p : BitVec 4) : Statement (.tldp d a b p) := by
  intro hw w h
  obtain rfl := Option.some.inj h
  simp only [WellFormed, wellFormed, decide_eq_true_eq] at hw
  simp [decode, decode30, reserve, mkT_major, mkT_fd, mkT_fa, mkT_fb, mkT_sn, mkT_f4, mkT_pl, sub_hi_3_2, sub_lo_3_2, hw] <;> first | assumption | rfl

theorem tldl (d : BitVec 2) (a : BitVec 5) (b : BitVec 5) (p : BitVec 4) : Statement (.tldl d a b p) := by
  intro hw w h
  obtain rfl := Option.some.inj h
  simp only [WellFormed, wellFormed, decide_eq_true_eq] at hw
  simp [decode, decode30, reserve, mkT_major, mkT_fd, mkT_fa, mkT_fb, mkT_sn, mkT_f4, mkT_pl, sub_hi_3_2, sub_lo_3_2, hw] <;> first | assumption | rfl

theorem mrow (d : BitVec 2) (a : BitVec 5) (c : BitVec 3) (p : BitVec 4) : Statement (.mrow d a c p) := by
  intro hw w h
  obtain rfl := Option.some.inj h
  simp [decode, decode31, reserve, mkT_major, mkT_fd, mkT_fa, mkT_fb, mkT_sn, mkT_f4, mkT_pl, sub_hi_3_2, sub_lo_3_2] <;> first | assumption | rfl

theorem mrowz (d : BitVec 2) (a : BitVec 5) (c : BitVec 3) (p : BitVec 4) : Statement (.mrowz d a c p) := by
  intro hw w h
  obtain rfl := Option.some.inj h
  simp [decode, decode31, reserve, mkT_major, mkT_fd, mkT_fa, mkT_fb, mkT_sn, mkT_f4, mkT_pl, sub_hi_3_2, sub_lo_3_2] <;> first | assumption | rfl

theorem accrd (d : BitVec 5) (b : BitVec 5) (c : BitVec 3) : Statement (.accrd d b c) := by
  intro hw w h
  obtain rfl := Option.some.inj h
  simp [decode, decode32, reserve, mkT_major, mkT_fd, mkT_fa, mkT_fb, mkT_sn, mkT_f4, mkT_pl] <;> first | assumption | rfl

theorem accwr (a : BitVec 5) (c : BitVec 3) : Statement (.accwr a c) := by
  intro hw w h
  obtain rfl := Option.some.inj h
  simp [decode, decode32, reserve, mkT_major, mkT_fd, mkT_fa, mkT_fb, mkT_sn, mkT_f4, mkT_pl] <;> first | assumption | rfl

theorem accclr (c : BitVec 3) : Statement (.accclr c) := by
  intro hw w h
  obtain rfl := Option.some.inj h
  simp [decode, decode32, reserve, mkT_major, mkT_fd, mkT_fa, mkT_fb, mkT_sn, mkT_f4, mkT_pl] <;> first | assumption | rfl

theorem tfree (d : BitVec 2) : Statement (.tfree d) := by
  intro hw w h
  obtain rfl := Option.some.inj h
  simp [decode, decode33, reserve, mkT_major, mkT_fd, mkT_fa, mkT_fb, mkT_sn, mkT_f4, mkT_pl, sub_hi_3_2, sub_lo_3_2] <;> first | assumption | rfl

theorem gang : Statement (.gang) := by
  intro hw w h
  obtain rfl := Option.some.inj h
  simp [decode, decode38, reserve, mkA_major, mkA_fd, mkA_fa, mkA_fb, mkA_aux, mkA_fn] <;> first | assumption | rfl

theorem ungang : Statement (.ungang) := by
  intro hw w h
  obtain rfl := Option.some.inj h
  simp [decode, decode38, reserve, mkA_major, mkA_fd, mkA_fa, mkA_fb, mkA_aux, mkA_fn] <;> first | assumption | rfl

theorem evcfg (a : BitVec 5) (t : BitVec 5) : Statement (.evcfg a t) := by
  intro hw w h
  obtain rfl := Option.some.inj h
  simp [decode, decode39, reserve, mkZ_major, mkZ_fd, mkZ_fa, mkZ_zfn, mkZ_zd, sub_hi_7_5, sub_lo_7_5] <;> first | assumption | rfl

theorem evpulse (s : BitVec 5) : Statement (.evpulse s) := by
  intro hw w h
  obtain rfl := Option.some.inj h
  simp [decode, decode39, reserve, mkZ_major, mkZ_fd, mkZ_fa, mkZ_zfn, mkZ_zd, sub_hi_7_5, sub_lo_7_5] <;> first | assumption | rfl

theorem evwait (d : BitVec 5) (c : BitVec 4) : Statement (.evwait d c) := by
  intro hw w h
  obtain rfl := Option.some.inj h
  simp [decode, decode39, reserve, mkZ_major, mkZ_fd, mkZ_fa, mkZ_zfn, mkZ_zd, sub_hi_8_4, sub_lo_8_4] <;> first | assumption | rfl

theorem macroOp (a : BitVec 5) : Statement (.macroOp a) := by
  intro hw w h
  obtain rfl := Option.some.inj h
  simp [decode, decode39, reserve, mkZ_major, mkZ_fd, mkZ_fa, mkZ_zfn, mkZ_zd] <;> first | assumption | rfl

theorem ldw (t : BitVec 5) (b : BitVec 5) (s : BitVec 3) (e : BitVec 3) (k : Bool) (n : Bool) : Statement (.ldw t b s e k n) := by
  intro hw w h
  obtain rfl := Option.some.inj h
  simp [decode, decode3A, reserve, mkM_major, mkM_fd, mkM_fa, mkM_fb, mkM_sn, mkM_es, mkM_f3, mkM_kb, mkM_sb] <;> first | assumption | rfl

theorem ldc (t : BitVec 5) (b : BitVec 5) (s : BitVec 3) (e : BitVec 3) (k : Bool) (n : Bool) : Statement (.ldc t b s e k n) := by
  intro hw w h
  obtain rfl := Option.some.inj h
  simp [decode, decode3A, reserve, mkM_major, mkM_fd, mkM_fa, mkM_fb, mkM_sn, mkM_es, mkM_f3, mkM_kb, mkM_sb] <;> first | assumption | rfl

theorem stfl (t : BitVec 5) (b : BitVec 5) (s : BitVec 3) (e : BitVec 3) (k : Bool) (n : Bool) : Statement (.stfl t b s e k n) := by
  intro hw w h
  obtain rfl := Option.some.inj h
  simp [decode, decode3A, reserve, mkM_major, mkM_fd, mkM_fa, mkM_fb, mkM_sn, mkM_es, mkM_f3, mkM_kb, mkM_sb] <;> first | assumption | rfl

theorem lclr (b : BitVec 5) (i : BitVec 5) (s : BitVec 3) (e : BitVec 3) (n : Bool) : Statement (.lclr b i s e n) := by
  intro hw w h
  obtain rfl := Option.some.inj h
  simp [decode, decode3A, reserve, mkM_major, mkM_fd, mkM_fa, mkM_fb, mkM_sn, mkM_es, mkM_f3, mkM_kb, mkM_sb] <;> first | assumption | rfl

theorem copy (t : BitVec 5) (b : BitVec 5) (i : BitVec 5) (s : BitVec 3) (e : BitVec 3) (n : Bool) : Statement (.copy t b i s e n) := by
  intro hw w h
  obtain rfl := Option.some.inj h
  simp [decode, decode3A, reserve, mkM_major, mkM_fd, mkM_fa, mkM_fb, mkM_sn, mkM_es, mkM_f3, mkM_kb, mkM_sb] <;> first | assumption | rfl

theorem phase : Statement (.phase) := by
  intro hw w h
  obtain rfl := Option.some.inj h
  simp [decode, decode3B, reserve, mkZ_major, mkZ_fd, mkZ_fa, mkZ_zfn, mkZ_zd] <;> first | assumption | rfl

theorem leadset (l : BitVec 4) : Statement (.leadset l) := by
  intro hw w h
  obtain rfl := Option.some.inj h
  simp only [WellFormed, wellFormed, decide_eq_true_eq] at hw
  simp [decode, decode3B, reserve, mkZ_major, mkZ_fd, mkZ_fa, mkZ_zfn, mkZ_zd, sub_hi_8_4, sub_lo_8_4, hw] <;> first | assumption | rfl

theorem tsend (t : BitVec 5) (b : BitVec 5) (i : BitVec 5) (s : BitVec 3) (e : BitVec 3) (k : Bool) (n : Bool) : Statement (.tsend t b i s e k n) := by
  intro hw w h
  obtain rfl := Option.some.inj h
  simp [decode, decode3C, reserve, mkM_major, mkM_fd, mkM_fa, mkM_fb, mkM_sn, mkM_es, mkM_f3, mkM_kb, mkM_sb] <;> first | assumption | rfl

theorem coll (t : BitVec 5) (b : BitVec 5) (i : BitVec 5) (s : BitVec 3) (e : BitVec 3) (n : Bool) : Statement (.coll t b i s e n) := by
  intro hw w h
  obtain rfl := Option.some.inj h
  simp [decode, decode3C, reserve, mkM_major, mkM_fd, mkM_fa, mkM_fb, mkM_sn, mkM_es, mkM_f3, mkM_kb, mkM_sb] <;> first | assumption | rfl

theorem collq (t : BitVec 5) : Statement (.collq t) := by
  intro hw w h
  obtain rfl := Option.some.inj h
  simp [decode, decode3C, reserve, mkM_major, mkM_fd, mkM_fa, mkM_fb, mkM_sn, mkM_es, mkM_f3, mkM_kb, mkM_sb] <;> first | assumption | rfl

theorem run (d : BitVec 5) (a : BitVec 5) : Statement (.run d a) := by
  intro hw w h
  obtain rfl := Option.some.inj h
  simp [decode, decode3D, reserve, mkZ_major, mkZ_fd, mkZ_fa, mkZ_zfn, mkZ_zd] <;> first | assumption | rfl

theorem grow (d : BitVec 5) (a : BitVec 5) : Statement (.grow d a) := by
  intro hw w h
  obtain rfl := Option.some.inj h
  simp [decode, decode3D, reserve, mkZ_major, mkZ_fd, mkZ_fa, mkZ_zfn, mkZ_zd] <;> first | assumption | rfl

theorem exit : Statement (.exit) := by
  intro hw w h
  obtain rfl := Option.some.inj h
  simp [decode, decode3D, reserve, mkZ_major, mkZ_fd, mkZ_fa, mkZ_zfn, mkZ_zd] <;> first | assumption | rfl

theorem trap (c : BitVec 7) : Statement (.trap c) := by
  intro hw w h
  obtain rfl := Option.some.inj h
  simp [decode, decode3E, reserve, mkZ_major, mkZ_fd, mkZ_fa, mkZ_zfn, mkZ_zd, sub_hi_5_7, sub_lo_5_7] <;> first | assumption | rfl

theorem eret : Statement (.eret) := by
  intro hw w h
  obtain rfl := Option.some.inj h
  simp [decode, decode3E, reserve, mkZ_major, mkZ_fd, mkZ_fa, mkZ_zfn, mkZ_zd] <;> first | assumption | rfl

theorem mfs (d : BitVec 5) (r : BitVec 12) : Statement (.mfs d r) := by
  intro hw w h
  obtain rfl := Option.some.inj h
  simp [decode, decode3E, reserve, mkZ_major, mkZ_fd, mkZ_fa, mkZ_zfn, mkZ_zd] <;> first | assumption | rfl

theorem mts (a : BitVec 5) (r : BitVec 12) : Statement (.mts a r) := by
  intro hw w h
  obtain rfl := Option.some.inj h
  simp [decode, decode3E, reserve, mkZ_major, mkZ_fd, mkZ_fa, mkZ_zfn, mkZ_zd] <;> first | assumption | rfl

theorem yield : Statement (.yield) := by
  intro hw w h
  obtain rfl := Option.some.inj h
  simp [decode, decode3E, reserve, mkZ_major, mkZ_fd, mkZ_fa, mkZ_zfn, mkZ_zd] <;> first | assumption | rfl

theorem erd (d : BitVec 5) (s : BitVec 4) : Statement (.erd d s) := by
  intro hw w h
  obtain rfl := Option.some.inj h
  simp only [WellFormed, wellFormed, decide_eq_true_eq] at hw
  simp [decode, decode3E, reserve, mkZ_major, mkZ_fd, mkZ_fa, mkZ_zfn, mkZ_zd, sub_hi_8_4, sub_lo_8_4, hw] <;> first | assumption | rfl

theorem vectorDispatch (slot : Nat) : Statement (.vectorDispatch slot) := fun _ _ h => nomatch h
theorem granuleLanding (slot : Nat) : Statement (.granuleLanding slot) := fun _ _ h => nomatch h
theorem vectorCommit (slot : Nat) : Statement (.vectorCommit slot) := fun _ _ h => nomatch h
theorem scalarCommit (slot : Nat) : Statement (.scalarCommit slot) := fun _ _ h => nomatch h
theorem streamExhaustionEnd (slot : Nat) (sn : BitVec 3) : Statement (.streamExhaustionEnd slot sn) := fun _ _ h => nomatch h
theorem elementComplete (slot : Nat) (idx : Nat) : Statement (.elementComplete slot idx) := fun _ _ h => nomatch h
theorem returnedValue (slot : Nat) (idx : Nat) : Statement (.returnedValue slot idx) := fun _ _ h => nomatch h
theorem checkRequest (slot : Nat) (addr : BitVec 64) (size : Nat) (wr : Bool) (data : BitVec 64) : Statement (.checkRequest slot addr size wr data) := fun _ _ h => nomatch h
theorem writeBufferSend (core : Nat) (idx : Nat) : Statement (.writeBufferSend core idx) := fun _ _ h => nomatch h
theorem lineWrite (die : Nat) (idx : Nat) : Statement (.lineWrite die idx) := fun _ _ h => nomatch h
theorem mergeAgeExpiry (core : Nat) (idx : Nat) : Statement (.mergeAgeExpiry core idx) := fun _ _ h => nomatch h
theorem waitcSatisfied (slot : Nat) : Statement (.waitcSatisfied slot) := fun _ _ h => nomatch h
theorem evwaitSatisfied (slot : Nat) : Statement (.evwaitSatisfied slot) := fun _ _ h => nomatch h
theorem larderGranuleAction (slot : Nat) : Statement (.larderGranuleAction slot) := fun _ _ h => nomatch h
theorem fullEmptyTimeout (slot : Nat) : Statement (.fullEmptyTimeout slot) := fun _ _ h => nomatch h
theorem phaseRelease (slot : Nat) : Statement (.phaseRelease slot) := fun _ _ h => nomatch h
theorem phaseTimeout (slot : Nat) : Statement (.phaseTimeout slot) := fun _ _ h => nomatch h
theorem macroStart (cluster : Nat) : Statement (.macroStart cluster) := fun _ _ h => nomatch h
theorem macroStep (cluster : Nat) : Statement (.macroStep cluster) := fun _ _ h => nomatch h
theorem copyComplete (slot : Nat) (opid : Nat) : Statement (.copyComplete slot opid) := fun _ _ h => nomatch h
theorem matrixStep (slot : Nat) : Statement (.matrixStep slot) := fun _ _ h => nomatch h
theorem trapTaken (slot : Nat) (cause : BitVec 7) (val : BitVec 64) : Statement (.trapTaken slot cause val) := fun _ _ h => nomatch h
theorem asyncReport (slot : Nat) (cause : BitVec 7) (val : BitVec 64) (sn : BitVec 3) (pc : BitVec 64) (elem : BitVec 32) : Statement (.asyncReport slot cause val sn pc elem) := fun _ _ h => nomatch h
theorem asyncReportTrap (slot : Nat) : Statement (.asyncReportTrap slot) := fun _ _ h => nomatch h
theorem preemptionRequest (slot : Nat) : Statement (.preemptionRequest slot) := fun _ _ h => nomatch h
theorem preemption (slot : Nat) : Statement (.preemption slot) := fun _ _ h => nomatch h
theorem contextSave (slot : Nat) : Statement (.contextSave slot) := fun _ _ h => nomatch h
theorem contextRestore (slot : Nat) (idx : Nat) : Statement (.contextRestore slot idx) := fun _ _ h => nomatch h
theorem pantryScrub (core : Nat) : Statement (.pantryScrub core) := fun _ _ h => nomatch h
theorem coreWithdrawal (core : Nat) : Statement (.coreWithdrawal core) := fun _ _ h => nomatch h
theorem tileStateQuery (core : Nat) (die : Nat) (rec : Nat) (tile : Nat) : Statement (.tileStateQuery core die rec tile) := fun _ _ h => nomatch h
theorem tileConversionStart (die : Nat) (rec : Nat) : Statement (.tileConversionStart die rec) := fun _ _ h => nomatch h
theorem tileConverted (die : Nat) (rec : Nat) (tile : Nat) : Statement (.tileConverted die rec tile) := fun _ _ h => nomatch h
theorem conversionAbandon (die : Nat) (rec : Nat) (tile : Nat) : Statement (.conversionAbandon die rec tile) := fun _ _ h => nomatch h
theorem relayoutSettled (slot : Nat) : Statement (.relayoutSettled slot) := fun _ _ h => nomatch h
theorem viewCapture (die : Nat) (view : Nat) : Statement (.viewCapture die view) := fun _ _ h => nomatch h
theorem viewCaptureEnd (die : Nat) (view : Nat) : Statement (.viewCaptureEnd die view) := fun _ _ h => nomatch h
theorem stallReadRelease (slot : Nat) : Statement (.stallReadRelease slot) := fun _ _ h => nomatch h
theorem unsealComplete (slot : Nat) : Statement (.unsealComplete slot) := fun _ _ h => nomatch h
theorem dormerDead (die : Nat) (idx : Nat) : Statement (.dormerDead die idx) := fun _ _ h => nomatch h
theorem registrationRelease (die : Nat) (idx : Nat) : Statement (.registrationRelease die idx) := fun _ _ h => nomatch h
theorem faultServiceTimeout (die : Nat) (idx : Nat) : Statement (.faultServiceTimeout die idx) := fun _ _ h => nomatch h
theorem fsreqRead (die : Nat) : Statement (.fsreqRead die) := fun _ _ h => nomatch h
theorem fsansRetry (die : Nat) (v : BitVec 64) : Statement (.fsansRetry die v) := fun _ _ h => nomatch h
theorem fsansRefuse (die : Nat) (v : BitVec 64) : Statement (.fsansRefuse die v) := fun _ _ h => nomatch h
theorem invalidation (die : Nat) : Statement (.invalidation die) := fun _ _ h => nomatch h
theorem invalidationComplete (die : Nat) : Statement (.invalidationComplete die) := fun _ _ h => nomatch h
theorem migration (die : Nat) : Statement (.migration die) := fun _ _ h => nomatch h
theorem migrationComplete (die : Nat) : Statement (.migrationComplete die) := fun _ _ h => nomatch h
theorem prefetchFill (die : Nat) (evict : Bool) : Statement (.prefetchFill die evict) := fun _ _ h => nomatch h
theorem rlctlResume (die : Nat) (rec : Nat) : Statement (.rlctlResume die rec) := fun _ _ h => nomatch h
theorem evctlClear (cluster : Nat) : Statement (.evctlClear cluster) := fun _ _ h => nomatch h
theorem icinv (core : Nat) (asid : BitVec 12) (all : Bool) : Statement (.icinv core asid all) := fun _ _ h => nomatch h
theorem distributorDecision (node : Nat) : Statement (.distributorDecision node) := fun _ _ h => nomatch h
theorem groupStart (slot : Nat) : Statement (.groupStart slot) := fun _ _ h => nomatch h
theorem preloadPromotion (core : Nat) : Statement (.preloadPromotion core) := fun _ _ h => nomatch h
theorem exitTakesEffect (slot : Nat) : Statement (.exitTakesEffect slot) := fun _ _ h => nomatch h
theorem groupFault (node : Nat) (cause : BitVec 7) (val : BitVec 64) (run : Nat) (stage : Nat) (index : Nat) : Statement (.groupFault node cause val run stage index) := fun _ _ h => nomatch h
theorem energyOverrun (slot : Nat) (used : Nat) : Statement (.energyOverrun slot used) := fun _ _ h => nomatch h
theorem runEntryFree (slot : Nat) : Statement (.runEntryFree slot) := fun _ _ h => nomatch h
theorem runComplete (node : Nat) (run : Nat) : Statement (.runComplete node run) := fun _ _ h => nomatch h
theorem runPacket (node : Nat) (queue : Nat) : Statement (.runPacket node queue) := fun _ _ h => nomatch h
theorem copyPacket (node : Nat) (queue : Nat) : Statement (.copyPacket node queue) := fun _ _ h => nomatch h
theorem resumePacket (node : Nat) (queue : Nat) : Statement (.resumePacket node queue) := fun _ _ h => nomatch h
theorem budgetPeriodStart (node : Nat) : Statement (.budgetPeriodStart node) := fun _ _ h => nomatch h
theorem budgetTick (node : Nat) (part : Nat) (used : Nat) : Statement (.budgetTick node part used) := fun _ _ h => nomatch h
theorem lightReclaim (node : Nat) (port : Nat) (berHigh : Bool) : Statement (.lightReclaim node port berHigh) := fun _ _ h => nomatch h
theorem clpartWrite (node : Nat) (idx : Nat) (v : BitVec 64) : Statement (.clpartWrite node idx v) := fun _ _ h => nomatch h
theorem asidmapWrite (node : Nat) (idx : Nat) (v : BitVec 64) : Statement (.asidmapWrite node idx v) := fun _ _ h => nomatch h
theorem pbudWrite (node : Nat) (idx : Nat) (v : BitVec 64) : Statement (.pbudWrite node idx v) := fun _ _ h => nomatch h
theorem hans (node : Nat) (v : BitVec 64) : Statement (.hans node v) := fun _ _ h => nomatch h
theorem bootStep (node : Nat) (pass : Bool) (code : BitVec 8) : Statement (.bootStep node pass code) := fun _ _ h => nomatch h
theorem bootctlGo (node : Nat) (step : BitVec 5) : Statement (.bootctlGo node step) := fun _ _ h => nomatch h
theorem bootctlSkip (node : Nat) (step : BitVec 5) : Statement (.bootctlSkip node step) := fun _ _ h => nomatch h
theorem reset (node : Nat) : Statement (.reset node) := fun _ _ h => nomatch h
theorem standbyPowerLoss (node : Nat) : Statement (.standbyPowerLoss node) := fun _ _ h => nomatch h
theorem srselWrite (node : Nat) (v : BitVec 64) : Statement (.srselWrite node v) := fun _ _ h => nomatch h
theorem srdataRead (node : Nat) : Statement (.srdataRead node) := fun _ _ h => nomatch h
theorem attestation (node : Nat) : Statement (.attestation node) := fun _ _ h => nomatch h
theorem fitiaRequest (node : Nat) (req : BitVec 4) (addr : BitVec 64) (size : Nat) (wr : Bool) (data : BitVec 64) : Statement (.fitiaRequest node req addr size wr data) := fun _ _ h => nomatch h
theorem routeCommit (node : Nat) : Statement (.routeCommit node) := fun _ _ h => nomatch h
theorem planeDrain (node : Nat) (bits : BitVec 4) : Statement (.planeDrain node bits) := fun _ _ h => nomatch h
theorem planeEnable (node : Nat) (bits : BitVec 4) : Statement (.planeEnable node bits) := fun _ _ h => nomatch h
theorem planeIdle (node : Nat) (plane : BitVec 2) : Statement (.planeIdle node plane) := fun _ _ h => nomatch h
theorem portStateChange (node : Nat) (port : Nat) (st : BitVec 2) : Statement (.portStateChange node port st) := fun _ _ h => nomatch h
theorem flitReceive (die : Nat) (flit : Flit) (crcOk : Bool) : Statement (.flitReceive die flit crcOk) := fun _ _ h => nomatch h
theorem replayRequest (die : Nat) (src : Nat) : Statement (.replayRequest die src) := fun _ _ h => nomatch h
theorem replay (die : Nat) (dst : Nat) (seq : BitVec 32) : Statement (.replay die dst seq) := fun _ _ h => nomatch h
theorem notice (die : Nat) (idx : Nat) : Statement (.notice die idx) := fun _ _ h => nomatch h
theorem fabricTimeout (slot : Nat) : Statement (.fabricTimeout slot) := fun _ _ h => nomatch h
theorem contribution (die : Nat) (idx : Nat) : Statement (.contribution die idx) := fun _ _ h => nomatch h
theorem combinerTimeout (die : Nat) (idx : Nat) : Statement (.combinerTimeout die idx) := fun _ _ h => nomatch h
theorem colltoAnswerTimeout (die : Nat) (idx : Nat) : Statement (.colltoAnswerTimeout die idx) := fun _ _ h => nomatch h
theorem cbansExtend (die : Nat) (idx : BitVec 6) (tag : BitVec 16) : Statement (.cbansExtend die idx tag) := fun _ _ h => nomatch h
theorem cbansPartial (die : Nat) (idx : BitVec 6) (tag : BitVec 16) : Statement (.cbansPartial die idx tag) := fun _ _ h => nomatch h
theorem combinerSlotFree (die : Nat) (idx : Nat) : Statement (.combinerSlotFree die idx) := fun _ _ h => nomatch h
theorem collComplete (slot : Nat) : Statement (.collComplete slot) := fun _ _ h => nomatch h
theorem tokenRowFanout (die : Nat) (idx : Nat) : Statement (.tokenRowFanout die idx) := fun _ _ h => nomatch h
theorem sendQueueEntry (node : Nat) (qp : Nat) : Statement (.sendQueueEntry node qp) := fun _ _ h => nomatch h
theorem rdmaInbound (node : Nat) (qp : Nat) (rkey : BitVec 32) (addr : BitVec 64) (len : Nat) (wr : Bool) (data : List (BitVec 8)) : Statement (.rdmaInbound node qp rkey addr len wr data) := fun _ _ h => nomatch h
theorem registerWrite (addr : BitVec 64) (v : BitVec 64) : Statement (.registerWrite addr v) := fun _ _ h => nomatch h
theorem standbyPowerOn (node : Nat) : Statement (.standbyPowerOn node) := fun _ _ h => nomatch h
theorem hrctlWrite (node : Nat) (v : BitVec 64) : Statement (.hrctlWrite node v) := fun _ _ h => nomatch h
theorem quoteReady (node : Nat) : Statement (.quoteReady node) := fun _ _ h => nomatch h
theorem reservedPacket (node : Nat) (queue : Nat) : Statement (.reservedPacket node queue) := fun _ _ h => nomatch h
theorem workEntryCompletion (node : Nat) (qp : Nat) (ok : Bool) (code : BitVec 8) (bytes : Nat) : Statement (.workEntryCompletion node qp ok code bytes) := fun _ _ h => nomatch h
theorem errorMonitorRequest (node : Nat) (port : Nat) : Statement (.errorMonitorRequest node port) := fun _ _ h => nomatch h
end RoundTrip

end Sys2Proof.Laws
end

