-- ==== Sys2Proof/Safety.lean ====
section
/-! DEFINITION. The terms in which the statements speak of states: the invariant that every step keeps, a thread with nothing on its way,
and what the instructions of one shape leave behind. -/

namespace Sys2Proof.Machine

open Host (Outcome)

/-- Memory is in its canonical form (log 4). -/
def State.memOk (s : State) : Prop := Memory.wf s.mem

/-- VTYPE is a value that 01_thread.md R14 and R15 allow, and VL is at most VLMAX (R17). -/
def Thread.shaped (t : Thread) : Prop := vtypeLegal t.vtype = true ∧ t.vl.toNat ≤ vlmax t.vtype t.gang

/-- The thread that runs has nothing on its way: no queued vector instruction, no granule to resume at, no incomplete matrix row, no pending
element and no outstanding operation; it does not run ahead of the vector unit; its registers hold no word with an error, and no element
waits for the capture of a view. -/
def State.idle (s : State) : Prop :=
  s.th.vq = [] ∧ s.th.gv = false ∧ s.th.rows = [] ∧ s.th.pend = [] ∧ s.th.ops = [] ∧ s.ahead.contains s.cur = false
    ∧ s.th.badRegs = [] ∧ s.th.softRegs = [] ∧ s.th.stalls = []

/-- No core of the pod holds a contribution or a buffered store, no line write is on its way, and no word of memory has a single error. -/
def State.settled (s : State) : Prop :=
  (∀ p ∈ s.cores, p.2.comb = [] ∧ p.2.wbuf = []) ∧ (∀ p ∈ s.dies, p.2.lineWrites = [] ∧ p.2.notices = []) ∧ s.soft = []

/-- Only the thread that runs has anything of its own on its way: no parked thread has a pending element. -/
def State.alone (s : State) : Prop := ∀ p ∈ s.parked, p.2.pend = []

/-- The state in which a serialising instruction acts when nothing is on its way (01_thread.md R29): no completed scalar instruction waits
to commit. -/
def State.serial (s : State) : State := { s with th := { s.th with window := 0 } }

/-- The registers from d on, n of them. -/
abbrev regsFrom (d n : Nat) : List Nat := List.range' d n

/-- The state after a vector instruction that commits: of the thread, only v and m registers, their progress, flags of FCS and SRND
differ from s before the commit; no flag is cleared, no v register outside vs changes, and no m register outside ms. -/
def VecDone (s t : State) (vs ms : List Nat) : Prop :=
  ∃ v m prog fcs srnd,
    t = State.advance { s with th := { s.th with v := v, m := m, prog := prog, fcs := fcs, srnd := srnd } }
    ∧ s.th.fcs &&& fcs = s.th.fcs ∧ (∀ r, r < 32 → r ∉ vs → vread v r = vread s.th.v r)
    ∧ ∀ r, r < 16 → r ∉ ms → vread m r = vread s.th.m r

/-- A vector instruction that rounds nothing stochastically leaves SRND, and the progress of the v registers outside vs. -/
def VecKeeps (s t : State) (vs : List Nat) : Prop :=
  t.th.srnd = s.th.srnd ∧ ∀ r, r < 32 → r ∉ vs → vread t.th.prog r = vread s.th.prog r

/-- A store element of the thread that runs to a place of another die is in the write buffer of its core and nowhere else: its operation
is outstanding, and memory stands (18_fabric.md R412). -/
def State.buffered (s u : State) (sn : BitVec 3) (key : Nat) (data : List Byte) (nib : Option Bool) : Prop :=
  u.mem = s.mem ∧ vread u.th.ic sn.toNat = vread s.th.ic sn.toNat + 1 ∧ u.th.cc = s.th.cc ∧ u.th.ops = [⟨s.th.nextOp, sn, 1⟩]
  ∧ u.th.pend = [] ∧ ∃ w, (u.core s.coreKey).wbuf = [w] ∧ w.slot = s.cur ∧ w.sn = sn ∧ w.key = key / 128 * 128
    ∧ w.elems = [⟨s.th.nextOp, 0, s.th.pc, key % 128, data, nib⟩]

/-- The line writes of the thread's operation go to their homes, and what they find there is done (18_fabric.md R410, R412, R413). -/
def State.landed (s u : State) : State := landLines u s.cur (fun w => w.elems.any (fun e => e.op == s.th.nextOp))

/-- The thread of a slot waits at an instruction that it has fetched (11_traps.md R257). -/
def State.waiting (s : State) (slot : Nat) (i : Instr) : Prop :=
  (s.focus slot).th.slot = .running ∧ (s.focus slot).th.wait ≠ none ∧ fetch (s.focus slot) = .ok i

/-- A vector instruction of the thread that runs waits at its first granule, and nothing else is on its way. -/
def State.atFirst (s : State) : Prop :=
  s.th.gv = true ∧ s.th.gsuf = 0 ∧ State.idle { s with th := { s.th with gv := false, stalls := [] } }

/-! ## The instructions of a shape -/

/-- The instruction of majors 0x10 to 0x12 with an operation; operands that it does not have are left out. -/
def intForm (i : IntOp) (d a b : BitVec 5) (x : Bool) (w : BitVec 2) (k sb : Bool) : Instr :=
  match i with
  | .add => .vadd d a b x w k sb
  | .sub => .vsub d a b x w k sb
  | .rsub => .vrsub d a b x w k sb
  | .min => .vmin d a b x w k sb
  | .max => .vmax d a b x w k sb
  | .abs => .vabs d a w k sb
  | .absd => .vabsd d a b x w k sb
  | .mov => .vmov d b x w k sb
  | .mul => .vmul d a b x w k sb
  | .mulh => .vmulh d a b x w k sb
  | .macc => .vmacc d a b x w k sb
  | .div => .vdiv d a b x w k sb
  | .and => .vand d a b x k sb
  | .or => .vor d a b x k sb
  | .xor => .vxor d a b x k sb
  | .andn => .vandn d a b x k sb
  | .sll => .vsll d a b x k sb
  | .srl => .vsrl d a b x k sb
  | .sra => .vsra d a b x k sb
  | .popc => .vpopc d a k sb

/-- Whether an operation has a width relation. -/
def IntOp.hasW2 : IntOp → Bool
  | .and | .or | .xor | .andn | .sll | .srl | .sra | .popc => false
  | _ => true

/-- What it captures. -/
def intOp (s : State) (i : IntOp) (d a b : BitVec 5) (x : Bool) (w : BitVec 2) (k sb : Bool) : VOp :=
  { s.vop (.int i) d (if i.readsA then a else 0) (if i.readsB then b else 0) (wordOf (intForm i d a b x w k sb)) with
    x := i.readsB && x, w2 := if i.hasW2 then w else 0, k := k, s := sb }

/-- The instruction of major 0x13 with a relation. -/
def cmpForm (c : CmpOp) (d : BitVec 4) (a b : BitVec 5) (x k sb : Bool) : Instr :=
  match c with
  | .eq => .vceq d a b x k sb
  | .ne => .vcne d a b x k sb
  | .lt => .vclt d a b x k sb
  | .le => .vcle d a b x k sb
  | .gt => .vcgt d a b x k sb
  | .ge => .vcge d a b x k sb

/-- What it captures. -/
def cmpOp (s : State) (c : CmpOp) (d : BitVec 4) (a b : BitVec 5) (x k sb : Bool) : VOp :=
  { s.vop (.cmp c) (d.zeroExtend 5) a b (wordOf (cmpForm c d a b x k sb)) with x := x, k := k, s := sb }

/-- The instruction of majors 0x14 and 0x15 with an operation. -/
def fltForm (o : FltOp) (d a b : BitVec 5) (x : Bool) (w : BitVec 2) (k : Bool) : Instr :=
  match o with
  | .add => .vfadd d a b x w k
  | .sub => .vfsub d a b x w k
  | .mul => .vfmul d a b x w k
  | .div => .vfdiv d a b x w k
  | .sqrt => .vfsqrt d a w k
  | .min => .vfmin d a b x w k
  | .max => .vfmax d a b x w k
  | .abs => .vfabs d a w k
  | .neg => .vfneg d a w k
  | .macc => .vfmacc d a b x w k
  | .nmacc => .vfnmacc d a b x w k
  | .madd => .vfmadd d a b x w k

/-- What it captures. -/
def fltOp (s : State) (o : FltOp) (d a b : BitVec 5) (x : Bool) (w : BitVec 2) (k : Bool) : VOp :=
  { s.vop (.flt o) d a (if o.readsB then b else 0) (wordOf (fltForm o d a b x w k)) with x := o.readsB && x, w2 := w, k := k }

/-- Its checks at issue (R53, R118, R127). -/
def fltChecks (s : State) (o : FltOp) (op : VOp) : Check :=
  groupChecks s.th.gpr op ((op.fmt == 2 || op.fmt == 3) && (secondFmt op.fmt (vtSew op.vtype) op.w2.toNat).isSome) (fltSources o op)

/-- The instruction of major 0x18, VMVXS apart, with an operation: VCOMPRESS takes the low four bits of b as its mask. -/
def permForm (o : PermOp) (d a b : BitVec 5) (k : Bool) : Instr :=
  match o with
  | .slideUp => .vslideup d a b k
  | .slideDn => .vslidedn d a b k
  | .slide1Up => .vslide1up d a b k
  | .slide1Dn => .vslide1dn d a b k
  | .perm => .vperm d a b k
  | .compress => .vcompress d a (b.setWidth 4) k
  | .bcast => .vbcast d a b k
  | .insert => .vmvsx d a k

/-- What it captures. -/
def permOp (s : State) (o : PermOp) (d a b : BitVec 5) (k : Bool) : VOp :=
  let b' : BitVec 5 := match o with
    | .compress => (b.setWidth 4).zeroExtend 5
    | .insert => 0
    | _ => b
  { s.vop (.perm o) d a b' (wordOf (permForm o d a b k)) with k := k }

/-- Its checks at issue (R19, R20, R132). -/
def permChecks (s : State) (o : PermOp) (op : VOp) : Check := do
  need (aligned op.d op.g && (permSources o op).all (fun g => g.base % g.n == 0)) 0x05
  need ((permSources o op).all (fun g => if o.apart then !op.groupD.overlaps g else overlapOk s.th.gpr op.sew op.groupD g)) 0x05

/-- The instruction of major 0x19 with an operation. -/
def redForm (o : RedOp) (d a : BitVec 5) (k sb : Bool) : Instr :=
  match o with
  | .sum => .vrsum d a k sb
  | .min => .vrmin d a k sb
  | .max => .vrmax d a k sb
  | .minI => .vrmini d a k sb
  | .maxI => .vrmaxi d a k sb
  | .scan => .vscan d a k sb
  | .scanX => .vscanx d a k sb

/-- What it captures. -/
def redOp (s : State) (o : RedOp) (d a : BitVec 5) (k sb : Bool) : VOp :=
  { s.vop (.red o) d a 0 (wordOf (redForm o d a k sb)) with k := k, s := sb }

/-- The instruction of major 0x1A with an operation. -/
def segForm (o : SegOp) (d a : BitVec 5) (b : BitVec 4) (k sb : Bool) : Instr :=
  match o with
  | .sum => .vsegsum d a b k sb
  | .min => .vsegmin d a b k sb
  | .max => .vsegmax d a b k sb
  | .scan => .vsegscan d a b k sb

/-- What it captures. -/
def segOp (s : State) (o : SegOp) (d a : BitVec 5) (b : BitVec 4) (k sb : Bool) : VOp :=
  { s.vop (.seg o) d a (b.zeroExtend 5) (wordOf (segForm o d a b k sb)) with k := k, s := sb }

/-- The instruction of major 0x1B with an operation. -/
def sortForm (o : SortOp) (d a b : BitVec 5) (sb : Bool) : Instr :=
  match o with
  | .merge => .vmerge d a b sb
  | .topk => .vtopk d a b sb
  | .mrgk => .vmrgk d a b sb
  | .step => .vsortstep d a b sb

/-- What it captures. -/
def sortOp (s : State) (o : SortOp) (d a b : BitVec 5) (sb : Bool) : VOp :=
  { s.vop (.sort o) d a b (wordOf (sortForm o d a b sb)) with s := sb }

/-- Its checks at issue (R19, R137, R140). -/
def sortChecks (o : SortOp) (op : VOp) : Check := do
  need (match o with
    | .topk => op.sew == 32
    | .mrgk => op.sew == 32
    | _ => true) 0x03
  need (aligned op.d op.g && (sortSources o op).all (fun g => g.base % g.n == 0)) 0x05
  need (!(sortSources o op).any op.groupD.overlaps) 0x05

/-- The instruction of major 0x1C with an operation. -/
def scaleForm (o : ScaleOp) (d a b : BitVec 5) (w : BitVec 2) (k : Bool) : Instr :=
  match o with
  | .bmax => .vbmax a w k
  | .scale => .vscale d a w k
  | .quant => .vquant d a w k
  | .deq => .vdeq d a w k
  | .sfma => .vsfma d a b w k

/-- What it captures. -/
def scaleOp (s : State) (o : ScaleOp) (d a b : BitVec 5) (w : BitVec 2) (k : Bool) : VOp :=
  let d' : BitVec 5 := match o with
    | .bmax => 0
    | _ => d
  let b' : BitVec 5 := match o with
    | .sfma => b
    | _ => 0
  { s.vop (.scale o) d' a b' (wordOf (scaleForm o d a b w k)) with w2 := w, k := k }

/-- Its checks at issue (R86, R143, R144). -/
def scaleChecks (s : State) (o : ScaleOp) (op : VOp) : Check := do
  need ((scaledFmt op.fmt op.sew).isSome && op.gw ≤ 8 && op.w2 == 0) 0x03
  need ((o.dst op).base % (o.dst op).n == 0 && (o.reads op).all (fun g => g.base % g.n == 0)) 0x05
  need (match o with
    | .bmax => !(o.reads op).any (o.dst op).overlaps
    | _ => (o.dst op).base + (o.dst op).n ≤ 31 && (o.reads op).all (overlapOk s.th.gpr 32 (o.dst op))) 0x05

/-- A scalar load: its size in bytes, whether it extends the sign, and its instruction. -/
structure ScalarLoad where
  size : Nat
  signed : Bool
  form : BitVec 5 → BitVec 5 → BitVec 5 → BitVec 3 → BitVec 3 → Instr

/-- The scalar loads of 06_memory_isa.md R157. -/
def scalarLoads : List ScalarLoad :=
  [⟨1, true, .lds8⟩, ⟨2, true, .lds16⟩, ⟨4, true, .lds32⟩, ⟨1, false, .ldn8⟩, ⟨2, false, .ldn16⟩, ⟨4, false, .ldn32⟩, ⟨8, false, .ld64⟩]

/-- The scalar stores of R157 with their sizes. -/
def scalarStores : List (Nat × (BitVec 5 → BitVec 5 → BitVec 5 → BitVec 3 → BitVec 3 → Bool → Instr)) :=
  [(1, .st8), (2, .st16), (4, .st32), (8, .st64)]

/-- An instruction of majors 0x22 to 0x2A by what it does and its transfer, base and third fields; a field that it does not have is left
out, a feed takes the low two bits of its field and a handle the low four. -/
structure MemForm where
  kind : VKind
  form : BitVec 5 → BitVec 5 → BitVec 5 → BitVec 3 → BitVec 3 → Bool → Bool → Instr

/-- The memory instructions of the vector unit (06_memory_isa.md R158-R175). -/
def memForms : List MemForm :=
  [⟨.load .unit, fun t b _ sn e k n => .vld t b sn e k n⟩, ⟨.load .strided, .vlds⟩, ⟨.load .twoD, .vld2d⟩,
   ⟨.store .unit, fun t b _ sn e k n => .vst t b sn e k n⟩, ⟨.store .strided, .vsts⟩, ⟨.store .twoD, .vst2d⟩,
   ⟨.load .index, .vgath⟩, ⟨.load .addrs, fun t _ i sn e k n => .vgatha t i sn e k n⟩,
   ⟨.load .feed, fun t b i sn e k n => .vgathf t b (i.setWidth 2) sn e k n⟩,
   ⟨.store .index, .vscat⟩, ⟨.store .addrs, fun t _ i sn e k n => .vscata t i sn e k n⟩,
   ⟨.store .feed, fun t b i sn e k n => .vscatf t b (i.setWidth 2) sn e k n⟩,
   ⟨.atom .add, .vaadd⟩, ⟨.atom .min, .vamin⟩, ⟨.atom .max, .vamax⟩, ⟨.atom .or, .vaor⟩, ⟨.atom .swap, .vaswap⟩, ⟨.atom .cas, .vacas⟩,
   ⟨.comb .add, .vcadd⟩, ⟨.comb .min, .vcmin⟩, ⟨.comb .max, .vcmax⟩, ⟨.comb .fadd, .vcfadd⟩, ⟨.comb .fmax, .vcfmax⟩,
   ⟨.load .handle, fun t b i sn e k n => .cld t (b.setWidth 4) i sn e k n⟩,
   ⟨.store .handle, fun t b i sn e k n => .cst t (b.setWidth 4) i sn e k n⟩,
   ⟨.pop, fun t b _ sn e k n => .fpop t (b.setWidth 2) sn e k n⟩,
   ⟨.load .pantry, fun t b _ sn e k n => .pld t b sn e k n⟩, ⟨.store .pantry, fun t b _ sn e k n => .pst t b sn e k n⟩,
   ⟨.load .pantryX, .pldx⟩, ⟨.store .pantryX, .pstx⟩]

/-- What a memory instruction captures. -/
def memOp (s : State) (f : MemForm) (t b i : BitVec 5) (sn e : BitVec 3) (k n : Bool) : VOp :=
  let word := wordOf (f.form t b i sn e k n)
  match f.kind with
  | .load .unit | .store .unit | .load .pantry | .store .pantry => s.mop f.kind t b 0 sn e k n word
  | .load .addrs | .store .addrs => s.mop f.kind t 0 i sn e k n word
  | .load .feed | .store .feed => (s.mop f.kind t b ((i.setWidth 2).zeroExtend 5) sn e k n word).withFeed s.th (i.setWidth 2)
  | .pop => (s.mop .pop t ((b.setWidth 2).zeroExtend 5) 0 sn e k n word).withFeed s.th (b.setWidth 2)
  | .load .handle | .store .handle => { s.mop f.kind t 0 i sn e k n word with hand := vread s.th.h (b.setWidth 4).toNat }
  | _ => s.mop f.kind t b i sn e k n word

/-- Its type rule (R163): SEW 32 or 64 for atomics and reduces, integers for those that compute on integers, floats for the others. -/
def memTypeOk (s : State) (f : MemForm) : Bool :=
  match f.kind with
  | .atom .swap | .atom .cas => wideSew s.th.vtype
  | .comb .fadd | .comb .fmax => wideSew s.th.vtype && vtFmt s.th.vtype == 2
  | .atom _ | .comb _ => wideSew s.th.vtype && vtFmt s.th.vtype ≤ 1
  | _ => true

/-- The check of its operands that comes before any element (R168, R172, R175). -/
def memBad (s : State) (f : MemForm) (b i : BitVec 5) : Option (BitVec 7 × Word) :=
  match f.kind with
  | .load .feed | .store .feed => feedFails s.th (i.setWidth 2) 32
  | .pop => feedFails s.th (b.setWidth 2) (vtBits s.th.vtype)
  | .load .handle => handleFails (vread s.th.h (b.setWidth 4).toNat) s.th.vtype false
  | .store .handle => handleFails (vread s.th.h (b.setWidth 4).toNat) s.th.vtype true
  | .load .pantry | .store .pantry => pantryFails (s.x b) 8
  | .load .pantryX | .store .pantryX => pantryFails (s.x b) (elemBytes (vtBits s.th.vtype))
  | _ => none

/-- Element i of an instruction, as the state before it resolves it: none where it is masked, else what it accesses, in memory. -/
def resolvesTo (s : State) (op : VOp) (i : Nat) (h : Option Hit) : Prop :=
  resolve s op ((List.range op.n_).filter (s.th.active op.k)) i = .ok (h, s) ∧ ∀ x ∈ h, ∃ key, x.place = .mem key

/-- The pc-relative target of 04_scalar_control.md R99. -/
def pcTarget (s : State) (off : Int) : Word := BitVec.ofInt 64 (s.th.pc.toInt + off * 4)

end Sys2Proof.Machine
end

