-- ==== Sys2Proof/Certificates/Slice0/Obligations.lean ====
section
/-! DEFINITION. The statements for the provers, in the order of the chapters: encoding, the step, reset, then family by family what an
instruction or an event does, that it completes, and what it leaves alone. -/

section

open Sys2Proof Sys2Proof.Machine

/-! ## The encoding (02_encoding.md R45-R59) -/

/-- Decoding the word of a well-formed instruction gives the instruction back, with every operand at every value that the encoding
admits. -/
def Obligations.DecodeOfEncode : Prop := ∀ i w, WellFormed i → encode i = some w → decode w = .ok i

/-- A word that decodes is the word of what it decodes to: no bit of an instruction is dropped or reserved and set (R52). -/
def Claim.encodeOfDecode : Prop := ∀ w i, decode w = .ok i → encode i = some w

/-- Every encoded instruction is well-formed when it comes out of the decoder. -/
def Claim.decodedWellFormed : Prop := ∀ w i, decode w = .ok i → WellFormed i

/-- Some of the words that the chapters print decode to the instructions that they stand for. -/
def Obligations.PrintedWordsDecode : Prop :=
  decode 0x058C5000 = .ok (.add 12 12 10)
  ∧ decode 0x32C00005 = .ok (.beqz 22 5)
  ∧ decode 0x34000006 = .ok (.jmp 6)
  ∧ decode 0x3E8D2003 = .ok (.jtab 20 13 3)
  ∧ decode 0x3C053003 = .ok (.loop 5 3)
  ∧ decode 0x40423001 = .ok (.vadd 2 2 6 false 0 false true)
  ∧ decode 0x4080A470 = .ok (.vmov 4 20 true 0 false false)
  ∧ decode 0x4C306C30 = .ok (.vcle 1 16 13 true false false)
  ∧ decode 0x54886002 = .ok (.vfmacc 4 8 12 false 0 true)
  ∧ decode 0x58080321 = .ok (.vcvt 0 8 3 2 false true)
  ∧ decode 0x5C010000 = .ok (.mpush 1)
  ∧ decode 0x62B44810 = .ok (.vslidedn 21 20 9 false)
  ∧ decode 0x65880000 = .ok (.vrsum 12 8 false false)
  ∧ decode 0x6C804810 = .ok (.vtopk 4 0 9 false)
  ∧ decode 0x74C50214 = .ok (.vseti 6 5 0x214)
  ∧ decode 0x74C51000 = .ok (.vsetvl 6 5)
  ∧ decode 0x80A638F4 = .ok (.ldn32 5 6 7 0 7)
  ∧ decode 0x852A01ED = .ok (.st64 9 10 0 1 7 true)
  ∧ decode 0x888B01E8 = .ok (.vld2d 4 11 0 1 7 false false)
  ∧ decode 0x908A4200 = .ok (.vgath 4 10 8 2 0 false false)
  ∧ decode 0x988580F4 = .ok (.vacas 4 5 16 0 7 false false)
  ∧ decode 0x9C8B14E3 = .ok (.vcadd 4 11 2 4 7 true true)
  ∧ decode 0xA0032008 = .ok (.cld 0 3 4 0 0 false false)
  ∧ decode 0xA54105E4 = .ok (.fpop 10 1 5 7 false false)
  ∧ decode 0xA987A0EA = .ok (.pldx 12 7 20 0 7 true false)
  ∧ decode 0xAC120400 = .ok (.waitc 18 4)
  ∧ decode 0xB2826000 = .ok (.viewreg 20 2 12)
  ∧ decode 0xB4490000 = .ok (.relayout 2 9)
  ∧ decode 0xC00A5808 = .ok (.tldp 0 10 11 8)
  ∧ decode 0xC4040214 = .ok (.mrowz 0 4 2 4)
  ∧ decode 0xC9004900 = .ok (.accrd 8 9 1)
  ∧ decode 0xCC600000 = .ok (.tfree 3)
  ∧ decode 0xE0000000 = .ok .gang
  ∧ decode 0xE8A63BF0 = .ok (.copy 5 6 7 3 7 false)
  ∧ decode 0xE88A02E4 = .ok (.ldc 4 10 2 7 false false)
  ∧ decode 0xF14D82E4 = .ok (.coll 10 13 16 2 7 false)
  ∧ decode 0xF10C62E2 = .ok (.tsend 8 12 12 2 7 true false)
  ∧ decode 0xF4A60000 = .ok (.run 5 6)
  ∧ decode 0xF4002000 = .ok .exit
  ∧ decode 0xF8000005 = .ok (.trap 5)
  ∧ decode 0xF8A02008 = .ok (.mfs 5 8)
  ∧ decode 0xF8E05002 = .ok (.erd 7 2)

/-! ## A step -/

/-- The instruction that a step runs is the one at the pc of the thread whose turn it is: with nothing landing at the thread and an
empty vector queue, four bytes that decode to i run i on the state with that thread in focus; what exec gives is followed by the
waking of the other threads and by the crossbars' cycle (02_encoding.md R45; logs 2, 6). The bytes are those of the line that the core's
instruction cache holds after the fetch, and of memory where the core keeps no lines (09_core.md R209). -/
def Obligations.StepRunsDecoded : Prop :=
  ∀ (s : State) (k key : Nat) (i : Instr),
    let g : State := { s.focus k with th := { (s.focus k).th with window := 0 } }
    let f : State := cacheCode g
    (s.agenda = [] → due s = .thread k → landNow (s.focus k) = none → g.th.vq = [] → g.th.gv = false →
      fetchPlace f f.th = some key → decodeBytes (codeBytes f key) = .ok i →
      step s = thenDo tickCrossbars (thenDo afterThread (exec i f)))
    ∧ (s.caching.contains (slotCore k) = false → (s.core (slotCore k)).icache = [] → f = g ∧ codeBytes f key = memBytes s.mem key 4)

/-- A word that withFetchWord places is the instruction that the next step runs, whatever the state was (log 11), once its line has come
into the instruction cache of a core that keeps lines; and nothing of a register differs from the state it was placed in. -/
def Obligations.PlacedWordRuns : Prop :=
  ∀ (s : State) (w : BitVec 32) (i : Instr), decode w = .ok i →
    let p := s.withFetchWord 32 w.toNat
    step p = thenDo tickCrossbars (thenDo afterThread (exec i (cacheCode p)))
    ∧ p.th.x = s.th.x ∧ p.th.v = s.th.v ∧ p.th.m = s.th.m ∧ p.th.acc = s.th.acc ∧ p.th.vtype = s.th.vtype ∧ p.th.vl = s.th.vl

/-- A fetch that no executable page holds, or a word that does not decode, is a trap at the pc: cause 0x09 with the pc as EVAL, or the
cause of the decoder with the word (04_scalar_control.md R101, 02_encoding.md R53). -/
def Claim.fetchFaults : Prop :=
  ∀ s : State,
    (fetchPlace s s.th = none → issueThread s = .next (trapAt s 0x09 s.th.pc none)) ∧
    (∀ key e, let f := cacheCode s
      fetchPlace s s.th = some key → decodeBytes (codeBytes f key) = .error e →
      issueThread s = .next (trapAt f (BitVec.ofNat 7 e.cause) ((bytesWord (codeBytes f key)).zeroExtend 64) none))

/-- An event whose time has come happens in its step, and the waiting threads try again (log 2, the model's choice). -/
def Claim.agendaRuns : Prop :=
  ∀ (s : State) (i : Instr) (r : List (Nat × Instr)), s.agenda = (0, i) :: r →
    step s = thenDo tickCrossbars (thenDo State.wake (runEvent i { s with agenda := r }))

/-! ## Reset -/

/-- The values that 01_thread.md R10 gives a thread at the start of its group stand in the thread of State.reset. -/
def Obligations.ResetThread : Prop :=
  (∀ r, State.reset.x r = 0) ∧ (∀ r, r < 32 → vread State.reset.th.v r = 0 ∧ vread State.reset.th.prog r = State.reset.th.fullIndex)
  ∧ (∀ r, r < 16 → vread State.reset.th.m r = 0 ∧ vread State.reset.th.h r = 0) ∧ State.reset.th.msdepth = 0
  ∧ (∀ r, r < 8 → vread State.reset.th.ic r = 0 ∧ vread State.reset.th.cc r = 0 ∧ vread State.reset.th.acc r = 0)
  ∧ (∀ r, r < 7 → vread State.reset.th.e r = 0) ∧ vread State.reset.th.e 7 = 0xFF
  ∧ (∀ r, r < 4 → (vread State.reset.th.feeds r).bound = false ∧ (vread State.reset.th.tiles r).ready = false)
  ∧ (∀ r, r < 3 → vread State.reset.th.lc r = 0 ∧ vread State.reset.th.ls r = 0 ∧ vread State.reset.th.le r = 0)
  ∧ State.reset.th.ldepth = 0 ∧ State.reset.th.vq = [] ∧ State.reset.th.vl = 256 ∧ State.reset.th.vtype = 0x23
  ∧ State.reset.th.cols = 0 ∧ State.reset.th.fcs = 0 ∧ State.reset.th.srnd = 1

/-- The invariants hold at reset: memory is canonical, and the thread's VTYPE and VL are legal. -/
def Obligations.ResetInvariant : Prop := State.reset.memOk ∧ State.reset.th.shaped

/-- Every step keeps memory in its canonical form: places strictly rising, and no listed byte equal to what an unlisted place reads. -/
def Obligations.StepKeepsMemory : Prop := ∀ s t : State, s.memOk → step s = .next t → t.memOk

/-- What the decoder accepts is a well-formed instruction, and its encoding is the word that it was read from. -/
def Obligations.EncodeOfDecode : Prop := Claim.decodedWellFormed ∧ Claim.encodeOfDecode

/-- A step that finds no instruction traps with the cause of the fetch; a step whose agenda has an event that is due runs the event. -/
def Obligations.OtherSteps : Prop := Claim.fetchFaults ∧ Claim.agendaRuns

/-! ## The scalar part: one value written to one register (01_thread.md R12; 04_scalar_control.md R93-R98, R110) -/

/-- What `s.ret d v` is, with no vector instruction queued: only the thread changes, and of it only the destination register (x0 keeps
reading 0, R12), the pc, the loop registers that the loop-end check counts down, and the bookkeeping of a commit. With no loop active the
pc moves to the next word. -/
def Obligations.RetFrame : Prop :=
  ∀ (s : State) (d : BitVec 5) (v : Word), s.th.vq = [] →
    (∀ r, (s.ret d v).x r = if r = d ∧ d ≠ 0 then v else s.x r)
    ∧ (∃ x pc lc ldepth, s.ret d v = { s with th := { s.th with
        x := x, pc := pc, lc := lc, ldepth := ldepth, gsuf := 0, gv := false, wait := none,
        feedsArch := s.th.feeds, tilesArch := s.th.tiles } })
    ∧ (s.th.ldepth = 0 → (s.ret d v).th.pc = s.th.pc + 4 ∧ (s.ret d v).th.lc = s.th.lc ∧ (s.ret d v).th.ldepth = 0)

/-- R110, the loop-end check of an instruction that commits at A without a taken transfer: outside a level the next address is A + 4; at
the end of the innermost level its count goes down and the next address is the level's start, or, at a count of 1 or 0, the level ends with
count 0 and the check goes on with the level around it. No other register of a loop changes. -/
def Obligations.LoopEndCheck : Prop :=
  ∀ (t : Thread) (a : Word) (n : Nat), n ≤ 3 → t.ldepth = BitVec.ofNat 2 n →
    (n = 0 → loopEnd t a n = (a + 4, t))
    ∧ (∀ m, n = m + 1 →
        (a.toNat ≠ (vread t.le m).toNat → loopEnd t a n = (a + 4, t))
        ∧ (a.toNat = (vread t.le m).toNat → 1 < (vread t.lc m).toNat →
            loopEnd t a n = ((vread t.ls m).zeroExtend 64, { t with lc := vwrite t.lc m (vread t.lc m - 1) }))
        ∧ (a.toNat = (vread t.le m).toNat → (vread t.lc m).toNat ≤ 1 →
            loopEnd t a n = loopEnd { t with lc := vwrite t.lc m 0, ldepth := BitVec.ofNat 2 m } a m))
    ∧ (∀ s : State, s.th = t → t.vq = [] → s.advance = { s with th := Thread.settle { (loopEnd t t.pc n).2 with pc := (loopEnd t t.pc n).1 } })

/-- R96, the functions whose effect is a word of arithmetic or logic: the instruction completes, its value goes to xd. -/
def Claim.scalarArithmetic : Prop :=
  ∀ (s : State) (d a b c : BitVec 5),
    exec (.add d a b) s = .next (s.ret d (BitVec.ofNat 64 ((s.x a).toNat + (s.x b).toNat)))
    ∧ exec (.sub d a b) s = .next (s.ret d (BitVec.ofInt 64 ((s.x a).toNat - (s.x b).toNat)))
    ∧ exec (.and d a b) s = .next (s.ret d (s.x a &&& s.x b))
    ∧ exec (.or d a b) s = .next (s.ret d (s.x a ||| s.x b))
    ∧ exec (.xor d a b) s = .next (s.ret d (s.x a ^^^ s.x b))
    ∧ exec (.andn d a b) s = .next (s.ret d (s.x a &&& ~~~(s.x b)))
    ∧ exec (.shadd d a b c) s = .next (s.ret d (BitVec.ofNat 64 ((s.x a).toNat * 2 ^ c.toNat + (s.x b).toNat)))
    ∧ exec (.mul d a b) s = .next (s.ret d (BitVec.ofNat 64 ((s.x a).toNat * (s.x b).toNat)))
    ∧ exec (.mulh d a b) s = .next (s.ret d (BitVec.ofInt 64 ((s.x a).toInt * (s.x b).toInt / 2 ^ 64)))
    ∧ exec (.mulhn d a b) s = .next (s.ret d (BitVec.ofNat 64 ((s.x a).toNat * (s.x b).toNat / 2 ^ 64)))
    ∧ exec (.madd d a b c) s = .next (s.ret d (BitVec.ofNat 64 ((s.x a).toNat * (s.x b).toNat + (s.x c).toNat)))

/-- R96 with R73, shifts and rotation: the amount is taken modulo 64, and bit i of the result is the bit of xa that the shift brings
there. -/
def Claim.scalarShift : Prop :=
  ∀ (s : State) (d a b : BitVec 5), let n := (s.x b).toNat % 64
    ∃ l r t o : Word,
      exec (.sll d a b) s = .next (s.ret d l) ∧ exec (.srl d a b) s = .next (s.ret d r)
      ∧ exec (.sra d a b) s = .next (s.ret d t) ∧ exec (.ror d a b) s = .next (s.ret d o)
      ∧ ∀ i, i < 64 →
          l.getLsbD i = (decide (n ≤ i) && (s.x a).getLsbD (i - n))
          ∧ r.getLsbD i = (decide (i + n < 64) && (s.x a).getLsbD (i + n))
          ∧ t.getLsbD i = (s.x a).getLsbD (min (i + n) 63)
          ∧ o.getLsbD i = (s.x a).getLsbD ((i + n) % 64)

/-- R96, the bit counts and the bit field: CLZ, CTZ and POPC as positions and numbers of one bits, BEXT bit by bit. -/
def Claim.scalarBitCount : Prop :=
  ∀ (s : State) (d a b w : BitVec 5),
    ∃ (l t p : Nat) (e : Word),
      exec (.clz d a) s = .next (s.ret d (BitVec.ofNat 64 l)) ∧ exec (.ctz d a) s = .next (s.ret d (BitVec.ofNat 64 t))
      ∧ exec (.popc d a) s = .next (s.ret d (BitVec.ofNat 64 p)) ∧ exec (.bext d a b w) s = .next (s.ret d e)
      ∧ l ≤ 64 ∧ (∀ i, i < l → (s.x a).getLsbD (63 - i) = false) ∧ (l < 64 → (s.x a).getLsbD (63 - l) = true)
      ∧ t ≤ 64 ∧ (∀ i, i < t → (s.x a).getLsbD i = false) ∧ (t < 64 → (s.x a).getLsbD t = true)
      ∧ p = ((List.range 64).filter (fun i => (s.x a).getLsbD i)).length
      ∧ ∀ i, i < 64 → e.getLsbD i = (decide (i ≤ w.toNat) && (s.x a).getLsbD (i + (s.x b).toNat % 64))

/-- R96, the comparisons and the signed minimum and maximum. -/
def Claim.scalarCompare : Prop :=
  ∀ (s : State) (d a b : BitVec 5),
    exec (.seq d a b) s = .next (s.ret d (if (s.x a).toNat = (s.x b).toNat then 1 else 0))
    ∧ exec (.sne d a b) s = .next (s.ret d (if (s.x a).toNat = (s.x b).toNat then 0 else 1))
    ∧ exec (.slt d a b) s = .next (s.ret d (if (s.x a).toInt < (s.x b).toInt then 1 else 0))
    ∧ exec (.sltn d a b) s = .next (s.ret d (if (s.x a).toNat < (s.x b).toNat then 1 else 0))
    ∧ (∃ v : Word, exec (.min d a b) s = .next (s.ret d v) ∧ v.toInt = min (s.x a).toInt (s.x b).toInt)
    ∧ (∃ v : Word, exec (.max d a b) s = .next (s.ret d v) ∧ v.toInt = max (s.x a).toInt (s.x b).toInt)

/-- R96 with R73, division: the signed quotient truncates towards zero and the remainder takes the sign of the dividend; a division by
zero gives all ones and the dividend; the smallest value divided by -1 gives itself and 0. -/
def Claim.scalarDivide : Prop :=
  ∀ (s : State) (d a b : BitVec 5),
    exec (.div d a b) s = .next (s.ret d (if s.x b = 0 then BitVec.allOnes 64 else BitVec.ofInt 64 ((s.x a).toInt.tdiv (s.x b).toInt)))
    ∧ exec (.rem d a b) s = .next (s.ret d (if s.x b = 0 then s.x a else BitVec.ofInt 64 ((s.x a).toInt.tmod (s.x b).toInt)))
    ∧ exec (.divn d a b) s = .next (s.ret d (if s.x b = 0 then BitVec.allOnes 64 else BitVec.ofNat 64 ((s.x a).toNat / (s.x b).toNat)))
    ∧ exec (.remn d a b) s = .next (s.ret d (if s.x b = 0 then s.x a else BitVec.ofNat 64 ((s.x a).toNat % (s.x b).toNat)))

/-- R97 and R98, the immediate and address operations. -/
def Claim.scalarImmediate : Prop :=
  ∀ (s : State) (d a : BitVec 5) (i : BitVec 16) (m : BitVec 6) (j : BitVec 12),
    exec (.addi d a i) s = .next (s.ret d (BitVec.ofInt 64 ((s.x a).toInt + i.toInt)))
    ∧ exec (.andi d a i) s = .next (s.ret d (s.x a &&& BitVec.ofNat 64 i.toNat))
    ∧ exec (.ori d a i) s = .next (s.ret d (s.x a ||| BitVec.ofNat 64 i.toNat))
    ∧ exec (.xori d a i) s = .next (s.ret d (s.x a ^^^ BitVec.ofNat 64 i.toNat))
    ∧ exec (.shori d a i) s = .next (s.ret d (BitVec.ofNat 64 ((s.x a).toNat * 65536 + i.toNat)))
    ∧ exec (.addpc d i) s = .next (s.ret d (BitVec.ofInt 64 (s.th.pc.toInt + i.toInt * 4)))
    ∧ exec (.slli d a m) s = .next (s.ret d (BitVec.ofNat 64 ((s.x a).toNat * 2 ^ m.toNat)))
    ∧ exec (.srli d a m) s = .next (s.ret d (BitVec.ofNat 64 ((s.x a).toNat / 2 ^ m.toNat)))
    ∧ exec (.srai d a m) s = .next (s.ret d (BitVec.ofInt 64 ((s.x a).toInt / 2 ^ m.toNat)))
    ∧ exec (.slti d a j) s = .next (s.ret d (if (s.x a).toInt < j.toInt then 1 else 0))

/-! ## Control transfer, loops and scalar reads of masks (04_scalar_control.md R99-R115) -/

/-- R100 to R104 and R106: a transfer goes to its target when bits [1:0] and [63:48] of it are 0, with the link at PC + 4 for CALL and
CALLR, and the loop state stands; otherwise it takes cause 0x08 with the target as EVAL, and no link is written. -/
def Claim.jumps : Prop :=
  ∀ (s : State) (o : BitVec 26) (d a : BitVec 5), s.th.vq = [] →
    (∀ (t : Thread) w, t.vq = [] → Thread.jump t w
      = { t with pc := w, gsuf := 0, gv := false, wait := none, feedsArch := t.feeds, tilesArch := t.tiles }) ∧
    let go (i : Instr) (w : Word) (link : BitVec 5) : Prop :=
      (w.extractLsb' 0 2 = 0 → w.extractLsb' 48 16 = 0 →
        exec i s = .next { s with th := Thread.jump (s.th.wx link (s.th.pc + 4)) w })
      ∧ (w.extractLsb' 0 2 ≠ 0 ∨ w.extractLsb' 48 16 ≠ 0 → exec i s = .next (takeTrap s 0x08 w s.th.pc none false))
    go (.jmp o) (pcTarget s o.toInt) 0 ∧ go (.call o) (pcTarget s o.toInt) 30 ∧ go (.jr a) (s.x a) 0 ∧ go (.callr d a) (s.x a) d

/-- R102: a conditional branch whose condition holds goes to PC + sext(off16) * 4 as JMP would; one whose condition does not hold passes
on, whatever its target is. -/
def Claim.branches : Prop :=
  ∀ (s : State) (a : BitVec 5) (o : BitVec 16), s.th.vq = [] →
    let go (i : Instr) (cond : Prop) : Prop :=
      (¬ cond → exec i s = .next s.advance)
      ∧ (cond → exec i s = exec (.jmp (o.signExtend 26)) s)
    go (.beqz a o) ((s.x a).toInt = 0) ∧ go (.bnez a o) ((s.x a).toInt ≠ 0) ∧ go (.bltz a o) ((s.x a).toInt < 0)
    ∧ go (.bgez a o) (0 ≤ (s.x a).toInt) ∧ go (.bgtz a o) (0 < (s.x a).toInt) ∧ go (.blez a o) ((s.x a).toInt ≤ 0)
    ∧ (s.th.badRegs = [] → s.th.softRegs = [] → go (.bempty o) (∀ i, i < s.th.vl.toNat → s.th.maskTop.getLsbD i = false))

/-- R109, LOOP: the checks in their order, each with cause 0x0A and its EVAL and no effect; a count of 0 skips the body; any other count
enters a level with its count, start and end. -/
def Obligations.LoopEnters : Prop :=
  ∀ (s : State) (a : BitVec 5) (l : BitVec 8), s.th.vq = [] →
    let len := l.toNat + 1
    let n := s.th.ldepth.toNat
    let atEnd : Prop := 0 < n ∧ s.th.pc.toNat = (vread s.th.le (n - 1)).toNat
    let far : Prop := 0xFFFFFFFFFFFC < s.th.pc.toNat + 4 * len
    (atEnd → exec (.loop a l) s = .next (takeTrap s 0x0A s.th.pc s.th.pc none false))
    ∧ (¬ atEnd → 0xFFFFFFFF < (s.x a).toNat → exec (.loop a l) s = .next (takeTrap s 0x0A (s.x a) s.th.pc none false))
    ∧ (¬ atEnd → (s.x a).toNat ≤ 0xFFFFFFFF → far → exec (.loop a l) s = .next (takeTrap s 0x0A s.th.pc s.th.pc none false))
    ∧ (¬ atEnd → s.x a = 0 → ¬ far →
        exec (.loop a l) s = .next { s with th := s.th.jump (BitVec.ofNat 64 (s.th.pc.toNat + 4 + 4 * len)) })
    ∧ (¬ atEnd → s.x a ≠ 0 → (s.x a).toNat ≤ 0xFFFFFFFF → ¬ far → n = 3 →
        exec (.loop a l) s = .next (takeTrap s 0x0A (s.x a) s.th.pc none false))
    ∧ (¬ atEnd → s.x a ≠ 0 → (s.x a).toNat ≤ 0xFFFFFFFF → ¬ far → n < 3 →
        let t : Thread := { s.th with
          lc := vwrite s.th.lc n (BitVec.ofNat 32 (s.x a).toNat)
          ls := vwrite s.th.ls n (BitVec.ofNat 48 (s.th.pc.toNat + 4))
          le := vwrite s.th.le n (BitVec.ofNat 48 (s.th.pc.toNat + 4 * len))
          ldepth := BitVec.ofNat 2 (n + 1) }
        exec (.loop a l) s = .next { s with th := t.jump (s.th.pc + 4) })

/-- R113: MFLS reads and MTLS writes the loop register that the selector names; bits [1:0] of an address are stored as 0, and LDEPTH
takes no value above 3. That the loop-end check of an MTLS which lies at a loop's end runs on the state that it has written is the model's
choice (log 113). -/
def Obligations.LoopMoves : Prop :=
  ∀ (s : State) (x : BitVec 5), s.th.vq = [] →
    (∀ n, n < 3 →
      exec (.mfls x (BitVec.ofNat 4 n)) s = .next (s.ret x (BitVec.ofNat 64 (vread s.th.lc n).toNat))
      ∧ exec (.mfls x (BitVec.ofNat 4 (4 + n))) s = .next (s.ret x (BitVec.ofNat 64 (vread s.th.ls n).toNat))
      ∧ exec (.mfls x (BitVec.ofNat 4 (8 + n))) s = .next (s.ret x (BitVec.ofNat 64 (vread s.th.le n).toNat))
      ∧ exec (.mtls x (BitVec.ofNat 4 n)) s
          = .next { s with th := Thread.advance { s.th with lc := vwrite s.th.lc n (BitVec.ofNat 32 (s.x x).toNat) } }
      ∧ exec (.mtls x (BitVec.ofNat 4 (4 + n))) s
          = .next { s with th := Thread.advance { s.th with ls := vwrite s.th.ls n (BitVec.ofNat 48 ((s.x x).toNat / 4 * 4)) } }
      ∧ exec (.mtls x (BitVec.ofNat 4 (8 + n))) s
          = .next { s with th := Thread.advance { s.th with le := vwrite s.th.le n (BitVec.ofNat 48 ((s.x x).toNat / 4 * 4)) } })
    ∧ exec (.mfls x 12) s = .next (s.ret x (BitVec.ofNat 64 s.th.ldepth.toNat))
    ∧ ((s.x x).toNat ≤ 3 → exec (.mtls x 12) s = .next { s with th := Thread.advance { s.th with ldepth := BitVec.ofNat 2 (s.x x).toNat } })
    ∧ (3 < (s.x x).toNat → exec (.mtls x 12) s = .next (takeTrap s 0x0A (s.x x) s.th.pc none false))

/-- R115: the scalar reads of a mask, of the set S of the active elements below VL whose bit is set. -/
def Obligations.MaskReads : Prop :=
  ∀ (s : State) (d : BitVec 5) (a : BitVec 4) (k : Bool), s.th.vq = [] → s.th.badRegs = [] → s.th.softRegs = [] →
    let S := (List.range s.th.vl.toNat).filter (fun i => (vread s.th.m a.toNat).getLsbD i && (!k || s.th.maskTop.getLsbD i))
    exec (.mcnt d a k) s = .next (s.ret d (BitVec.ofNat 64 S.length))
    ∧ exec (.many d a k) s = .next (s.ret d (if S = [] then 0 else 1))
    ∧ exec (.mfirst d a k) s = .next (s.ret d (match S with
        | [] => BitVec.allOnes 64
        | i :: _ => BitVec.ofNat 64 i))

/-- R96 to R98: the scalar operations of one result, in each form, complete with the result that the rules give. -/
def Obligations.ScalarArithmetic : Prop := Claim.scalarArithmetic ∧ Claim.scalarCompare ∧ Claim.scalarDivide ∧ Claim.scalarImmediate

/-- R96: scalar shifts and bit counts. -/
def Obligations.ScalarBits : Prop := Claim.scalarShift ∧ Claim.scalarBitCount

/-- R99 to R106: jumps and branches. -/
def Obligations.Transfers : Prop := Claim.jumps ∧ Claim.branches

/-! ## Vector configuration (01_thread.md R14-R17, R22; 05_vector_ops.md R146) -/

/-- R16: the largest vector length. -/
def Obligations.LargestVectorLength : Prop :=
  ∀ (w : Word) (g : Bool), vtypeLegal w = true →
    vlmax w g = if g then min (vtG w * 16384 / vtBits w) 16384 else min (vtG w * 8192 / vtBits w) 8192

/-- R146: a configuration instruction with a legal VTYPE sets VTYPE, VL and xd; VL is at most VLMAX of the new VTYPE and the gang state;
VSHAPE and VSHAPEI set the columns of a row. -/
def Claim.configurationSets : Prop :=
  ∀ (s : State) (d a : BitVec 5) (t : BitVec 10) (c : BitVec 12),
    let set (vt n : Word) : State :=
      let vl := min n.toNat (vlmax vt s.th.gang)
      State.ret { s with th := { s.th with vtype := vt, vl := BitVec.ofNat 15 vl } } d (BitVec.ofNat 64 vl)
    (vtypeLegal (t.zeroExtend 64) = true → exec (.vseti d a t) s = .next (set (t.zeroExtend 64) (s.x a)))
    ∧ exec (.vsetvl d a) s = .next (set s.th.vtype (s.x a))
    ∧ (vtypeLegal (s.x a) = true → exec (.vsett d a) s = .next (set (s.x a) (s.th.vl.zeroExtend 64)))
    ∧ ((s.x a).toNat ≤ 16384 →
        exec (.vshape a) s = .next (State.advance { s with th := { s.th with cols := BitVec.ofNat 15 (s.x a).toNat } }))
    ∧ exec (.vshapei c) s = .next (State.advance { s with th := { s.th with cols := BitVec.ofNat 15 c.toNat } })

/-- R15 and R22: an illegal VTYPE takes cause 0x03 (with the word as EVAL in VSETI, with xa in VSETT), and so does a number of columns
above 16,384; nothing of the configuration changes before the trap is taken. -/
def Claim.configurationTraps : Prop :=
  ∀ (s : State) (d a : BitVec 5) (t : BitVec 10), s.th.vq = [] →
    (vtypeLegal (t.zeroExtend 64) = false →
      exec (.vseti d a t) s = .next (takeTrap s 0x03 ((wordOf (.vseti d a t)).zeroExtend 64) s.th.pc none false))
    ∧ (vtypeLegal (s.x a) = false → exec (.vsett d a) s = .next (takeTrap s 0x03 (s.x a) s.th.pc none false))
    ∧ (16384 < (s.x a).toNat → exec (.vshape a) s = .next (takeTrap s 0x03 (s.x a) s.th.pc none false))

/-- Every configuration instruction that completes leaves a legal VTYPE with a VL of at most VLMAX, when it found one. -/
def Claim.configurationShaped : Prop :=
  ∀ (s u : State) (d a : BitVec 5) (t : BitVec 10) (c : BitVec 12), s.th.shaped →
    (vtypeLegal (t.zeroExtend 64) = true → exec (.vseti d a t) s = .next u → u.th.shaped)
    ∧ (exec (.vsetvl d a) s = .next u → u.th.shaped)
    ∧ (vtypeLegal (s.x a) = true → exec (.vsett d a) s = .next u → u.th.shaped)
    ∧ (exec (.vshapei c) s = .next u → u.th.shaped)
    ∧ ((s.x a).toNat ≤ 16384 → exec (.vshape a) s = .next u → u.th.shaped)

/-! ## Vector arithmetic on groups (05_vector_ops.md R117-R145)

A vector instruction on a thread with nothing on its way runs to its end in its step (log 6, the model's choice of how far one step
reaches). Its checks at issue are those of R53 on what it captures. -/

/-- R123, R125: every form of majors 0x10 to 0x12, VDOT4 apart, whose checks pass completes and writes only its destination group, not
SRND, and no other register's progress; one whose check fails takes that cause with the word as EVAL. -/
def Obligations.VectorIntCompletes : Prop :=
  ∀ (s : State) (i : IntOp) (d a b : BitVec 5) (x : Bool) (w : BitVec 2) (k sb : Bool), s.idle → s.th.shaped →
    let op := intOp s i d a b x w k sb
    let checks := groupChecks s.th.gpr op (intW2Ok op) (intSources i op)
    (checks = .ok () → ∃ t, exec (intForm i d a b x w k sb) s = .next t ∧ VecDone s t (regsFrom d.toNat op.g) []
      ∧ VecKeeps s t (regsFrom d.toNat op.g))
    ∧ (∀ c, checks = .error c → exec (intForm i d a b x w k sb) s = .next (takeTrap s c op.word s.th.pc none false))

/-- R123, R125 with R21: after such an instruction whose sources are apart from its destination, or the same group, every active element
below VL holds the operation's result on the elements that were there before, a narrower second source extended to SEW (R49, R118), and
every other element of the group is undisturbed. -/
def Claim.vectorIntElements : Prop :=
  ∀ (s t : State) (i : IntOp) (d a b : BitVec 5) (x : Bool) (w : BitVec 2) (k sb : Bool), s.idle → s.th.shaped →
    let op := intOp s i d a b x w k sb
    groupChecks s.th.gpr op (intW2Ok op) (intSources i op) = .ok () → exec (intForm i d a b x w k sb) s = .next t →
    (∀ g ∈ intSources i op, g = op.groupD ∨ op.groupD.overlaps g = false) →
    ∀ j, j < vtG s.th.vtype * s.th.rb / op.sew → t.th.elem d.toNat op.sew j =
      if j < s.th.vl.toNat ∧ s.th.active k j = true then
        (intElem i op.signed op.saturates op.sew (s.th.elem op.a.toNat op.sew j)
          (intWrap op.sew (intVal op.signed op.group2.w (op.second s.th op.group2.w j))) (s.th.elem d.toNat op.sew j)).1
      else s.th.elem d.toNat op.sew j

/-- R73 and R123: the results of one element of w bits, as integers: the low w bits of the exact result, or the exact result clamped to
the format's range where the form saturates. -/
def Claim.intElementValues : Prop :=
  ∀ (sg : Bool) (w a b c : Nat), 4 ≤ w → w ≤ 64 → a < 2 ^ w → b < 2 ^ w → c < 2 ^ w →
    let x := intVal sg w a
    let y := intVal sg w b
    let z := intVal sg w c
    let low (r : Int) (v : Nat) : Prop := v < 2 ^ w ∧ (v : Int) % 2 ^ w = r % 2 ^ w
    let clamped (r : Int) (v : Nat) : Prop := v < 2 ^ w ∧ intVal sg w v = max (intMin sg w) (min (intMax sg w) r)
    let val (i : IntOp) (sat : Bool) : Nat := (intElem i sg sat w a b c).1
    low (x + y) (val .add false) ∧ low (x - y) (val .sub false) ∧ low (y - x) (val .rsub false) ∧ low (x * y) (val .mul false)
    ∧ low (z + x * y) (val .macc false) ∧ low (x * y / 2 ^ w) (val .mulh false) ∧ low |x| (val .abs false) ∧ low |x - y| (val .absd false)
    ∧ clamped (x + y) (val .add true) ∧ clamped (x - y) (val .sub true) ∧ clamped (y - x) (val .rsub true)
    ∧ clamped (x * y) (val .mul true) ∧ clamped (z + x * y) (val .macc true)
    ∧ intVal sg w (val .min false) = min x y ∧ intVal sg w (val .max false) = max x y
    ∧ (b = 0 → val .div false = 2 ^ w - 1) ∧ (b ≠ 0 → low (x.tdiv y) (val .div false))
    ∧ val .mov false = b ∧ val .and false = a &&& b ∧ val .or false = a ||| b ∧ val .xor false = a ^^^ b
    ∧ val .sll false = a * 2 ^ (b % w) % 2 ^ w ∧ val .srl false = a / 2 ^ (b % w)
    ∧ low (intVal true w a / 2 ^ (b % w)) (val .sra false) ∧ val .andn false = a &&& (2 ^ w - 1 - b)
    ∧ val .popc false = ((List.range w).filter (a.testBit ·)).length

/-- R126: a comparison completes and writes only its mask register; its bit i below VL, where active, says whether the relation holds, and
every other bit is undisturbed. Its only check is that its groups are aligned. -/
def Claim.vectorCompare : Prop :=
  ∀ (s : State) (c : CmpOp) (d : BitVec 4) (a b : BitVec 5) (x k sb : Bool), s.idle → s.th.shaped →
    let op := cmpOp s c d a b x k sb
    let fits : Prop := a.toNat % op.g = 0 ∧ (x = false → b.toNat % op.g = 0)
    (fits → ∃ t, exec (cmpForm c d a b x k sb) s = .next t ∧ VecDone s t [] [d.toNat] ∧ VecKeeps s t []
      ∧ ∀ i, i < 16384 → (vread t.th.m d.toNat).getLsbD i =
          if i < s.th.vl.toNat ∧ s.th.active k i = true then
            (cmpElem c op.fmt (vtSew op.vtype) op.signed (s.th.elem a.toNat op.sew i) (op.second s.th op.sew i)).1
          else (vread s.th.m d.toNat).getLsbD i)
    ∧ (¬ fits → exec (cmpForm c d a b x k sb) s = .next (takeTrap s 0x05 op.word s.th.pc none false))

/-- R126, the result of one comparison. Integers compare as signed or as natural numbers; a float NaN makes VCNE true and every other
relation false, with NV for a signalling one, or for any one under an ordered relation; other floats compare by their value, in which -0
is +0 and an infinity is beyond every number. -/
def Claim.compareResults : Prop :=
  ∀ (c : CmpOp) (fmt sew : Nat) (sg : Bool) (a b : Nat),
    (fmt ≠ 2 → fmt ≠ 3 → let x := intVal sg (sewBits sew) a
      let y := intVal sg (sewBits sew) b
      cmpElem c fmt sew sg a b = (match c with
        | .eq => decide (x = y)
        | .ne => decide (x ≠ y)
        | .lt => decide (x < y)
        | .le => decide (x ≤ y)
        | .gt => decide (y < x)
        | .ge => decide (y ≤ x), 0))
    ∧ (∀ f, fmt = 2 ∨ fmt = 3 → floatFmt fmt sew = some f → let x := f.decode a
      let y := f.decode b
      (x.isNan = true ∨ y.isNan = true → cmpElem c fmt sew sg a b
        = (c == .ne, if c = .eq ∨ c = .ne then (if x.snan || y.snan then flagNV else 0) else flagNV))
      ∧ (x.isNan = false → y.isNan = false → cmpElem c fmt sew sg a b = (match c with
        | .eq => !x.less y && !y.less x
        | .ne => x.less y || y.less x
        | .lt => x.less y
        | .le => !y.less x
        | .gt => y.less x
        | .ge => !x.less y, 0)))
    ∧ (∀ p q n m d e, 0 < d → 0 < e → let z (neg : Bool) (k : Nat) : Int := if neg then -k else k
      (FVal.fin p n d).less (.fin q m e) = decide (z p n * e < z q m * d)
      ∧ (FVal.fin p n d).less (.inf q) = !q ∧ (FVal.inf p).less (.fin q m e) = p ∧ (FVal.inf p).less (.inf q) = (p && !q))

/-- R124, R127, R128: VDOT4, the arithmetic of majors 0x14 and 0x15, and VCVT complete when their checks pass and write only their
destination group; a check that fails takes its cause with the word as EVAL. -/
def Claim.vectorFloatCompletes : Prop :=
  ∀ (s : State) (o : FltOp) (d a b : BitVec 5) (x : Bool) (w : BitVec 2) (k sb : Bool) (e : BitVec 3) (f : BitVec 4), s.idle → s.th.shaped →
    let go (i : Instr) (op : VOp) (checks : Check) : Prop :=
      (checks = .ok () → ∃ t, exec i s = .next t ∧ VecDone s t (regsFrom d.toNat op.g) [])
      ∧ (∀ c, checks = .error c → exec i s = .next (takeTrap s c op.word s.th.pc none false))
    let fop := fltOp s o d a b x w k
    let dop : VOp := { s.vop .dot4 d a b (wordOf (.vdot4 d a b x w k sb)) with x := x, w2 := w, k := k, s := sb }
    let cop : VOp := { s.vop (.cvt e f) d a 0 (wordOf (.vcvt d a e f k sb)) with k := k, s := sb }
    go (fltForm o d a b x w k) fop (fltChecks s o fop)
    ∧ go (.vdot4 d a b x w k sb) dop
        (groupChecks s.th.gpr dop (w == 0 && 16 ≤ dop.sew && (16 < dop.sew || dop.signed)) (dotSources dop))
    ∧ go (.vcvt d a e f k sb) cop
        (groupChecks s.th.gpr cop (pairLegal f.toNat e.toNat && (cvtSource cop e).n ≤ 8) [cvtSource cop e])

/-- R127 with R21 and R79 to R81: after an instruction of majors 0x14 and 0x15 whose sources are apart from its destination, or the same
group, every active element below VL holds the operation's result on the elements that were there before, a second source of a narrower
format extended (R118), rounded under FCS.RM; under RSR the generator steps once for each active element, in ascending order. Every other
element of the group is undisturbed. -/
def Claim.vectorFloatElements : Prop :=
  ∀ (s : State) (o : FltOp) (d a b : BitVec 5) (x : Bool) (w : BitVec 2) (k : Bool) (f f2 : FFmt), s.idle → s.th.shaped →
    let op := fltOp s o d a b x w k
    fltChecks s o op = .ok () → floatFmt op.fmt (vtSew op.vtype) = some f → secondFmt op.fmt (vtSew op.vtype) op.w2.toNat = some f2 →
    (∀ g ∈ fltSources o op, g = op.groupD ∨ op.groupD.overlaps g = false) →
    let seed (n : Nat) : BitVec 32 := (fun r => (roundOf s.th.rm r).2)^[n] s.th.srnd
    let mode (j : Nat) : Round := (roundOf s.th.rm (seed ((List.range j).filter (s.th.active k)).length)).1
    let second (j : Nat) : Nat := if o.readsB then (extendSecond f2 f op.w2.toNat (op.second s.th op.group2.w j)).1 else 0
    ∃ t, exec (fltForm o d a b x w k) s = .next t ∧ t.th.srnd = seed ((List.range s.th.vl.toNat).filter (s.th.active k)).length ∧
      ∀ j, j < vtG s.th.vtype * s.th.rb / op.sew → t.th.elem d.toNat op.sew j =
        if j < s.th.vl.toNat ∧ s.th.active k j = true then
          (fltElem f o (mode j) (s.th.elem op.a.toNat op.sew j) (second j) (s.th.elem d.toNat op.sew j)).1 % 2 ^ op.sew
        else s.th.elem d.toNat op.sew j

/-- R75 and R77 in the elements of FP32 arithmetic: a NaN operand gives the canonical NaN 0x7FC00000, with NV for a signalling one; 1 + 1
is 2, 1 / 0 is infinity with DZ, 0 * infinity is the canonical NaN with NV; VFABS and VFNEG act on the sign bit alone (R75). -/
def Claim.floatElementCases : Prop :=
  (∀ (m : Round) (a b : Nat), (fp32.decode a).isNan = true ∨ (fp32.decode b).isNan = true →
    ∀ o ∈ [FltOp.add, .sub, .mul, .div], fltElem fp32 o m a b 0
      = (0x7FC00000, if (fp32.decode a).snan || (fp32.decode b).snan then flagNV else 0))
  ∧ (∀ m : Round, fltElem fp32 .add m 0x3F800000 0x3F800000 0 = (0x40000000, 0))
  ∧ (∀ m : Round, fltElem fp32 .div m 0x3F800000 0 0 = (0x7F800000, flagDZ))
  ∧ (∀ m : Round, fltElem fp32 .mul m 0 0x7F800000 0 = (0x7FC00000, flagNV))
  ∧ (∀ (m : Round) (a : Nat), a < 2 ^ 32 →
      fltElem fp32 .abs m a 0 0 = (a % 2 ^ 31, 0) ∧ fltElem fp32 .neg m a 0 0 = ((a + 2 ^ 31) % 2 ^ 32, 0))

/-- R130: the mask stack. MPUSH pushes ma AND the top below VL and the top above, MINV inverts the top under the entry below it, MPOP
drops the top; a full stack for MPUSH and an empty one for MINV and MPOP take cause 0x06 with the depth as EVAL. Outside a gang the bits
of a new entry from 8,192 on are 0. -/
def Obligations.MaskStack : Prop :=
  ∀ (s : State) (a : BitVec 4), s.idle → s.th.msdepth.toNat ≤ 8 →
    let n := s.th.msdepth.toNat
    let BITS := if s.th.gang then 16384 else 8192
    let under (i : Nat) : Bool := if n ≤ 1 then true else (vread s.th.ms (n - 2)).getLsbD i
    (n < 8 → ∃ ms, exec (.mpush a) s = .next (State.advance { s with th := { s.th with ms := ms, msdepth := BitVec.ofNat 4 (n + 1) } })
      ∧ (∀ r, r < 8 → r ≠ n → vread ms r = vread s.th.ms r)
      ∧ ∀ i, i < 16384 → (vread ms n).getLsbD i =
          (decide (i < BITS) && s.th.maskTop.getLsbD i && (decide (s.th.vl.toNat ≤ i) || (vread s.th.m a.toNat).getLsbD i)))
    ∧ (0 < n → ∃ ms, exec .minv s = .next (State.advance { s with th := { s.th with ms := ms } })
      ∧ (∀ r, r < 8 → r ≠ n - 1 → vread ms r = vread s.th.ms r)
      ∧ ∀ i, i < 16384 → (vread ms (n - 1)).getLsbD i =
          if i < s.th.vl.toNat then under i && !s.th.maskTop.getLsbD i else s.th.maskTop.getLsbD i)
    ∧ (0 < n → exec .mpop s = .next (State.advance { s with th := { s.th with msdepth := BitVec.ofNat 4 (n - 1) } }))
    ∧ (n = 8 → exec (.mpush a) s = .next (takeTrap s 0x06 8 s.th.pc none false))
    ∧ (n = 0 → exec .minv s = .next (takeTrap s 0x06 0 s.th.pc none false) ∧ exec .mpop s = .next (takeTrap s 0x06 0 s.th.pc none false))

/-- R131: mask logic writes md below VL where active, and nothing else. -/
def Claim.maskLogic : Prop :=
  ∀ (s : State) (d a b : BitVec 4) (k : Bool), s.idle →
    let go (i : Instr) (f : Bool → Bool → Bool) : Prop :=
      ∃ t, exec i s = .next t ∧ VecDone s t [] [d.toNat] ∧ VecKeeps s t [] ∧ ∀ j, j < 16384 → (vread t.th.m d.toNat).getLsbD j =
        if j < s.th.vl.toNat ∧ s.th.active k j = true
        then f ((vread s.th.m a.toNat).getLsbD j) ((vread s.th.m b.toNat).getLsbD j) else (vread s.th.m d.toNat).getLsbD j
    go (.mand d a b k) (· && ·) ∧ go (.mor d a b k) (· || ·) ∧ go (.mxor d a b k) (· ^^ ·) ∧ go (.mmov d a k) (fun p _ => p)

/-- R132: the slides, permutes and moves complete when their checks pass and write only their destination group; VMVXS reads element 0
of va, sign-extended under s and zero-extended otherwise, whatever VL is. -/
def Claim.permuteCompletes : Prop :=
  ∀ (s : State) (o : PermOp) (d a b : BitVec 5) (k sb : Bool), s.idle → s.th.shaped →
    let op := permOp s o d a b k
    (permChecks s o op = .ok () → ∃ t, exec (permForm o d a b k) s = .next t ∧ VecDone s t (regsFrom d.toNat op.g) []
      ∧ VecKeeps s t (regsFrom d.toNat op.g))
    ∧ (∀ c, permChecks s o op = .error c → exec (permForm o d a b k) s = .next (takeTrap s c op.word s.th.pc none false))
    ∧ (a.toNat % op.g = 0 → exec (.vmvxs d a sb) s = .next (s.ret d
        (if sb then BitVec.ofInt 64 (intVal true op.sew (s.th.elem a.toNat op.sew 0)) else BitVec.ofNat 64 (s.th.elem a.toNat op.sew 0))))

/-- R132 with R121: after a permute whose sources are apart from its destination, or the same group, each element below VL that it may
write holds what its source held before, or the value that fills it, and every other element of the group is undisturbed. All but VCOMPRESS
write active elements alone. -/
def Claim.permuteElements : Prop :=
  ∀ (s : State) (o : PermOp) (d a b : BitVec 5) (k : Bool), s.idle → s.th.shaped →
    let op := permOp s o d a b k
    permChecks s o op = .ok () → (∀ g ∈ permSources o op, g = op.groupD ∨ op.groupD.overlaps g = false) →
    ∃ t, exec (permForm o d a b k) s = .next t ∧ ∀ j, j < vtG s.th.vtype * s.th.rb / op.sew → t.th.elem d.toNat op.sew j =
      if j < s.th.vl.toNat ∧ (o = .compress ∨ s.th.active k j = true) then
        (match permSrc o op s.th j with
        | .keep => s.th.elem d.toNat op.sew j
        | .const v => v
        | .elem q => s.th.elem a.toNat op.sew q)
      else s.th.elem d.toNat op.sew j

/-- R132, VCOMPRESS: in a row, the elements whose mask bit is set and which are active go to the row-local positions 0, 1, 2 and so on, in
ascending order; positions from their number on stay. -/
def Claim.compressSources : Prop :=
  ∀ (op : VOp) (t : Thread) (i : Nat), let r0 := (rowAt op.cols.toNat op.n_ i).1
    let L := (rowAt op.cols.toNat op.n_ i).2
    let selected (q : Nat) : Bool := (vread t.m op.b.toNat).getLsbD q && t.active op.k q
    (∀ q, r0 ≤ q → q < r0 + L → selected q = true →
      permSrc .compress op t (r0 + ((List.range' r0 (q - r0)).filter selected).length) = .elem q)
    ∧ (((List.range' r0 L).filter selected).length ≤ i - r0 → permSrc .compress op t i = .keep)

/-- R132, the element that each function takes its result from, in the row of element i with first element r0, length L and row-local
index j: what a slide, a permute or a broadcast reads, and where it gives 0 or leaves the element. -/
def Claim.permuteSources : Prop :=
  ∀ (op : VOp) (t : Thread) (i : Nat), let r0 := (rowAt op.cols.toNat op.n_ i).1
    let L := (rowAt op.cols.toNat op.n_ i).2
    let j := i - r0
    let x := op.xb.toNat
    let p := t.elem op.b.toNat op.sew i
    (permSrc .slideUp op t i = if x ≤ j then .elem (i - x) else .keep)
    ∧ (permSrc .slideDn op t i = if j + x < L then .elem (i + x) else .const 0)
    ∧ (permSrc .slide1Up op t i = if j = 0 then .const (x % 2 ^ op.sew) else .elem (i - 1))
    ∧ (permSrc .slide1Dn op t i = if j + 1 < L then .elem (i + 1) else .const (x % 2 ^ op.sew))
    ∧ (permSrc .perm op t i = if p < L then .elem (r0 + p) else .const 0)
    ∧ (permSrc .bcast op t i = if x < L then .elem (r0 + x) else .const 0)
    ∧ (permSrc .insert op t i = if i = 0 then .const (op.xa.toNat % 2 ^ op.sew) else .keep)

/-- R133 to R136: a reduction, scan or segmented operation completes when its checks pass, and writes only its destination group; where the
results are more than VLMAX it takes cause 0x07 with VL as EVAL. -/
def Claim.reductionCompletes : Prop :=
  ∀ (s : State) (o : RedOp) (g : SegOp) (d a : BitVec 5) (b : BitVec 4) (k sb : Bool), s.idle → s.th.shaped →
    let op := redOp s o d a k sb
    let gop := segOp s g d a b k sb
    let rows := (rowsOf s.th.cols.toNat s.th.vl.toNat).length
    let count := match o with
      | .minI | .maxI => 2 * rows
      | .scan | .scanX => 0
      | _ => rows
    let checks := groupChecks s.th.gpr op true [op.groupA]
    let gchecks := groupChecks s.th.gpr gop true [gop.groupA]
    (checks = .ok () → count ≤ vlmax s.th.vtype s.th.gang →
      ∃ t, exec (redForm o d a k sb) s = .next t ∧ VecDone s t (regsFrom d.toNat op.g) [])
    ∧ (checks = .ok () → vlmax s.th.vtype s.th.gang < count →
      exec (redForm o d a k sb) s = .next (takeTrap s 0x07 (s.th.vl.zeroExtend 64) s.th.pc none false))
    ∧ (∀ c, checks = .error c → exec (redForm o d a k sb) s = .next (takeTrap s c op.word s.th.pc none false))
    ∧ (gchecks = .ok () → ∃ t, exec (segForm g d a b k sb) s = .next t ∧ VecDone s t (regsFrom d.toNat gop.g) [])
    ∧ (∀ c, gchecks = .error c → exec (segForm g d a b k sb) s = .next (takeTrap s c gop.word s.th.pc none false))

/-- R134 with R22: VRSUM of integers under VSHAPE.COLS = 0 writes the sum of the active elements below VL to element 0, wrapped to SEW
bits, or clamped under s for the integer formats. -/
def Claim.integerSum : Prop :=
  ∀ (s t : State) (d a : BitVec 5) (k sb : Bool), s.idle → s.th.shaped → s.th.cols = 0 → 0 < s.th.vl.toNat →
    let op := redOp s .sum d a k sb
    groupChecks s.th.gpr op true [op.groupA] = .ok () → op.fmt ≤ 1 → exec (.vrsum d a k sb) s = .next t →
    let sum := (((List.range s.th.vl.toNat).filter (s.th.active k)).map (fun i => intVal (op.fmt == 0) op.sew (s.th.elem a.toNat op.sew i))).sum
    intVal (op.fmt == 0) op.sew (t.th.elem d.toNat op.sew 0) =
      if sb then max (intMin (op.fmt == 0) op.sew) (min (intMax (op.fmt == 0) op.sew) sum)
      else intVal (op.fmt == 0) op.sew (intWrap op.sew sum)

/-- R137 to R142: the instructions of major 0x1B complete when their checks and their operand values pass; they write their destination
group, and VTOPK the mask that its operand names. An operand value that fails takes cause 0x07. -/
def Claim.sortCompletes : Prop :=
  ∀ (s : State) (o : SortOp) (d a b : BitVec 5) (sb : Bool), s.idle → s.th.shaped →
    let op := sortOp s o d a b sb
    let om := match o with
      | .topk => [(s.x b).toNat / 2 ^ 28 % 16]
      | _ => []
    (sortChecks o op = .ok () → sortBad o op s.th.gang = none →
      ∃ t, exec (sortForm o d a b sb) s = .next t ∧ VecDone s t (regsFrom d.toNat op.g) om)
    ∧ (∀ v, sortChecks o op = .ok () → sortBad o op s.th.gang = some v →
      exec (sortForm o d a b sb) s = .next (takeTrap s 0x07 v s.th.pc none false))
    ∧ (∀ c, sortChecks o op = .error c → exec (sortForm o d a b sb) s = .next (takeTrap s c op.word s.th.pc none false))

/-- R143 to R145: the scaled instructions complete when their checks pass; VBMAX writes the scales in v31, the others their destination
group, which never reaches v31. -/
def Claim.scaledCompletes : Prop :=
  ∀ (s : State) (o : ScaleOp) (d a b : BitVec 5) (w : BitVec 2) (k : Bool), s.idle → s.th.shaped →
    let op := scaleOp s o d a b w k
    (scaleChecks s o op = .ok () → ∃ t, exec (scaleForm o d a b w k) s = .next t
      ∧ VecDone s t (regsFrom (o.dst op).base (o.dst op).n) [] ∧ ((o.dst op).base + (o.dst op).n ≤ 31 ∨ o = .bmax))
    ∧ (∀ c, scaleChecks s o op = .error c → exec (scaleForm o d a b w k) s = .next (takeTrap s c op.word s.th.pc none false))

/-- R14 to R17, R22, R146: VSETI and its relatives set the vector configuration, or trap, and leave a legal one. -/
def Obligations.Configuration : Prop := Claim.configurationSets ∧ Claim.configurationTraps ∧ Claim.configurationShaped

/-- R73, R123, R125: the elements of an integer vector instruction, and the value of each. -/
def Obligations.VectorIntElements : Prop := Claim.vectorIntElements ∧ Claim.intElementValues

/-- R126, R130, R131: comparisons and mask logic write the mask registers that they name. -/
def Obligations.MaskWriters : Prop := Claim.vectorCompare ∧ Claim.compareResults ∧ Claim.maskLogic

/-- R75, R77, R124, R127, R128: float vector instructions complete, with their elements. -/
def Obligations.VectorFloat : Prop := Claim.vectorFloatCompletes ∧ Claim.vectorFloatElements ∧ Claim.floatElementCases

/-- R132: permutations complete, each element from its source. -/
def Obligations.Permutes : Prop := Claim.permuteCompletes ∧ Claim.permuteElements ∧ Claim.permuteSources ∧ Claim.compressSources

/-- R133 to R136: reductions and scans complete, and an integer sum is the sum of the active elements. -/
def Obligations.Reductions : Prop := Claim.reductionCompletes ∧ Claim.integerSum

/-- R137 to R145: sorting steps and scaled formats complete. -/
def Obligations.SortsAndScales : Prop := Claim.sortCompletes ∧ Claim.scaledCompletes

/-! ## Scalar memory (06_memory_isa.md R149-R157, R165-R167; 04_scalar_control.md R107)

The statements are about a thread with nothing on its way in a settled pod, and about memory without uncorrectable words; an access that
passes the checks of R151 has a place, its key. -/

/-- R149 to R151 for the spaces that are not translated, and for what fails before translation: the tag and the fixed bits, the alignment,
the privilege, in that order. -/
def Obligations.AccessChecks : Prop :=
  ∀ (s : State) (ag : Agent) (write : Bool) (n align elem : Nat) (a : Word), 0 < n → 0 < align → n ≤ 2 ^ 14 →
    let misaligned : Prop := a.toNat % align ≠ 0
    let t := s.thread ag.slot
    (tagOf a ∉ [0x0, 0x8, 0x9, 0xC, 0xF] → checkAccess s ag write n align elem a = .error (.trap 0x20 a))
    ∧ (tagOf a = 0 → 127 < nodeOf a → checkAccess s ag write n align elem a = .error (.trap 0x20 a))
    ∧ (tagOf a = 0 → nodeOf a ≤ 127 → misaligned → checkAccess s ag write n align elem a = .error (.trap 0x25 a))
    ∧ (tagOf a = 8 → a.extractLsb' 23 37 ≠ 0 → checkAccess s ag write n align elem a = .error (.trap 0x20 a))
    ∧ (tagOf a = 8 → a.extractLsb' 23 37 = 0 → misaligned → checkAccess s ag write n align elem a = .error (.trap 0x25 a))
    ∧ (tagOf a = 8 → a.extractLsb' 23 37 = 0 → ¬ misaligned → 2 ^ 23 < a.toNat % 2 ^ 23 + n →
        checkAccess s ag write n align elem a = .error (.trap 0x20 a))
    ∧ (tagOf a = 8 → a.extractLsb' 23 37 = 0 → a.toNat % 2 ^ 23 + n ≤ 2 ^ 23 → ¬ misaligned →
        (write = true → inRegion (s.cluster (ag.slot / 16)) (a.toNat % 2 ^ 23) n = false) →
        checkAccess s ag write n align elem a = .ok (.mem (larderKey (ag.slot / 16) (a.toNat % 2 ^ 23))))
    ∧ (tagOf a = 9 → t.psize.toNat * 1024 < a.toNat % 2 ^ 14 + n →
        checkAccess s ag write n align elem a = .error (.trap 0x29 (BitVec.ofNat 64 (elem * 2 ^ 32 + a.toNat % 2 ^ 14))))
    ∧ (tagOf a = 9 → t.gang = false → a.toNat % 2 ^ 14 + n ≤ t.psize.toNat * 1024 → a.extractLsb' 20 40 = 0 → ¬ misaligned →
        checkAccess s ag write n align elem a
          = .ok (.mem (pantryKey (ag.slot / 4) (a.toNat / 2 ^ 14 % 64) (t.pbase.toNat * 1024 + a.toNat % 2 ^ 14))))
    ∧ (tagOf a = 0xF → nodeOf a ≤ 127 → (misaligned ∨ n ≠ 8) → checkAccess s ag write n align elem a = .error (.trap 0x25 a))
    ∧ (tagOf a = 0xF → nodeOf a ≤ 127 → ¬ misaligned → n = 8 → ag.sys = false →
        checkAccess s ag write n align elem a = .error (.trap 0x22 a))
    ∧ (tagOf a = 0xF → nodeOf a ≤ 127 → ¬ misaligned → n = 8 → ag.sys = true → checkAccess s ag write n align elem a = .ok (.reg a))

/-- R303 to R305 with R151 steps 5 to 7: the place of a pod address in a 64 KiB page is reached through the tables of its home; a page
that forbids the access gives cause 0x22, one that is not there cause 0x21 where the ASID has no fault service, and a write to a sealed
region cause 0x24. -/
def Claim.translatedPlace : Prop :=
  ∀ (s : State) (ag : Agent) (write : Bool) (n elem : Nat) (a : Word) (dpa size : Nat) (wr user : Bool),
    tagOf a = 0 → nodeOf a ≤ 127 → 0 < n → a.toNat % n = 0 → s.reachable (slotDie ag.slot) (nodeOf a) = true →
    let home := s.homeOf (slotNode ag.slot) a
    s.migrating home ag.asid a = false → pageHeld s ag home (fsImage ag.asid a write (!ag.sys)) = none →
    let allowed : Prop := (write = true → wr = true) ∧ (ag.sys = false → user = true)
    let isSealed : Prop := write = true ∧ sealedAt (s.die home) ag.asid a n = true
    (walk s home ag.asid a = .leaf dpa wr user size → dpa % 2 ^ 31 < 0x60000000 → engineOwned s (podKey home dpa) = false → allowed →
      ¬ isSealed → checkAccess s ag write n n elem a = .ok (.mem (podKey home dpa)))
    ∧ (walk s home ag.asid a = .leaf dpa wr user size → dpa % 2 ^ 31 < 0x60000000 → allowed → isSealed →
      checkAccess s ag write n n elem a = .error (.trap 0x24 a))
    ∧ (walk s home ag.asid a = .leaf dpa wr user size → ¬ allowed → checkAccess s ag write n n elem a = .error (.trap 0x22 a))
    ∧ (walk s home ag.asid a = .absent false ∨ walk s home ag.asid a = .bad → checkAccess s ag write n n elem a = .error (.trap 0x21 a))

/-- R304 and R305, the walk of a 64 KiB page: an ASID entry with its second word 0, three table entries and a leaf, each valid and with its
reserved bits 0, give the frame of the leaf with the address's low 16 bits, and the leaf's permissions. An address that the die has cached a
translation of takes that one, whatever the tables say now; any other is walked. -/
def Claim.pageWalk : Prop :=
  ∀ (s : State) (die : Nat) (asid : BitVec 12) (a : Word) (w0 wa wb wc wd : Word), s.poison = [] →
    let read (dpa : Nat) (w : Word) : Prop := memWord s.mem (podKey die dpa) = w
    let valid (w : Word) : Prop := w.getLsbD 0 = true ∧ w.extractLsb' 4 4 = 0 ∧ w.extractLsb' 37 27 = 0
    read ((s.die die).asidtab.toNat + asid.toNat * 16) w0 → w0.getLsbD 0 = true → w0.extractLsb' 2 7 = 0 → w0.extractLsb' 37 27 = 0 →
    read ((s.die die).asidtab.toNat + asid.toNat * 16 + 8) 0 →
    read ((w0.extractLsb' 9 28).toNat * 512 + (chanOf a).toNat * 8) wa → valid wa → wa.getLsbD 1 = false → tableOf wa % 2 ^ 15 = 0 →
    read (tableOf wa + offOf a / 2 ^ 31 * 8) wb → valid wb → wb.getLsbD 1 = false → tableOf wb % 2 ^ 13 = 0 →
    read (tableOf wb + offOf a / 2 ^ 21 % 1024 * 8) wc → valid wc → wc.getLsbD 1 = false → tableOf wc % 2 ^ 8 = 0 →
    read (tableOf wc + offOf a / 2 ^ 16 % 32 * 8) wd → valid wd → wd.getLsbD 1 = true → tableOf wd % 2 ^ 16 = 0 →
    tableOf wd / 2 ^ 31 = (chanOf a).toNat →
    walkTables s die asid a = .leaf (tableOf wd + offOf a % 2 ^ 16) (wd.getLsbD 2) (wd.getLsbD 3) (2 ^ 16)
    ∧ ((∀ x ∈ (s.die die).xlats, x.covers asid a = false) → walk s die asid a = walkTables s die asid a)
    ∧ ∀ pre x post, (s.die die).xlats = pre ++ x :: post → (∀ y ∈ pre, y.covers asid a = false) →
        x.asid = asid → x.chan = chanOf a → x.page = offOf a / x.size →
        walk s die asid a = .leaf (x.frame + offOf a % x.size) x.wr x.user x.size

/-- R157: a scalar load reads its bytes, least significant first, extends them, writes xt, counts one element into its stream as issued
and complete, and leaves every byte of memory. Its line is asked for at the home, from which another die's line travels (18_fabric.md
R410), or at the core's data cache where the core keeps lines (09_core.md R208). -/
def Obligations.ScalarLoads : Prop :=
  ∀ (s : State) (t b i : BitVec 5) (sn e : BitVec 3) (key : Nat), s.idle → s.settled → s.poison = [] →
    ∀ p ∈ scalarLoads, let a := s.x b + s.x i
      checkAccess s s.agent false p.size p.size 0 a = .ok (.mem key) →
      let u := (readLine s s.cur a key).countScalar sn
      let v := leNat (memBytes s.mem key p.size)
      exec (p.form t b i sn e) s = .next (u.ret t (if p.signed then BitVec.ofInt 64 (intVal true (8 * p.size) v) else BitVec.ofNat 64 v))
      ∧ u.mem = s.mem ∧ u.th = s.th.countNow sn 1
      ∧ (s.caching.contains s.coreKey = false → readLine s s.cur a key =
          (if tagOf a = 0xC then s else fetchData s s.dieKey (BitVec.ofNat 64 (a.toNat / 128 * 128)) (key / 128 * 128) 128).touch s.coreKey a key)

/-- R157 with R154: a blocking scalar store writes the low bytes of xt at its place and no other byte of memory, and counts one element
into its stream as issued and complete. At a place of another die the bytes go there in a line write, whose effect belongs to the step
(18_fabric.md R412). That a blocking store performs in its step is the model's choice (log 7). -/
def Claim.plainStores : Prop :=
  ∀ (s : State) (t b i : BitVec 5) (sn e : BitVec 3) (key : Nat), s.idle → s.settled → s.poison = [] →
    ∀ p ∈ scalarStores, let a := s.x b + s.x i
      checkAccess s s.agent true p.1 p.1 0 a = .ok (.mem key) →
      (remoteKey s.cur key = false → ∃ u : State, exec (p.2 t b i sn e false) s = .next u.advance ∧ u.th = s.th.countNow sn 1
        ∧ ∀ k, memGet u.mem k = if key ≤ k ∧ k < key + p.1 then BitVec.ofNat 8 ((s.x t).toNat / 256 ^ (k - key)) else memGet s.mem k)
      ∧ (remoteKey s.cur key = true → ∃ u, exec (p.2 t b i sn e false) s = .next (State.advance (s.landed u))
        ∧ s.buffered u sn key ((List.range p.1).map (fun j => BitVec.ofNat 8 ((s.x t).toNat / 256 ^ j))) none)

/-- R154, R157: a non-blocking scalar store commits with its element outstanding: pending, or in the write buffer of its core when its home
is another die. That memory stands after the step, until the element performs, is the model's choice (log 7). -/
def Claim.scalarStoresNonBlocking : Prop :=
  ∀ (s : State) (t b i : BitVec 5) (sn e : BitVec 3) (key : Nat), s.idle → s.settled → s.poison = [] →
    ∀ p ∈ scalarStores, let a := s.x b + s.x i
      checkAccess s s.agent true p.1 p.1 0 a = .ok (.mem key) →
      ∃ u : State, exec (p.2 t b i sn e true) s = .next u.advance ∧ u.mem = s.mem
        ∧ vread u.th.ic sn.toNat = vread s.th.ic sn.toNat + 1 ∧ u.th.cc = s.th.cc ∧ u.th.ops = [⟨s.th.nextOp, sn, 1⟩]
        ∧ (remoteKey s.cur key = false → ∃ q, u.th.pend = [q] ∧ q.kind = .store ∧ q.key = key ∧ q.sew = 8 * p.1
            ∧ q.data.toNat = (s.x t).toNat % 256 ^ p.1 ∧ q.op = s.th.nextOp)
        ∧ (remoteKey s.cur key = true →
            s.buffered u sn key ((List.range p.1).map (fun j => BitVec.ofNat 8 ((s.x t).toNat / 256 ^ j))) none)

/-- R157: a scalar atomic writes its new value at its place and no other byte, and xt receives the old value; SACAS writes xt only where
the old value is xi. -/
def Obligations.ScalarAtomics : Prop :=
  ∀ (s : State) (t b i : BitVec 5) (sn e : BitVec 3) (key : Nat), s.idle → s.settled → s.poison = [] →
    let old := memWord s.mem key
    let go (ins : Instr) (a new : Word) : Prop := checkAccess s s.agent true 8 8 0 a = .ok (.mem key) →
      ∃ u : State, exec ins s = .next (u.ret t old) ∧ u.th = s.th.countNow sn 1
        ∧ ∀ k, memGet u.mem k = if key ≤ k ∧ k < key + 8 then BitVec.ofNat 8 (new.toNat / 256 ^ (k - key)) else memGet s.mem k
    go (.saadd t b i sn e) (s.x b + s.x i) (BitVec.ofNat 64 (old.toNat + (s.x t).toNat))
    ∧ go (.samax t b i sn e) (s.x b + s.x i) (if old.toInt < (s.x t).toInt then s.x t else old)
    ∧ go (.saswap t b i sn e) (s.x b + s.x i) (s.x t)
    ∧ go (.sacas t b i sn e) (s.x b) (if old = s.x i then s.x t else old)

/-- R167, R165: HLD reads 32 bytes into a handle, whose reserved bits stay 0, and HST writes them; HGET reads and HSET writes one word of a
handle, HSET only where R165 lets software write; a selector above 3, or HSET of words 0 to 2 while RLP is 1, takes cause 0x26. That EVAL of
both is xi for HSET is the model's choice (log 105). -/
def Claim.handles : Prop :=
  ∀ (s : State) (h : BitVec 4) (x b i : BitVec 5) (sn e : BitVec 3) (key : Nat), s.idle → s.settled → s.poison = [] →
    let old := vread s.th.h h.toNat
    let word (v : BitVec 256) (j : Nat) : Word := v.extractLsb' (64 * j) 64
    let sel := (s.x i).toNat
    (checkAccess s s.agent false 32 32 0 (s.x b) = .ok (.mem key) →
      ∃ u : State, exec (.hld h b sn e) s = .next (State.advance { u with th := { u.th with
          h := vwrite u.th.h h.toNat
            (BitVec.ofNat 256 (leNat (memBytes s.mem key 32)) &&& ~~~(BitVec.ofNat 256 (2 ^ 135 + 31 * 2 ^ 155))) } })
        ∧ u.th = s.th.countNow sn 1 ∧ u.mem = s.mem)
    ∧ (checkAccess s s.agent true 32 32 0 (s.x b) = .ok (.mem key) → remoteKey s.cur key = false →
      ∃ u : State, exec (.hst h b sn e) s = .next u.advance ∧ u.th = s.th.countNow sn 1
        ∧ ∀ k, memGet u.mem k = if key ≤ k ∧ k < key + 32 then old.extractLsb' (8 * (k - key)) 8 else memGet s.mem k)
    ∧ (checkAccess s s.agent true 32 32 0 (s.x b) = .ok (.mem key) → remoteKey s.cur key = true →
      ∃ u, exec (.hst h b sn e) s = .next (State.advance (s.landed u))
        ∧ s.buffered u sn key ((List.range 32).map (fun j => old.extractLsb' (8 * j) 8)) none)
    ∧ (sel ≤ 3 → exec (.hget x h i) s = .next (s.ret x (word old sel)))
    ∧ (3 < sel → exec (.hget x h i) s = .next (takeTrap s 0x26 (s.x i) s.th.pc none false))
    ∧ (sel ≤ 3 → (sel < 3 → old.getLsbD 153 = false) →
      ∃ new, exec (.hset h b i) s = .next (State.advance { s with th := { s.th with h := vwrite s.th.h h.toNat new } })
        ∧ (∀ j, j < 4 → j ≠ sel → word new j = word old j) ∧ (sel < 2 → word new sel = s.x b) ∧ (sel = 3 → word new 3 = word old 3)
        ∧ (sel = 2 → word new 2 = (word old 2 &&& ~~~(0x100FF7F : Word)) ||| (s.x b &&& 0x100FF7F)))
    ∧ (3 < sel ∨ (sel < 3 ∧ old.getLsbD 153 = true) → exec (.hset h b i) s = .next (takeTrap s 0x26 (s.x i) s.th.pc none false))

/-- R107: JTAB falls through at or beyond its length without an access; within it, it reads the entry as LD64 would, and goes to it, or
takes cause 0x08 with the entry as EVAL. -/
def Obligations.JumpTable : Prop :=
  ∀ (s : State) (d a : BitVec 5) (l : BitVec 12) (key : Nat), s.idle → s.settled → s.poison = [] →
    let ea := s.x d + 8 * s.x a
    let entry := memWord s.mem key
    (l.toNat ≤ (s.x a).toNat → exec (.jtab d a l) s = .next s.advance)
    ∧ ((s.x a).toNat < l.toNat → checkAccess s s.agent false 8 8 0 ea = .ok (.mem key) → entry.extractLsb' 0 2 = 0 →
        entry.extractLsb' 48 16 = 0 →
        ∃ u : State, exec (.jtab d a l) s = .next { u with th := s.th.jump entry } ∧ u.th = s.th ∧ u.mem = s.mem)
    ∧ ((s.x a).toNat < l.toNat → checkAccess s s.agent false 8 8 0 ea = .ok (.mem key) →
        (entry.extractLsb' 0 2 ≠ 0 ∨ entry.extractLsb' 48 16 ≠ 0) →
        exec (.jtab d a l) s = .next (takeTrap s 0x08 entry s.th.pc none false))
    ∧ (∀ c v, (s.x a).toNat < l.toNat → checkAccess s s.agent false 8 8 0 ea = .error (.trap c v) →
        exec (.jtab d a l) s = .next (takeTrap s c v s.th.pc none false))

/-- R151, R157: a scalar access that fails a check takes its cause with no effect, and one that reaches a register reads or writes it
(R216); each form of R157 and HLD and HST. -/
def Claim.scalarAccessStops : Prop :=
  ∀ (s : State) (t b i : BitVec 5) (h : BitVec 4) (sn e : BitVec 3) (nb : Bool) (c : BitVec 7) (v : Word), s.idle →
    let a := s.x b + s.x i
    let stops (write : Bool) (n : Nat) (a : Word) (ins : Instr) : Prop :=
      checkAccess s s.agent write n n 0 a = .error (.trap c v) → exec ins s = .next (takeTrap s c v s.th.pc none false)
    (∀ p ∈ scalarLoads, stops false p.size a (p.form t b i sn e)) ∧ (∀ p ∈ scalarStores, stops true p.1 a (p.2 t b i sn e nb))
    ∧ stops true 8 a (.saadd t b i sn e) ∧ stops true 8 a (.samax t b i sn e) ∧ stops true 8 a (.saswap t b i sn e)
    ∧ stops true 8 (s.x b) (.sacas t b i sn e) ∧ stops false 32 (s.x b) (.hld h b sn e) ∧ stops true 32 (s.x b) (.hst h b sn e)
    ∧ (s.settled → checkAccess s s.agent false 8 8 0 a = .ok (.reg a) →
        ∀ w u, regRead s s.cur a = .ok (w, u) → exec (.ld64 t b i sn e) s = .next ((u.countScalar sn).ret t w))
    ∧ (s.settled → checkAccess s s.agent true 8 8 0 a = .ok (.reg a) →
        ∀ u, regWrite s s.cur a (s.x t) = .ok u → exec (.st64 t b i sn e nb) s = .next (u.countScalar sn).advance)

/-- R151, R303 to R305: where an address lies, by the walk of the page tables. -/
def Obligations.Translation : Prop := Claim.translatedPlace ∧ Claim.pageWalk

/-- R154, R157: scalar stores, at once and non-blocking, with every byte that they leave. -/
def Obligations.ScalarStores : Prop := Claim.plainStores ∧ Claim.scalarStoresNonBlocking

/-! ## Vector memory (06_memory_isa.md R153-R175)

The statements are about a thread with nothing on its way in a settled pod, and memory without uncorrectable words. -/

/-- R158, R161: the addresses of element i of w bits, in bytes: consecutive, a stride apart, in rows a stride apart, and through an index
inside the channel that the base names; an index of all ones masks its element, and one past the channel takes cause 0x23. -/
def Claim.elementAddresses : Prop :=
  ∀ (base stride : Word) (w cols i idx : Nat), w ∈ [8, 16, 32, 64] → i < 2 ^ 14 → cols ≤ 2 ^ 14 → idx < 2 ^ 32 →
    (stepAddr base w i = (BitVec.ofNat 64 (base.toNat + i * (w / 8)), false))
    ∧ (strideAddr base stride w i = (BitVec.ofNat 64 (base.toNat + i * stride.toNat), false))
    ∧ (0 < cols → gridAddr base stride w cols i
        = (BitVec.ofNat 64 (base.toNat + i / cols * stride.toNat + i % cols * (w / 8)), false))
    ∧ (idx = 0xFFFFFFFF → indexAddr base w i idx = .ok none)
    ∧ (idx ≠ 0xFFFFFFFF → base.toNat % 2 ^ 43 + idx * (w / 8) < 2 ^ 43 →
        indexAddr base w i idx = .ok (some (BitVec.ofNat 64 (base.toNat + idx * (w / 8)), false)))
    ∧ (idx ≠ 0xFFFFFFFF → 2 ^ 43 ≤ base.toNat % 2 ^ 43 + idx * (w / 8) →
        indexAddr base w i idx = .error (.trap 0x23 (BitVec.ofNat 64 (i * 2 ^ 32 + idx))))

/-- R158 at SEW 4 with R4: the address of a 4-bit element is that of its byte, with the half that it takes; a stride counts nibbles. -/
def Claim.nibbleAddresses : Prop :=
  ∀ (base stride : Word) (i : Nat), i < 2 ^ 14 →
    (stepAddr base 4 i = (BitVec.ofNat 64 (base.toNat + i / 2), i % 2 == 1))
    ∧ (strideAddr base stride 4 i = (base + BitVec.ofInt 64 (i * stride.toInt / 2), (i * stride.toInt) % 2 == 1))

/-- R153 to R175: a blocking memory instruction whose checks pass, and whose active elements all resolve to the Larder or a Pantry, or are
masked, completes (elements of pod memory, which also count and travel there, are those of the statement on one element). That it performs
in its step is the model's choice (log 7). It counts VL elements into its stream as issued and complete, writes no v register outside its
group, and changes memory only in the bytes of its elements; a load changes none, and each of its elements holds what its place held. -/
def Claim.vectorMemoryCompletes : Prop :=
  ∀ (s : State) (t b i : BitVec 5) (sn e : BitVec 3) (k : Bool) (hits : Nat → Option Hit), s.idle → s.settled → s.poison = [] → s.th.shaped →
    ∀ f ∈ memForms, let op := memOp s f t b i sn e k false
      memChecks s.th op (memTypeOk s f) = .ok () → memBad s f b i = none → (f.kind = .store .feed → op.n_ * op.sew ≤ 4096) →
      (∀ g ∈ op.groupIx, op.kind.loads = true → g = op.groupD ∨ op.groupD.overlaps g = false) →
      (∀ j, j < op.n_ → s.th.active k j = true → resolvesTo s op j (hits j) ∧
        ∀ h key, hits j = some h → h.place = .mem key → 2 ^ 60 ≤ key) →
      ∃ v prog ic cc nextOp mem,
        exec (f.form t b i sn e k false) s = .next (State.advance { s with
          mem := mem
          th := Thread.popFeed { s.th with v := v, prog := prog, ic := ic, cc := cc, nextOp := nextOp } op })
        ∧ (∀ r, r < 32 → (op.kind.loads = true → r < t.toNat ∨ t.toNat + op.g ≤ r) → vread v r = vread s.th.v r)
        ∧ (∀ q, q < 8 → vread ic q = vread s.th.ic q + (if q = sn.toNat then BitVec.ofNat 64 op.n_ else 0)
            ∧ vread cc q = vread s.th.cc q + (if q = sn.toNat then BitVec.ofNat 64 op.n_ else 0))
        ∧ (∀ a, (∀ j h key, j < op.n_ → s.th.active k j = true → hits j = some h → h.place = .mem key →
              a < key ∨ key + elemBytes op.sew ≤ a) → memGet mem a = memGet s.mem a)
        ∧ (∀ form, op.kind = .load form → mem = s.mem ∧ ∀ j, j < op.n_ →
            Thread.elem { s.th with v := v } t.toNat op.sew j = (match s.th.active k j, hits j with
              | true, some ⟨_, _, high, .mem key⟩ => loadElem s key op.sew high
              | _, _ => s.th.elem t.toNat op.sew j))

/-- The effect of one element, for VL = 1, at any place of memory: a load writes element 0, a store its bytes, a returning atomic both, a
reduce of pod memory joins the combining buffer of the core, and one outside it acts at once (R154, R157, R163, R164). A store to another die
goes there in a line write, whose effect belongs to the step (18_fabric.md R412; log 7, the model's choice). -/
def Claim.vectorMemoryElement : Prop :=
  ∀ (s : State) (t b i : BitVec 5) (sn e : BitVec 3) (k : Bool) (h : Hit) (key : Nat), s.idle → s.settled → s.poison = [] → s.th.shaped →
    s.th.vl = 1 → s.th.active k 0 = true → 8 ≤ vtBits s.th.vtype →
    ∀ f ∈ memForms, let op := memOp s f t b i sn e k false
      memChecks s.th op (memTypeOk s f) = .ok () → memBad s f b i = none → resolvesTo s op 0 (some h) → h.place = .mem key → h.i = 0 →
      (∀ form, f.kind = .store form → remoteKey s.cur key = false) →
      let w := op.sew
      let old := leNat (memBytes s.mem key (w / 8))
      let mine := s.th.elem t.toNat w 0
      let wrote (m : List Host.Cell) (v : Nat) : Prop :=
        ∀ a, memGet m a = if key ≤ a ∧ a < key + w / 8 then BitVec.ofNat 8 (v / 256 ^ (a - key)) else memGet s.mem a
      ∃ u : State, exec (f.form t b i sn e k false) s = .next (State.advance { u with th := u.th.popFeed op })
        ∧ vread u.th.cc sn.toNat = vread s.th.cc sn.toNat + 1 ∧ vread u.th.ic sn.toNat = vread s.th.ic sn.toNat + 1
        ∧ u.th.pend = [] ∧ u.th.ops = []
        ∧ (match f.kind with
          | .load _ | .pop => u.mem = s.mem ∧ u.th.elem t.toNat w 0 = old
          | .store _ => wrote u.mem mine ∧ u.th.v = s.th.v
          | .atom .cas => wrote u.mem (if old = mine then s.th.elem (t.toNat + op.g) w 0 else old) ∧ u.th.elem t.toNat w 0 = old
          | .atom o => wrote u.mem (atomApply o w (op.fmt == 0) old mine 0) ∧ u.th.elem t.toNat w 0 = old
          | .comb o => (2 ^ 60 ≤ key → wrote u.mem (combApply o w (op.fmt == 0) old mine)) ∧ (key < 2 ^ 60 → u.mem = s.mem ∧
              ∃ c, (u.core s.coreKey).comb = [c] ∧ c.key = key / 128 * 128 ∧ c.op = o
                ∧ c.vals = [⟨key % 128, BitVec.ofNat 64 mine, [(op.addr, 0)]⟩])
          | _ => True)

/-- R412 with R154: the store of one element to another die, blocking or not, enters the write buffer of its core as a line write; a blocking
one then goes to its home in the same step (log 7, the model's choice). -/
def Claim.vectorStoreRemote : Prop :=
  ∀ (s : State) (t b i : BitVec 5) (sn e : BitVec 3) (k n : Bool) (h : Hit) (key : Nat), s.idle → s.settled → s.poison = [] → s.th.shaped →
    s.th.vl = 1 → s.th.active k 0 = true →
    ∀ f ∈ memForms, ∀ form, f.kind = .store form → let op := memOp s f t b i sn e k n
      memChecks s.th op (memTypeOk s f) = .ok () → memBad s f b i = none → resolvesTo s op 0 (some h) → h.place = .mem key → h.i = 0 →
      remoteKey s.cur key = true →
      let mine := s.th.elem t.toNat op.sew 0
      let data := if op.sew = 4 then [BitVec.ofNat 8 (mine % 16 * 17)] else (List.range (op.sew / 8)).map (fun j => BitVec.ofNat 8 (mine / 256 ^ j))
      ∃ x u : State, exec (f.form t b i sn e k n) s = .next (State.advance { u with th := u.th.popFeed op })
        ∧ s.buffered x sn key data (if op.sew = 4 then some h.high else none) ∧ u.th.v = s.th.v
        ∧ let y := if n then x else s.landed x
          u.mem = y.mem ∧ u.dies = y.dies ∧ u.cores = y.cores ∧ u.th.ops = y.th.ops ∧ u.th.ic = y.th.ic ∧ u.th.cc = y.th.cc

/-- R157, R163 and R164, the new value of an atomic or a reduce on elements of w bits: the sum modulo 2^w, the smaller or the larger one in
the signedness of the format, the bits of both, the operand, or, where the old value is the expected one, the operand; floats add rounded to
the nearest even, and take the maximum. -/
def Claim.atomicResults : Prop :=
  ∀ (w old x y : Nat) (sg : Bool), w ∈ [32, 64] → old < 2 ^ w → x < 2 ^ w →
    (atomApply .add w sg old x y = (old + x) % 2 ^ w ∧ combApply .add w sg old x = (old + x) % 2 ^ w)
    ∧ (∀ v ∈ [atomApply .min w sg old x y, combApply .min w sg old x],
        v ∈ [old, x] ∧ intVal sg w v = min (intVal sg w old) (intVal sg w x))
    ∧ (∀ v ∈ [atomApply .max w sg old x y, combApply .max w sg old x],
        v ∈ [old, x] ∧ intVal sg w v = max (intVal sg w old) (intVal sg w x))
    ∧ (∀ j, (atomApply .or w sg old x y).testBit j = (old.testBit j || x.testBit j)) ∧ atomApply .swap w sg old x y = x
    ∧ atomApply .cas w sg old x y = (if old = y then x else old)
    ∧ (let f := if w = 64 then fp64 else fp32
      combApply .fadd w sg old x = (f.add .rne old x).1 ∧ combApply .fmax w sg old x = (f.minMax true old x).1)

/-- R154, R157, R163, R164: what one element of a vector memory instruction does, in each form, and the values of atomics and reduces. -/
def Obligations.VectorMemoryElement : Prop := Claim.vectorMemoryElement ∧ Claim.vectorStoreRemote ∧ Claim.atomicResults

/-- R154: with n = 1 an element is outstanding when its instruction commits: a load, a returning atomic, a reduce and a store at home are
pending and have changed neither register nor memory, and the operation counts one element issued and none complete. That it is so after
the step is the model's choice (log 7). -/
def Claim.vectorMemoryNonBlocking : Prop :=
  ∀ (s : State) (t b i : BitVec 5) (sn e : BitVec 3) (k : Bool) (h : Hit) (key : Nat), s.idle → s.settled → s.poison = [] → s.th.shaped →
    s.th.vl = 1 → s.th.active k 0 = true →
    ∀ f ∈ memForms, let op := memOp s f t b i sn e k true
      memChecks s.th op (memTypeOk s f) = .ok () → memBad s f b i = none → resolvesTo s op 0 (some h) → h.place = .mem key → h.i = 0 →
      (∀ form, f.kind = .store form → remoteKey s.cur key = false) →
      ∃ (u : State) (p : Pend), exec (f.form t b i sn e k true) s = .next (State.advance { u with th := u.th.popFeed op })
        ∧ u.mem = s.mem ∧ u.th.v = s.th.v ∧ u.th.pend = [p] ∧ p.key = key ∧ p.sn = sn ∧ p.sew = op.sew
        ∧ u.th.ops = [⟨s.th.nextOp, sn, 1⟩] ∧ vread u.th.ic sn.toNat = vread s.th.ic sn.toNat + 1 ∧ u.th.cc = s.th.cc

/-- R53 and R168 to R175: a memory instruction whose word fails a check takes that cause with the word as EVAL, and one whose operands
fail takes theirs. -/
def Claim.vectorMemoryTraps : Prop :=
  ∀ (s : State) (t b i : BitVec 5) (sn e : BitVec 3) (k n : Bool), s.idle →
    ∀ f ∈ memForms, let op := memOp s f t b i sn e k n
      (∀ c, memChecks s.th op (memTypeOk s f) = .error c →
        exec (f.form t b i sn e k n) s = .next (takeTrap s c op.word s.th.pc none false))
      ∧ (∀ c v, memChecks s.th op (memTypeOk s f) = .ok () → memBad s f b i = some (c, v) →
        exec (f.form t b i sn e k n) s = .next (takeTrap s c v s.th.pc none false))

/-- R170 to R172: FBIND binds a feed over [xb, xb + xi) with POS at its base, FTRIM brings its end no further than POS + xb, FFREE
unbinds it; a base outside pod memory, the Larder and a Dormer, a range that wraps, or a feed that is not bound takes cause 0x28. -/
def Claim.feeds : Prop :=
  ∀ (s : State) (t : BitVec 2) (b i : BitVec 5), s.th.vq = [] →
    let f := vread s.th.feeds t.toNat
    let set (g : Feed) : State := State.advance { s with th := { s.th with feeds := vwrite s.th.feeds t.toNat g } }
    let fits : Prop := tagOf (s.x b) ∈ [0, 8, 0xC] ∧ (s.x b).toNat + (s.x i).toNat < 2 ^ 64
    (fits → exec (.fbind t b i) s = .next (set ⟨s.x b, s.x b + s.x i, s.x b, true⟩))
    ∧ (¬ fits → exec (.fbind t b i) s = .next (takeTrap s 0x28 (s.x b) s.th.pc none false))
    ∧ (f.bound = true → exec (.ftrim t b) s
        = .next (set { f with last := BitVec.ofNat 64 (min f.last.toNat (f.pos.toNat + (s.x b).toNat)) }))
    ∧ (f.bound = false → exec (.ftrim t b) s = .next (takeTrap s 0x28 (BitVec.ofNat 64 t.toNat) s.th.pc none false))
    ∧ exec (.ffree t) s = .next (set { f with bound := false })

/-- R150, R158 to R161: the addresses of the elements of vector memory instructions, down to the nibble. -/
def Obligations.ElementAddresses : Prop := Claim.elementAddresses ∧ Claim.nibbleAddresses

/-- R153 to R175: vector memory instructions complete, at once and non-blocking. -/
def Obligations.VectorMemoryCompletes : Prop := Claim.vectorMemoryCompletes ∧ Claim.vectorMemoryNonBlocking

/-- R165 to R172: handle registers and feeds. -/
def Obligations.HandlesAndFeeds : Prop := Claim.handles ∧ Claim.feeds

/-- R151, R157, R163: where scalar and vector accesses trap. -/
def Obligations.AccessStops : Prop := Claim.scalarAccessStops ∧ Claim.vectorMemoryTraps

/-! ## Matrices (10_matrix.md R223-R243) -/

/-- R231 to R234: a tile load whose checks pass makes its slot READY with its shape and planes, reserves its region in the Larder, writes
the image of its source there and no other byte of memory, and counts one operation of stream 0; a check at its push takes its cause. -/
def Claim.tileLoads : Prop :=
  ∀ (s : State) (larder : Bool) (d : BitVec 2) (a b : BitVec 5) (p : BitVec 4), s.idle → s.settled → s.poison = [] →
    let ins : Instr := if larder then .tldl d a b p else .tldp d a b p
    let desc := s.x b
    let ph := planeCount p
    let rs := (s.cluster s.clusterKey).regions
    let key := larderKey s.clusterKey (dOff desc)
    (tileFails larder d (s.x a) desc p = none →
      (∀ r ∈ rs, s.ownsRegion d.toNat r = false → ¬ (r.off < dOff desc + dSize desc ph ∧ dOff desc < r.off + r.size)) →
      ∀ ps, sourcePlaces s larder (s.x a) desc = .ok ps →
      let source : Source := ⟨ps.flatMap (fun p => (List.range p.2.1).map (fun i => (p.1 + i, memGet s.mem (p.2.2 + i)))), []⟩
      let image := if dNq4 desc then nq4Image desc source else plainImage desc ph source
      let slots := vwrite s.th.tiles d.toNat ⟨true, desc, BitVec.ofNat 6 ph⟩
      let mine : Region := ⟨some s.cur, s.th.grp, s.th.asid, d, dOff desc, dSize desc ph, desc, ph, false, s.th.nextOp⟩
      ∃ u : State, exec ins s = .next (State.advance { u with th := { u.th with tiles := slots } })
        ∧ u.th = s.th.countNow 0 1
        ∧ (u.cluster s.clusterKey).regions = rs.filter (fun r => !s.ownsRegion d.toNat r) ++ [mine]
        ∧ ∀ k, memGet u.mem k = if key ≤ k ∧ k < key + dSize desc ph then image.getD (k - key) 0 else memGet s.mem k)
    ∧ (∀ c v, tileFails larder d (s.x a) desc p = some (c, v) → exec ins s = .next (takeTrap s c v s.th.pc none false))

/-- R224, R228 and R229, the bytes of a region from those of its source, at offset k * RS + n for element (k, n). A signed 8-bit tile of eight
planes keeps each element exactly: the exponent of every block is 6, and bit k of plane j of column n is bit j of the element, 0 from K on.
An NQ4 tile keeps the indices, the codes and the super-scales of its source. -/
def Claim.tileImages : Prop :=
  ∀ (d : Word) (q : Source), q.bad = [] →
    let N := dN d
    let K := dK d
    let plane (image : List Byte) (j n k : Nat) : Bool := (image.getD (dHeader d + (j * N + n) * (4 * dKb d) + k / 8) 0).getLsbD (k % 8)
    (dFmt d = 0 → dSew d = 1 → ∀ n, n < N →
      (∀ kb, kb < dKb d → leNat (((plainImage d 8 q).drop (2 * (kb * N + n))).take 2) = 6)
      ∧ ∀ j k, j < 8 → k < 32 * dKb d → plane (plainImage d 8 q) j n k = (decide (k < K) && (q.at (k * dRs d + n) 1).testBit j))
    ∧ (dNq4 d = true → K ∈ [64, 128, 256] → ∀ n, n < N →
      (∀ j k, j < 4 → k < K → plane (nq4Image d q) j n k = (q.at (n * K / 2 + k / 2) 1 / 16 ^ (k % 2)).testBit j)
      ∧ (∀ kb, kb < K / 64 → ((nq4Image d q).getD (kb * N + n) 0).toNat = q.at (N * K / 2 + n * (K / 64) + kb) 1)
      ∧ leNat (((nq4Image d q).drop (dScales d + 4 * n)).take 4) = q.at ((N * K / 2 + N * K / 64 + 3) / 4 * 4 + 4 * n) 4)

/-- R224 to R234: tile loads complete or trap, with the bytes that they write. -/
def Obligations.TileLoads : Prop := Claim.tileLoads ∧ Claim.tileImages

/-- R235 to R238: MROW and MROWZ against a READY tile complete and change one accumulator and flags of FCS only; columns from N on are
undisturbed by MROW and zero after MROWZ. -/
def Claim.matrixRows : Prop :=
  ∀ (s : State) (zero : Bool) (d : BitVec 2) (a : BitVec 5) (c : BitVec 3) (p : BitVec 4), s.idle → s.poison = [] →
    s.soft = [] →
    let ins : Instr := if zero then .mrowz d a c p else .mrow d a c p
    let tile := vread s.th.tiles d.toNat
    let pc := if p = 0 then tile.ph.toNat else planeCount p
    aRowOk s.th.vtype = true → a.toNat % vtG s.th.vtype = 0 → tile.ready = true → pc ≤ tile.ph.toNat → (dNq4 tile.desc = true → pc = 4) →
    ∃ acc fcs, exec ins s = .next (State.advance { s with th := { s.th with acc := acc, fcs := fcs } })
      ∧ s.th.fcs &&& fcs = s.th.fcs ∧ (∀ r, r < 8 → r ≠ c.toNat → vread acc r = vread s.th.acc r)
      ∧ ∀ n, dN tile.desc ≤ n → n < 256 → accCol (vread acc c.toNat) n = if zero then 0 else accCol (vread s.th.acc c.toNat) n

/-- R236: an EMPTY slot takes cause 0x30 with its number; more planes than the tile holds, or an NQ4 tile read with other than four, take
cause 0x32 with the slot and the planes; a VTYPE that is no A row takes 0x03 and a misaligned group 0x05 with the word. -/
def Claim.matrixRowTraps : Prop :=
  ∀ (s : State) (zero : Bool) (d : BitVec 2) (a : BitVec 5) (c : BitVec 3) (p : BitVec 4), s.th.vq = [] →
    let ins : Instr := if zero then .mrowz d a c p else .mrow d a c p
    let tile := vread s.th.tiles d.toNat
    let pc := if p = 0 then tile.ph.toNat else planeCount p
    let typed : Prop := aRowOk s.th.vtype = true
    let placed : Prop := a.toNat % vtG s.th.vtype = 0
    (¬ typed → exec ins s = .next (takeTrap s 0x03 ((wordOf ins).zeroExtend 64) s.th.pc none false))
    ∧ (typed → ¬ placed → exec ins s = .next (takeTrap s 0x05 ((wordOf ins).zeroExtend 64) s.th.pc none false))
    ∧ (typed → placed → tile.ready = false → exec ins s = .next (takeTrap s 0x30 (BitVec.ofNat 64 d.toNat) s.th.pc none false))
    ∧ (typed → placed → tile.ready = true → (tile.ph.toNat < pc ∨ (dNq4 tile.desc = true ∧ pc ≠ 4)) →
        exec ins s = .next (takeTrap s 0x32 (BitVec.ofNat 64 (d.toNat + pc * 256)) s.th.pc none false))

/-- R237 with R91, for a tile of at most 32 rows: each column below N becomes the old column plus the exact sum of the products, rounded
to nearest even once. -/
def Obligations.MatrixColumn : Prop :=
  ∀ (s t : State) (zero : Bool) (d : BitVec 2) (a : BitVec 5) (c : BitVec 3), s.idle → s.poison = [] →
    let ins : Instr := if zero then .mrowz d a c 0 else .mrow d a c 0
    let tile := vread s.th.tiles d.toNat
    let desc := tile.desc
    aRowOk s.th.vtype = true → a.toNat % vtG s.th.vtype = 0 → tile.ready = true → (dNq4 desc = true → tile.ph = 4) → dK desc ≤ 32 →
    exec ins s = .next t → ∀ n, n < dN desc →
      let old := if zero then 0 else accCol (vread s.th.acc c.toNat) n
      let row := (List.range (dK desc)).map (fun k => if k < s.th.vl.toNat
        then aVal (vtFmt s.th.vtype) (vtSew s.th.vtype) (s.th.elem a.toNat (vtBits s.th.vtype) k) else FVal.fin false 0 1)
      let g := (groupSum row (columnVals s s.clusterKey desc tile.ph.toNat tile.ph.toNat n 0)).1
      let sum := FVal.add .rne (fp32.decode old) g
      accCol (vread t.th.acc c.toNat) n = (fp32.deliver .rne .ieee sum.1 (sum.2 || (fp32.decode old).snan)).1

/-- R240 to R242: ACCWR writes the columns below VL and 256 and leaves the others, ACCCLR clears an accumulator, and ACCRD reads one into
its group, with no step outstanding: STEPS all ones and PEND 0. -/
def Obligations.Accumulators : Prop :=
  ∀ (s : State) (v b : BitVec 5) (c : BitVec 3), s.idle → s.th.shaped → vtFmt s.th.vtype = 2 → vtSew s.th.vtype = 3 →
    v.toNat % vtG s.th.vtype = 0 →
    (∃ acc, exec (.accwr v c) s = .next (State.advance { s with th := { s.th with acc := acc } })
      ∧ (∀ r, r < 8 → r ≠ c.toNat → vread acc r = vread s.th.acc r)
      ∧ ∀ n, n < 256 → accCol (vread acc c.toNat) n
          = if n < s.th.vl.toNat then s.th.elem v.toNat 32 n else accCol (vread s.th.acc c.toNat) n)
    ∧ exec (.accclr c) s = .next (State.advance { s with th := { s.th with acc := vwrite s.th.acc c.toNat 0 } })
    ∧ (∃ w prog, exec (.accrd v b c) s = .next (State.ret { s with th := { s.th with v := w, prog := prog } } b 0xFFFFFFFF)
      ∧ (∀ r, r < 32 → (r < v.toNat ∨ v.toNat + vtG s.th.vtype ≤ r) → vread w r = vread s.th.v r)
      ∧ ∀ n, n < vtG s.th.vtype * s.th.rb / 32 → Thread.elem { s.th with v := w } v.toNat 32 n
          = if n < s.th.vl.toNat ∧ n < 256 then accCol (vread s.th.acc c.toNat) n else s.th.elem v.toNat 32 n)

/-- R243, R233 and R237: TFREE makes a slot EMPTY and releases its region; a step of the matrix pipe takes its oldest instruction one step
on, and the last step ends it; only a tile load's step writes memory, its image. A step of a row rounds each column once (R91), ACCWR
writes the columns that it has read, and ACCCLR clears its accumulator (R240). -/
def Obligations.TileFreeAndSteps : Prop :=
  (∀ (s : State) (d : BitVec 2), s.idle →
    ∃ u : State, exec (.tfree d) s = .next (State.advance { u with th := { s.th with tiles := vwrite s.th.tiles d.toNat {} } })
      ∧ u.mem = s.mem ∧ ∀ r, r ∈ (u.cluster s.clusterKey).regions ↔ r ∈ (s.cluster s.clusterKey).regions ∧ s.ownsRegion d.toNat r = false)
  ∧ (∀ (s : State) (r : MRow) (rest : List MRow), s.th.rows = r :: rest →
    ∃ t q, exec (.matrixStep s.cur) s = .next t ∧ q.op = r.op ∧ q.step = r.step + 1 ∧ t.th.x = s.th.x ∧ t.th.v = s.th.v
      ∧ (∀ k, k < 8 → k ≠ r.op.acc → vread t.th.acc k = vread s.th.acc k)
      ∧ (∀ a, (∀ larder, r.op.kind = .tileLoad larder → let key := larderKey s.clusterKey (dOff r.op.xb)
          a < key ∨ key + r.image.length ≤ a) → memGet t.mem a = memGet s.mem a)
      ∧ (∀ larder, r.op.kind = .tileLoad larder → ∀ i, i < r.image.length →
          memGet t.mem (larderKey s.clusterKey (dOff r.op.xb) + i) = r.image.getD i 0)
      ∧ (r.op.kind = .accWrite → r.op.acc < 8 → ∀ n, n < 256 → accCol (vread t.th.acc r.op.acc) n
          = if n < r.a.length then r.a.getD n 0 % 2 ^ 32 else accCol (vread s.th.acc r.op.acc) n)
      ∧ (r.op.kind = .accClear → r.op.acc < 8 → vread t.th.acc r.op.acc = 0)
      ∧ (∀ zero, r.op.kind = .mrow zero → r.op.acc < 8 → s.poison = [] → s.th.badRegs = [] → ∀ n, n < 256 →
          let desc := r.op.tileDesc
          let old := if zero = true ∧ r.step = 0 then 0 else accCol (vread s.th.acc r.op.acc) n
          let row := (List.range (min 32 (dK desc - 32 * r.step))).map (fun j => match r.a[32 * r.step + j]? with
            | some x => aVal (vtFmt r.op.vtype) (vtSew r.op.vtype) x
            | none => FVal.fin false 0 1)
          let sum := FVal.add .rne (fp32.decode old) (groupSum row (columnVals s s.clusterKey desc r.op.tilePh r.op.planes n r.step)).1
          accCol (vread t.th.acc r.op.acc) n
            = if n < dN desc then (fp32.deliver .rne .ieee sum.1 (sum.2 || (fp32.decode old).snan)).1 else old)
      ∧ t.th.rows = if r.steps ≤ r.step + 1 then rest else q :: rest)

/-- R235 to R238: MROW and MROWZ complete, or trap. -/
def Obligations.MatrixRows : Prop := Claim.matrixRows ∧ Claim.matrixRowTraps

/-! ## Streams, views and relayouts (07_streams.md R185-R193; 14_views_layouts.md R327-R348) -/

/-- R185 to R189: WAITC takes cause 0x0B for a target above the issued count, completes once the completed count has reached its target, and
waits otherwise, after everything of the stream that can complete by itself has done so (log 7), and while a contribution of the stream is
still held (R192); MFIC and MFCC read the counts, MFE and MTE
the edge registers, of which e0 reads 0 and is not written; MTSS sets both counts at system privilege once nothing of the stream is
outstanding. -/
def Obligations.StreamCounters : Prop :=
  ∀ (s : State) (b : BitVec 5) (sn e : BitVec 3), s.th.vq = [] →
    let target := s.x b
    let f := forceStreams s s.cur (· == sn)
    let ic := vread s.th.ic sn.toNat
    let held : Prop := ∃ c ∈ f.coresOf f.cur, (f.core c).dead = false ∧ ∃ q ∈ (f.core c).comb, q.slot = f.cur ∧ q.sn = sn
    (s.idle → s.settled → f = s ∧ ¬ held)
    ∧ (0 < (target - ic).toInt → exec (.waitc b sn) s = .next (takeTrap s 0x0B target s.th.pc none false))
    ∧ (¬ 0 < (target - ic).toInt → 0 ≤ (vread f.th.cc sn.toNat - target).toInt → ¬ held → exec (.waitc b sn) s = .next f.advance)
    ∧ (¬ 0 < (target - ic).toInt → (vread f.th.cc sn.toNat - target).toInt < 0 ∨ held →
        exec (.waitc b sn) s = .next (s.enterWait (.stream sn) none))
    ∧ exec (.mfic b sn) s = .next (s.ret b ic) ∧ exec (.mfcc b sn) s = .next (s.ret b (vread s.th.cc sn.toNat))
    ∧ exec (.mfe b e) s = .next (s.ret b (if e = 0 then 0 else BitVec.ofNat 64 (vread s.th.e e.toNat).toNat))
    ∧ exec (.mte b e) s = .next (State.advance (if e = 0 then s else
        { s with th := { s.th with e := vwrite s.th.e e.toNat (BitVec.ofNat 8 (s.x b).toNat) } }))
    ∧ (s.th.priv = true → (∀ o ∈ f.th.ops, o.sn ≠ sn) → exec (.mtss b sn) s = .next (State.advance { f with th := { f.th with
        ic := vwrite f.th.ic sn.toNat (s.x b), cc := vwrite f.th.cc sn.toNat (s.x b) } }))
    ∧ (s.th.priv = true → (∃ o ∈ f.th.ops, o.sn = sn) → exec (.mtss b sn) s = .next (s.enterWait (.stream sn) none))

/-- R327 to R331 and R337: VIEWREG takes cause 0x52 with reason 1 for a handle that cannot be a master and with the reason of its descriptor
otherwise; a descriptor that passes, of a master without a shard image or a live relayout, gives a free entry of the home die a view whose
blocks are all stale, writes the view's handle at the descriptor plus 32 and no other byte, and returns its reference. -/
def Claim.viewRegisters : Prop :=
  ∀ (s : State) (d : BitVec 5) (a : BitVec 4) (b : BitVec 5) (key0 key : Nat), s.idle → s.settled → s.poison = [] →
    let h := vread s.th.h a.toNat
    let xb := s.x b
    let die := s.homeOf s.nodeKey (hBase h)
    let w0 := memWord s.mem key0
    let m := masterForm h none
    let used := (s.die die).views.map (·.1)
    let stop (n : Nat) : Prop := exec (.viewreg d a b) s = .next (takeTrap s 0x52 (BitVec.ofNat 64 n) s.th.pc none false)
    (masterOk h = false → stop 1)
    ∧ (masterOk h = true → s.reachable s.dieKey (nodeOf (hBase h)) = true → tagOf xb = 0 →
        checkAccess s s.agent false 16 64 0 xb = .ok (.mem key0) → memWord s.mem (key0 + 8) = 0 → liveRecord s die h s.th.asid = none →
        (∀ r, descFails w0 (hShape h) = some r → stop r)
        ∧ (descFails w0 (hShape h) = none → xb.toNat % 4096 = 0 →
            storageFails w0 (xb + 4096) (hShape h) (storageSpans (hLayout m) (hBase m) (hShape h) ++ storageSpans (hLayout h) (hBase h) (hShape h))
              = false →
            (∃ k, k < 1024 ∧ k ∉ used) →
            ((s.die die).views.filter (fun p => p.2.asid == s.th.asid && hBase p.2.master == hBase m)).length < 8 →
            checkAccess s s.agent true 32 32 0 (xb + 32) = .ok (.mem key) →
            ∃ (u : State) (id : BitVec 16) (v : View), exec (.viewreg d a b) s = .next (u.ret d (viewRef (hBase h) id)) ∧ u.th = s.th
              ∧ id.toNat % 1024 ∉ used ∧ (u.die die).views.entry (id.toNat % 1024) = some v
              ∧ v.viewId = id ∧ v.asid = s.th.asid ∧ v.master = m ∧ v.vb = xb + 4096 ∧ v.fmt = w0.extractLsb' 0 4
              ∧ v.sew = w0.extractLsb' 4 3 ∧ v.layout = w0.extractLsb' 8 8 ∧ v.policy = w0.extractLsb' 16 2 ∧ v.srv = false
              ∧ (∀ q ∈ v.blocks, q.stale = true ∧ q.capturing = false ∧ q.poisoned = false ∧ q.captures = 0)
              ∧ ∀ n, memGet u.mem n = if key ≤ n ∧ n < key + 32 then (viewImage h w0 (xb + 4096) id).extractLsb' (8 * (n - key)) 8
                  else memGet s.mem n))

/-- R336, R338 to R340: a reference that names no live view takes cause 0x52 with reason 6, as one that is ill-formed does by the model's
reading (log 33); any other asks the view's home, which another die reaches with a message (18_fabric.md R406). VIEWDROP ends a view that
captures nothing and its entry goes to its next generation, VIEWSYNC passes where no block has to be captured and waits for its captures
otherwise, and VIEWQ reads the state of a block or of the view; query 2 also clears SRV. -/
def Claim.viewReferences : Prop :=
  ∀ (s : State) (d a b : BitVec 5) (full : Bool), s.idle → s.settled →
    let q := s.x b
    (∀ c w, refView s (s.x a) = .error (.trap c w) →
      exec (.viewdrop a) s = .next (takeTrap s c w s.th.pc none false) ∧ exec (.viewsync a full) s = .next (takeTrap s c w s.th.pc none false)
      ∧ exec (.viewq d a b) s = .next (takeTrap s c w s.th.pc none false) ∧ (c = 0x52 → w = 6))
    ∧ (∀ die k v u, refView s (s.x a) = .ok (die, k, v, u) → (u.th = s.th ∧ u.mem = s.mem)
      ∧ ((∀ x ∈ v.blocks, x.capturing = false) → ∃ x : State, exec (.viewdrop a) s = .next x.advance ∧ x.th = s.th ∧ x.mem = s.mem
        ∧ (x.die die).views.entry k = none ∧ (x.die die).viewGens.look 0 k = (s.die die).viewGens.look 0 k + 1)
      ∧ (syncTargets v full = [] → s.th.wait = none → exec (.viewsync a full) s = .next u.advance)
      ∧ (syncTargets v full ≠ [] → s.th.wait = none →
          exec (.viewsync a full) s = .next ((u.setView die k (markSync v (syncTargets v full) full)).enterWait (.view die k (syncTargets v full)) none))
      ∧ (∀ ts, s.th.wait = some (.view die k ts) → syncDone v ts = true → exec (.viewsync a full) s = .next u.advance)
      ∧ (q.extractLsb' 48 16 = 0 → (q.extractLsb' 0 48).toNat < v.blocks.length →
          exec (.viewq d a b) s = .next (u.ret d (blockWord (masterMv (u.die die) v) (v.block (q.extractLsb' 0 48).toNat))))
      ∧ (q.extractLsb' 48 16 = 0x4000 → exec (.viewq d a b) s = .next (u.ret d (viewWord (masterMv (u.die die) v) v)))
      ∧ (q.extractLsb' 48 16 = 0x8000 →
          exec (.viewq d a b) s = .next ((u.setView die k { v with srv := false }).ret d (viewWord (masterMv (u.die die) v) v)))
      ∧ (q.extractLsb' 62 2 = 3 → exec (.viewq d a b) s = .next (takeTrap s 0x52 7 s.th.pc none false)))

/-- R341, R342 and R347: RELAYOUT to a new place takes cause 0x53 with the first reason that its handle and place give; where none does, it
opens a record on the home die of the new place in which every tile waits, and the handle names the new place, the old base and the record.
The settle form, which the model takes bits [11:0] of xa alone to select (log 35), passes where RLP is 0, asks the home of the record, waits
while that converts, and clears the relayout fields once it is complete. -/
def Claim.relayouts : Prop :=
  ∀ (s : State) (d : BitVec 4) (a : BitVec 5), s.idle → s.settled →
    let h := vread s.th.h d.toNat
    let xa := s.x a
    let tag := (xa.extractLsb' 0 8).toNat
    let settle : Prop := xa.extractLsb' 0 12 = 0xFF
    let nb := xa &&& 0xFFFFFFFFFFFFF000#64
    let die := s.homeOf s.nodeKey nb
    let at_ := s.homeOf s.nodeKey (hBase h)
    let go (t : State) : Prop := exec (.relayout d a) s = .next t
    (¬ settle →
      (∀ r, relayoutFails h xa = some r → go (takeTrap s 0x53 (BitVec.ofNat 64 r) s.th.pc none false))
      ∧ (relayoutFails h xa = none → hRlp h = false → s.reachable s.dieKey (nodeOf nb) = true →
          (∃ k, k < 256 ∧ k ∉ (s.die die).relays.map (·.1)) →
          (∀ p ∈ s.dies, ∀ v ∈ p.2.views, ¬ (v.2.asid = s.th.asid ∧ hBase v.2.master = hBase h)) →
          ∃ (u : State) (k : Nat) (r : Relay), go ((u.setHandle d (relaidHandle h tag nb k)).advance) ∧ u.th = s.th ∧ u.mem = s.mem
            ∧ k ∉ (s.die die).relays.map (·.1) ∧ (u.die die).relays.entry k = some r ∧ r.asid = s.th.asid ∧ r.altBase = hBase h
            ∧ r.oldLayout.toNat = hLayout h ∧ r.state = 1 ∧ r.hand = relaidHandle h tag nb k
            ∧ r.tiles = List.replicate (tileCount tag (hShape h)) .waiting))
    ∧ (settle →
      (hRlp h = false → go s.advance)
      ∧ (hRlp h = true → s.reachable s.dieKey (nodeOf (hBase h)) = true →
          let x := exchange s s.dieKey at_ 0x10 (hBase h)
          (recordOf s at_ h s.th.asid = none → go (x.setHandle d (settledHandle h)).advance)
          ∧ (∀ r, recordOf s at_ h s.th.asid = some r → r.state = 2 → go (x.setHandle d (settledHandle h)).advance)
          ∧ (∀ r, recordOf s at_ h s.th.asid = some r → r.state = 3 → go (takeTrap s 0x53 7 s.th.pc none false))
          ∧ (∀ r, recordOf s at_ h s.th.asid = some r → r.state = 1 → go (s.enterWait (.settle at_ (hRlid h)) none))))

/-- 14_views_layouts.md R327 to R348: views, their references, and relayouts. -/
def Obligations.ViewsAndLayouts : Prop := Claim.viewRegisters ∧ Claim.viewReferences ∧ Claim.relayouts

/-! ## Seals, gangs and phases (13_die_memory.md R316-R321; 12_cluster.md R265-R268, R293-R294) -/

/-- R316 to R318: SEAL takes cause 0x40 for a region that it cannot name, that meets a seal of its ASID, or that finds the table full, and
adds its region otherwise. UNSEAL takes cause 0x40 where no seal is exactly its region; a seal without a registration onto it goes, with
the copies of its lines in the scalar caches of its die, and one with such a registration is UNSEALING while the thread waits. Both ask the
home with a message, which an UNSEAL that waits has sent (18_fabric.md R406). -/
def Claim.seals : Prop :=
  ∀ (s : State) (a b : BitVec 5), s.idle → s.settled → s.alone →
    let base := s.x a
    let len := (s.x b).toNat
    let home := s.homeOf s.nodeKey base
    let D := s.die home
    let meets (e : SealRec) : Prop := e.asid = s.th.asid ∧ e.chan = chanOf base ∧ e.off < offOf base + len ∧ offOf base < e.off + e.len
    let stop : State := takeTrap s 0x40 base s.th.pc none false
    let m : State := sealMessage s home base
    let mu (e : SealRec) : State := if e.unsealing then s else m
    let named : Option SealRec :=
      D.seals.find? (fun e => e.asid == s.th.asid && e.chan == chanOf base && e.off == offOf base && e.len == len)
    (regionOk base (s.x b) 0x10000 = false → exec (.sealOp a b) s = .next stop ∧ exec (.unsealOp a b) s = .next stop)
    ∧ (regionOk base (s.x b) 0x10000 = true → s.reachable s.dieKey (nodeOf base) = true →
      ((∃ e ∈ D.seals, meets e) ∨ 512 ≤ D.seals.length → exec (.sealOp a b) s = .next stop)
      ∧ ((∀ e ∈ D.seals, ¬ meets e) → D.seals.length < 512 → exec (.sealOp a b) s
          = .next (m.setDie home { m.die home with seals := D.seals ++ [⟨s.th.asid, chanOf base, offOf base, len, false⟩] }).advance)
      ∧ (named = none → exec (.unsealOp a b) s = .next stop)
      ∧ (∀ e, named = some e → (∀ r ∈ D.registry, r.onto e = false) →
          exec (.unsealOp a b) s
            = .next ((dropSealed (mu e) home base len).setDie home { (mu e).die home with seals := D.seals.filter (fun q => q != e) }).advance)
      ∧ (∀ e, named = some e → (∃ r ∈ D.registry, r.onto e = true) →
          exec (.unsealOp a b) s = .next (((mu e).setDie home { (mu e).die home with
            seals := D.seals.map (fun q => if q == e then { q with unsealing := true } else q) }).enterWait .unseal none)))

/-- R320 and R321: DORMER registers a region that lies within a seal which is not UNSEALING, in a free entry of the reader die and in the
registry of its home, and returns the Dormer address of the entry; DORMREL of a live entry removes both, of a dead entry its own. -/
def Claim.dormers : Prop :=
  ∀ (s : State) (d a b : BitVec 5), s.idle → s.settled →
    let base := s.x a
    let len := (s.x b).toNat
    let home := s.homeOf s.nodeKey base
    let me := s.dieKey
    let used := (s.die me).dormers.map (·.didx)
    let reg (k : Nat) : Registration := ⟨s.th.asid, chanOf base, offOf base, len, me, k⟩
    (regionOk base (s.x b) 0x1000 = false → exec (.dormer d a b) s = .next (takeTrap s 0x41 base s.th.pc none false))
    ∧ (regionOk base (s.x b) 0x1000 = true → (∀ k, k < 256 → k ∈ used) →
        exec (.dormer d a b) s = .next (takeTrap s 0x42 base s.th.pc none false))
    ∧ (regionOk base (s.x b) 0x1000 = true → (∃ k, k < 256 ∧ k ∉ used) → s.reachable me (nodeOf base) = true →
        (∃ e ∈ (s.die home).seals, e.unsealing = false ∧ (reg 0).onto e = true) → (s.die home).registry.length < 1024 →
        ∃ (u : State) (k : Nat), exec (.dormer d a b) s = .next (u.ret d (dormerAddr k)) ∧ u.th = s.th ∧ u.mem = s.mem
          ∧ k < 256 ∧ k ∉ used ∧ (u.die home).registry = (s.die home).registry ++ [reg k]
          ∧ (u.die me).dormers = (s.die me).dormers ++ [⟨k, s.th.asid, base, len, s.th.grp.map (fun g => (g.run, g.gen)), false⟩])
    ∧ (tagOf base ≠ 0xC ∨ dormerOf (s.die me) s.th.asid base = none →
        exec (.dormrel a) s = .next (takeTrap s 0x20 base s.th.pc none false))
    ∧ (∀ e, tagOf base = 0xC → base.extractLsb' 56 4 = 0 → dormerOf (s.die me) s.th.asid base = some e →
        e.dead = true ∨ s.reachable me (nodeOf e.base) = true →
        ∃ u : State, exec (.dormrel a) s = .next u.advance ∧ u.th = s.th ∧ u.mem = s.mem
          ∧ (u.die me).dormers = (s.die me).dormers.filter (fun q => q.didx != e.didx)
          ∧ (e.dead = false → let h := s.homeOf s.nodeKey e.base
              (u.die h).registry = (s.die h).registry.filter (fun r => !(r.reader == me && r.didx == e.didx))))

/-- R266 and R267: in a gang GANG does nothing, outside one UNGANG does nothing; a GANG that R266 refuses takes cause 0x38 with the first
reason; otherwise the thread is a gang whose registers keep their low halves, its slot on the higher core follows it, and UNGANG takes both
back. Memory outside the higher core's window stands. -/
def Claim.gangs : Prop :=
  ∀ s : State, s.idle → s.settled →
    let t := s.serial
    let pair (u : State) (g : Bool) : Prop := u.th = t.th.regang g ∧ u.th.gang = g
      ∧ ∀ r, r < 32 → (vread u.th.v r).toNat = (vread s.th.v r).toNat % 2 ^ 8192
    (s.th.gang = true → exec .gang s = .next t.advance)
    ∧ (s.th.gang = false → ∀ r, gangRefused t = some r → exec .gang s = .next (takeTrap t 0x38 (BitVec.ofNat 64 r) t.th.pc none false))
    ∧ (s.th.gang = false → gangRefused t = none → ∃ u : State, exec .gang s = .next u.advance ∧ pair u true
        ∧ u.thread (s.cur + 4) = upperSlot u.th
        ∧ ∀ k, (∀ lane, lane < 64 → let lo := pantryKey (s.coreKey + 1) lane (s.th.pbase.toNat * 1024)
            k < lo ∨ lo + s.th.psize.toNat * 1024 ≤ k) → memGet u.mem k = memGet s.mem k)
    ∧ (s.th.gang = false → exec .ungang s = .next t.advance)
    ∧ (s.th.gang = true → ∃ u : State, exec .ungang s = .next u.advance ∧ pair u false ∧ u.thread (s.cur + 4) = {} ∧ u.mem = s.mem)

/-- R293 and R294: a thread's first PHASE takes the lowest phase in sight, or 1; a later one takes its next phase once no neighbour's lowest
phase lies more than the cluster's lead behind it, and waits otherwise. LEADSET sets the lead at system privilege. -/
def Claim.phases : Prop :=
  ∀ (s : State) (l : BitVec 4), s.idle →
    let t := s.serial
    let k := s.clusterKey
    let near (n : Nat) (p : BitVec 32) : Prop := ∀ c, cph t n s.th.asid = some c → p.toNat ≤ c + (s.cluster k).lead.toNat
    let moved (p : BitVec 32) : State := State.advance { t with th := { t.th with tph := some p } }
    (s.th.tph = none → ∃ v : Nat, exec .phase s = .next (moved (BitVec.ofNat 32 v))
      ∧ (v = 1 ∨ ∃ n ∈ k :: neighbours k, cph t n s.th.asid = some v)
      ∧ ∀ n ∈ k :: neighbours k, ∀ c, cph t n s.th.asid = some c → v ≤ c)
    ∧ (∀ p, s.th.tph = some p → (∀ n ∈ neighbours k, near n (p + 1)) → exec .phase s = .next (moved (p + 1)))
    ∧ (∀ p, s.th.tph = some p → (∃ n ∈ neighbours k, ¬ near n (p + 1)) → exec .phase s = .next (t.enterWait (.phase (p + 1)) none))
    ∧ (l = 0 → exec (.leadset l) s = .next (takeTrap t 0x02 ((wordOf (.leadset l)).zeroExtend 64) t.th.pc none false))
    ∧ (l ≠ 0 → s.th.priv = true → exec (.leadset l) s = .next (t.setCluster k { s.cluster k with lead := l }).advance)

/-- Seals and Dormers (13), gangs and phases (12). -/
def Obligations.SealsGangsAndPhases : Prop := Claim.seals ∧ Claim.dormers ∧ Claim.gangs ∧ Claim.phases

/-! ## The event crossbar and the sequencer (12_cluster.md R283-R292) -/

/-- R283, R286: in a cluster without an enabled target EVPULSE counts one in every counter of the thread's ASID with that source, up to the
highest count, and in no other. -/
def Claim.pulses : Prop :=
  ∀ (s : State) (b : BitVec 5), s.idle → s.settled →
    let k := s.clusterKey
    let c := s.cluster k
    (∀ j, j < 32 → (vread c.targets j).owner = none ∨ (vread c.targets j).action = 0) →
    ∃ u : Cluster, exec (.evpulse b) s = .next ((s.serial.setCluster k u).advance) ∧ u.terms = c.terms ∧ u.targets = c.targets
      ∧ u.pulses = c.pulses ∧ u.seqQueue = c.seqQueue ∧ u.full = c.full
      ∧ ∀ n, n < 16 → let q := vread c.counters n
          vread u.counters n = if q.owner = some s.th.asid ∧ q.src = b
            then { q with cnt := BitVec.ofNat 32 (min (q.cnt.toNat + 1) (2 ^ 32 - 1)) } else q

/-- R285: EVCFG reads its record of 16 words; a record that fails takes cause 0x3C with its first failure; one that passes defines the
target that its field names, for the thread's ASID and privilege, and the terms of its term mask, and leaves the other targets and terms. -/
def Claim.configures : Prop :=
  ∀ (s v : State) (a t : BitVec 5) (ws : List Word), s.idle → s.settled →
    let k := s.clusterKey
    let c := s.cluster k
    let w0 := ws.getD 0 0
    let terms := ws.getD 2 0
    let run := s.th.grp.map (fun g => (g.run, g.gen))
    let target : Target := {
      owner := some s.th.asid, run := run, action := w0.extractLsb' 0 2, psrc := w0.extractLsb' 2 5, tmask := w0.extractLsb' 16 16,
      maddr := ws.getD 1 0, priv := s.th.priv, definer := s.cur, grp := s.th.grp }
    readWords s.serial s.agent (s.x a) 16 128 = .ok (ws, v) →
    (∀ w, cfgFails c s.th.asid t.toNat ws = some w → exec (.evcfg a t) s = .next (takeTrap s.serial 0x3C w s.serial.th.pc none false))
    ∧ (cfgFails c s.th.asid t.toNat ws = none → ∃ u : Cluster, exec (.evcfg a t) s = .next ((v.setCluster k u).advance)
      ∧ vread u.targets t.toNat = target
      ∧ (∀ j, j < 32 → j ≠ t.toNat → vread u.targets j = vread c.targets j)
      ∧ ∀ j, j < 16 → vread u.terms j = if terms.getLsbD j then { owner := some s.th.asid, run := run, mask := cfgTerm ws j } else vread c.terms j)

/-- R286: EVWAIT takes cause 0x3C for a counter that is not its ASID's or is armed; a counter that has reached THR gives its count and loses
THR, when nobody waits before; otherwise the thread waits at its place among the waiters. -/
def Claim.eventWaits : Prop :=
  ∀ (s : State) (d : BitVec 5) (n : BitVec 4), s.idle → s.settled → s.th.wait = none →
    let k := s.clusterKey
    let c := s.cluster k
    let q := vread c.counters n.toNat
    let t := s.serial
    (c.mayWait s.th.asid n.toNat = false → exec (.evwait d n) s = .next (takeTrap t 0x3C (n.zeroExtend 64) t.th.pc none false))
    ∧ (c.mayWait s.th.asid n.toNat = true → q.waiters = [] → q.thr.toNat ≤ q.cnt.toNat →
        (∀ j, j < 32 → (vread c.targets j).owner = none ∨ (vread c.targets j).action = 0) →
        ∃ u : Cluster, exec (.evwait d n) s = .next ((t.setCluster k u).ret d (BitVec.ofNat 64 q.cnt.toNat))
          ∧ vread u.counters n.toNat = { q with cnt := BitVec.ofNat 32 (q.cnt.toNat - q.thr.toNat) }
          ∧ ∀ j, j < 16 → j ≠ n.toNat → vread u.counters j = vread c.counters j)
    ∧ (c.mayWait s.th.asid n.toNat = true → q.cnt.toNat < q.thr.toNat →
        exec (.evwait d n) s = .next ((t.setCluster k (c.setCounter n.toNat (q.join s.cur))).enterWait (.event n) none))

/-- R288 to R291: a MACRO with the sequencer free and nobody waiting reads its descriptor; one that fails a check takes its cause with no
other effect; one whose program reaches its end without a stop leaves the sequencer free, makes word 1 of the descriptor 0, and commits. A
MACRO that finds another program waits behind it. -/
def Claim.sequences : Prop :=
  ∀ (s : State) (a : BitVec 5), s.idle → s.settled →
    let k := s.clusterKey
    let t := s.serial
    let me : SeqRun := { byTarget := false, slot := s.cur, grp := s.th.grp, asid := s.th.asid, priv := s.th.priv, desc := s.x a }
    (seqRunning t k = none → seqWaiting t k = [] →
      (∀ c v, loadMacro t me = .error (.trap c v) → ∃ u : State, exec (.macroOp a) s = .next (takeTrap u c v u.th.pc none false)
        ∧ u.th = t.th ∧ u.mem = s.mem)
      ∧ ∀ v q q' u w, loadMacro t me = .ok (q, v) → runProgram k true (2 ^ 30) (seqBegin v k q []) q = (u, q', none) →
          seqFinish (setSeq u k (some q') (u.cluster k).seqQueue) k q' = .ok w →
          exec (.macroOp a) s = .next w.advance ∧ (w.cluster k).seqNow = none)
    ∧ (∀ q, seqRunning t k = some q → q.slot ≠ s.cur →
        ∃ u : State, exec (.macroOp a) s = .next (u.enterWait .sequencer none) ∧ u.th = t.th ∧ u.mem = s.mem
          ∧ (u.cluster k).seqNow = some q ∧ me.slot ∈ (u.cluster k).seqQueue.map (·.slot))

/-- 12_cluster.md R283 to R292: the event crossbar and the sequencer. -/
def Obligations.CrossbarAndSequencer : Prop := Claim.pulses ∧ Claim.configures ∧ Claim.eventWaits ∧ Claim.sequences

/-! ## Full/empty lines, copies, collectives and token rows (12_cluster.md R271-R282; 18_fabric.md R417-R427) -/

/-- R272, R273 for VL = 1 at SEW 8 or more: LDW and LDC read their element where its line is FULL, STFL writes it where the line is EMPTY;
LDC leaves the line EMPTY, STFL leaves it FULL, and no other line changes. In the other state the granule waits with no effect. A base that
is not a Larder line takes cause 0x39. Under n the element completes too (log 7, the model's choice). Longer vectors and 4-bit elements repeat
this by granules of 4,096 bits (R273), which this statement does not follow. -/
def Claim.fullEmpty : Prop :=
  ∀ (s : State) (o : FeOp) (t b : BitVec 5) (sn e : BitVec 3) (k n : Bool) (key : Nat), s.idle → s.settled → s.poison = [] → s.th.shaped →
    s.th.vl = 1 → s.th.active k 0 = true → 8 ≤ vtBits s.th.vtype → t.toNat % vtG s.th.vtype = 0 →
    let ins : Instr := match o with
      | .ldw => .ldw t b sn e k n
      | .ldc => .ldc t b sn e k n
      | .stfl => .stfl t b sn e k n
    let xb := s.x b
    let line := xb.toNat % 2 ^ 23 / 128
    let w := vtBits s.th.vtype
    let full := (s.cluster s.clusterKey).full
    let stores : Prop := o = .stfl
    (lineBase xb = false → exec ins s = .next (takeTrap s 0x39 xb s.th.pc none false))
    ∧ (lineBase xb = true → (s.cluster s.clusterKey).lineWaits = [] →
      checkAccess s s.agent o.form.stores (w / 8) (w / 8) 0 xb = .ok (.mem key) →
      ((line ∈ full ↔ ¬ stores) → ∃ u : State, exec ins s = .next u.advance
        ∧ vread u.th.ic sn.toNat = vread s.th.ic sn.toNat + 1 ∧ vread u.th.cc sn.toNat = vread s.th.cc sn.toNat + 1
        ∧ u.th.pend = [] ∧ u.th.ops = []
        ∧ (¬ stores → u.mem = s.mem ∧ u.th.elem t.toNat w 0 = leNat (memBytes s.mem key (w / 8)))
        ∧ (stores → u.th.v = s.th.v ∧ ∀ a, memGet u.mem a = if key ≤ a ∧ a < key + w / 8
            then BitVec.ofNat 8 (s.th.elem t.toNat w 0 / 256 ^ (a - key)) else memGet s.mem a)
        ∧ ∀ l, l ∈ (u.cluster s.clusterKey).full ↔ (match o with
          | .ldw => l ∈ full
          | .ldc => l ∈ full ∧ l ≠ line
          | .stfl => l ∈ full ∨ l = line))
      ∧ (¬ (line ∈ full ↔ ¬ stores) → ∃ u : State, exec ins s = .next u ∧ u.th.wait = some (.line (lineAddr line)) ∧ u.th.pc = s.th.pc
        ∧ u.mem = s.mem ∧ u.th.v = s.th.v ∧ u.th.ic = s.th.ic ∧ (u.cluster s.clusterKey).full = full))

/-- R272, R273: LCLR makes every line that holds a byte of its range EMPTY, and no other, and counts one element; under n the element is
outstanding and the lines stand. A range that fails its checks takes their cause. -/
def Claim.lineClears : Prop :=
  ∀ (s : State) (b i : BitVec 5) (sn e : BitVec 3), s.idle → s.settled →
    let xb := s.x b
    let off := xb.toNat % 2 ^ 23
    let len := (s.x i).toNat
    let full := (s.cluster s.clusterKey).full
    (∀ n c v, lineRangeFails xb (s.x i) = some (c, v) → exec (.lclr b i sn e n) s = .next (takeTrap s c v s.th.pc none false))
    ∧ (lineRangeFails xb (s.x i) = none →
      (∃ u : State, exec (.lclr b i sn e false) s = .next u.advance ∧ u.th = s.th.countNow sn 1 ∧ u.mem = s.mem
        ∧ ∀ l, l ∈ (u.cluster s.clusterKey).full ↔ l ∈ full ∧ ¬ (len ≠ 0 ∧ l * 128 < off + len ∧ off < l * 128 + 128))
      ∧ ∃ (u : State) (p : Pend), exec (.lclr b i sn e true) s = .next u.advance ∧ (u.cluster s.clusterKey).full = full ∧ u.mem = s.mem
        ∧ u.th.pend = [p] ∧ p.kind = .lclr ∧ u.th.ops = [⟨s.th.nextOp, sn, 1⟩] ∧ u.th.cc = s.th.cc)

/-- R276 to R282: a COPY whose size word or addresses fail takes the first cause; a size of 0 completes at once; a COPY of one element goes
to an engine of the die, outstanding under n, and without n the bytes of its source stand at a destination on its own die that no engine owns,
every other byte of memory as it was, and its element is complete. -/
def Claim.copies : Prop :=
  ∀ (s : State) (t b i : BitVec 5) (sn e : BitVec 3) (n : Bool) (ks kd : Nat), s.idle → s.settled → s.poison = [] → s.th.wait = none →
    (s.die s.dieKey).copies = [] →
    let dst := s.x b
    let src := s.x i
    let size := copySize (s.x t)
    let fails := copyFails (s.cluster s.clusterKey) s.th.gang (s.x t) dst src
    let ag : Agent := ⟨s.th.asid, s.th.priv, s.cur, [1, s.cur, s.th.nextOp]⟩
    (∀ c v, fails = some (c, v) → exec (.copy t b i sn e n) s = .next (takeTrap s c v s.th.pc none false))
    ∧ (fails = none → size = 0 → copyEv (s.x t) = false → exec (.copy t b i sn e n) s = .next s.advance)
    ∧ (fails = none → 0 < size → size ≤ 16 →
        (∃ (u : State) (j : CopyJob), exec (.copy t b i sn e true) s = .next u.advance ∧ (u.die s.dieKey).copies = [j] ∧ u.mem = s.mem
          ∧ j.slot = some s.cur ∧ j.op = s.th.nextOp ∧ j.dst = dst ∧ j.src = src ∧ j.size = s.x t ∧ j.asid = s.th.asid ∧ j.copied = 0
          ∧ u.th.ops = [⟨s.th.nextOp, sn, 1⟩] ∧ u.th.cc = s.th.cc)
        ∧ (copyFill (s.x t) = false → copyEv (s.x t) = false → (tagOf dst = 0 → s.homeOf s.nodeKey dst = s.dieKey) →
          (behindDormer s ag src).toNat % 65536 + size ≤ 65536 → dst.toNat % 65536 + size ≤ 65536 →
          (tagOf src = 0xC → dormerOf (s.die s.dieKey) s.th.asid (src + BitVec.ofNat 64 (size - 1)) ≠ none) →
          enginePlace s ag false size src = .ok ks → enginePlace s ag true size dst = .ok kd →
          (∀ k ∈ spanKeys kd size, ownedByView s k = false ∧ ownedByRelay s k = false) →
          ∃ u : State, exec (.copy t b i sn e false) s = .next u.advance ∧ u.th.ops = [] ∧ (u.die s.dieKey).copies = []
            ∧ vread u.th.cc sn.toNat = vread s.th.cc sn.toNat + 1
            ∧ ∀ a, memGet u.mem a = if kd ≤ a ∧ a < kd + size then memGet s.mem (ks + (a - kd)) else memGet s.mem a))

/-- R417 to R424: a COLL whose descriptor or source fails takes that cause, and one with an ill-formed status address takes 0x25 with it, which
is the model's reading (log 63); otherwise its contribution is at its home, or on the way there, or waits at its own die for a way (R414),
one element outstanding; without n the thread waits until it is complete, which the contribution of a collective with one contributor and
no result address is at once. COLLQ returns the status word of the slot of its key, or the word that describes none. -/
def Claim.collectives : Prop :=
  ∀ (s : State) (t b i : BitVec 5) (sn e : BitVec 3) (ws data : List Word) (s1 s2 : State), s.idle → s.settled → s.th.wait = none →
    let xi := s.x i
    let w0 := ws.getD 0 0
    let w1 := ws.getD 1 0
    let home := cwHome s s.nodeKey w0
    let c : Contrib := ⟨s.cur, s.th.nextOp, sn, s.th.grp, s.th.asid, s.th.priv, s.x t, w0, w1, ws.getD 2 0, ws.getD 3 0, xi, s.th.pc, data, false⟩
    let read := collSource s1 (s.x t) (s.x b) (sewBits (cwSew w0)) (cwLen w1) 0
    let xiOk : Prop := xi = 0 ∨ ((tagOf xi = 0 ∨ tagOf xi = 8) ∧ xi.toNat % 8 = 0)
    let reached : Prop := s.reachable s.dieKey (w0.toNat % 256) = true
    (∀ n k v, collDescriptor s (s.x t) 4 = .error (.trap k v) → exec (.coll t b i sn e n) s = .next (takeTrap s k v s.th.pc none false))
    ∧ (∀ n k v, collDescriptor s (s.x t) 4 = .ok (ws, s1) → read = .error (.trap k v) →
        exec (.coll t b i sn e n) s = .next (takeTrap s k v s.th.pc none false))
    ∧ (∀ n, collDescriptor s (s.x t) 4 = .ok (ws, s1) → read = .ok (data, s2) → ¬ xiOk →
        exec (.coll t b i sn e n) s = .next (takeTrap s 0x25 xi s.th.pc none false))
    ∧ (collDescriptor s (s.x t) 4 = .ok (ws, s1) → read = .ok (data, s2) → xiOk →
        ∃ u : State, exec (.coll t b i sn e true) s = .next u.advance ∧ exec (.coll t b i sn e false) s = .next (awaitSent u s.th.nextOp)
          ∧ u.mem = s.mem ∧ u.th.ops = [⟨s.th.nextOp, sn, 1⟩] ∧ u.th.cc = s.th.cc ∧ vread u.th.ic sn.toNat = vread s.th.ic sn.toNat + 1
          ∧ (reached → home = s.dieKey → (u.die home).contribs = (s.die home).contribs ++ [c])
          ∧ (reached → home ≠ s.dieKey → ∃ r ∈ (u.die home).notices, r.what = .contribution c)
          ∧ (¬ reached → (u.die s.dieKey).unsent = (s.die s.dieKey).unsent ++ [.contribution c])
          ∧ (reached → home = s.dieKey → xi = 0 → c.dest = 0 → c.miss = 0 → cwNcont w1 = 1 →
              (∀ p ∈ s.dies, p.2.contribs = [] ∧ p.2.rows = [] ∧ p.2.unsent = []) →
              combinerOf (s.die home) s.th.asid (cwKey w0) = none → (s.die home).combiners.length < 64 →
              ∃ w : State, awaitSent u s.th.nextOp = w.advance ∧ w.th.ops = [] ∧ w.mem = s.mem
                ∧ vread w.th.cc sn.toNat = vread s.th.cc sn.toNat + 1))
    ∧ (∀ qs v, collDescriptor s (s.x t) 2 = .ok (qs, v) → s.reachable s.dieKey ((qs.getD 0 0).toNat % 256) = true →
        let h := cwHome s s.nodeKey (qs.getD 0 0)
        exec (.collq t) s = .next ((exchange v s.dieKey h 0x14 (s.x t)).ret t (match combinerOf (s.die h) s.th.asid (cwKey (qs.getD 0 0)) with
          | some (_, q) => q.status false false false
          | none => statusNone false)))
    ∧ (∀ k v, collDescriptor s (s.x t) 2 = .error (.trap k v) → exec (.collq t) s = .next (takeTrap s k v s.th.pc none false))

/-- R425: a TSEND to an address that can be no inbox takes cause 0x62 at granule 0; one without a used slot counts its 8 elements at once;
otherwise its row, the VL elements of its group, is at the inbox's home or on the way there, or waits at its own die for a way (R414), with
one element outstanding for each used slot. Without n the thread waits until they are complete. -/
def Claim.tokenRows : Prop :=
  ∀ (s : State) (t b i : BitVec 5) (sn e : BitVec 3) (k n : Bool), s.idle → s.settled → s.th.wait = none → s.th.shaped →
    let xb := s.x b
    let used := usedSlots s.th i.toNat k
    let home := s.homeOf s.nodeKey xb
    let inbox : Prop := tagOf xb = 0 ∧ nodeOf xb ≤ 127 ∧ xb.toNat % 64 = 0
    let reached : Prop := s.reachable s.dieKey (nodeOf xb) = true
    let w := vtBits s.th.vtype
    let bytes := ((s.th.vl.toNat * w) + 7) / 8
    (t.toNat % vtG s.th.vtype ≠ 0 →
      exec (.tsend t b i sn e k n) s = .next (takeTrap s 0x05 ((wordOf (.tsend t b i sn e k n)).zeroExtend 64) s.th.pc none false))
    ∧ (t.toNat % vtG s.th.vtype = 0 → ¬ inbox → exec (.tsend t b i sn e k n) s = .next (takeTrap s 0x62 xb s.th.pc (some 0) false))
    ∧ (t.toNat % vtG s.th.vtype = 0 → inbox → (s.th.vl = 0 ∨ used = []) →
        ∃ u : State, exec (.tsend t b i sn e k true) s = .next u.advance ∧ u.mem = s.mem ∧ u.th.ops = [] ∧ u.th.v = s.th.v
          ∧ vread u.th.ic sn.toNat = vread s.th.ic sn.toNat + 8 ∧ vread u.th.cc sn.toNat = vread s.th.cc sn.toNat + 8)
    ∧ (t.toNat % vtG s.th.vtype = 0 → inbox → s.th.vl ≠ 0 → used ≠ [] →
        ∃ (u : State) (r : TokenRow), exec (.tsend t b i sn e k true) s = .next u.advance
          ∧ exec (.tsend t b i sn e k false) s = .next (awaitSent u s.th.nextOp)
          ∧ u.mem = s.mem ∧ u.th.ops = [⟨s.th.nextOp, sn, used.length⟩] ∧ vread u.th.ic sn.toNat = vread s.th.ic sn.toNat + 8
          ∧ r.slot = s.cur ∧ r.asid = s.th.asid ∧ r.inbox = xb ∧ r.ids = used ∧ r.row.length = bytes
          ∧ (∀ j, j < bytes → (w ≠ 4 ∨ s.th.vl.toNat % 2 = 0 ∨ j + 1 < bytes) → r.row.getD j 0 = BitVec.ofNat 8 (s.th.elem t.toNat 8 j))
          ∧ (reached → home = s.dieKey → (u.die home).rows = (s.die home).rows ++ [r])
          ∧ (reached → home ≠ s.dieKey → ∃ q ∈ (u.die home).notices, q.what = .row r)
          ∧ (¬ reached → (u.die s.dieKey).unsent = (s.die s.dieKey).unsent ++ [.row r]))

/-- Full/empty lines and copies (12), collectives and token rows (18). -/
def Obligations.LinesCopiesAndMessages : Prop :=
  Claim.fullEmpty ∧ Claim.lineClears ∧ Claim.copies ∧ Claim.collectives ∧ Claim.tokenRows

/-! ## Special registers, traps and the group's own instructions (11_traps.md R247-R264; 16_package_scheduling.md R375-R377) -/

/-- R262, the reads: MFS of each register of the table, at the privilege that the table gives; a number that is not in it takes cause 0x0C.
CYCLE never falls, by steps that are free (log 5). A word of the head reads with its reserved bits 0. For a group without a frame, which has
no head, it reads as 0: the model's choice (log 97). -/
def Claim.specialReads : Prop :=
  ∀ (s : State) (d : BitVec 5) (key : Nat), s.idle → s.settled → s.poison = [] →
    let t := s.serial
    let gives (r : BitVec 12) (v : Word) : Prop := exec (.mfs d r) s = .next (t.ret d v)
    gives 0 (BitVec.ofNat 64 s.th.vl.toNat) ∧ gives 1 s.th.vtype ∧ gives 2 (BitVec.ofNat 64 s.th.cols.toNat) ∧ gives 3 s.th.fcs
    ∧ gives 4 (BitVec.ofNat 64 s.th.srnd.toNat) ∧ gives 5 0x8000000000000000 ∧ gives 6 (BitVec.ofNat 64 s.th.msdepth.toNat)
    ∧ gives 7 (BitVec.ofNat 64 (s.th.priv.toNat + s.th.inh.toNat * 2 + s.th.ppend.toNat * 4))
    ∧ gives 0x14 (BitVec.ofNat 64 s.th.asid.toNat) ∧ gives 0x15 (BitVec.ofNat 64 ((cidOf s.coreKey).toNat ||| s.cur % 4 * 2 ^ 9))
    ∧ (let c := s.core s.coreKey
        let v := satAdd c.cycle (Config.freeWord s.free).toNat
        c.cycle.toNat ≤ v.toNat ∧ exec (.mfs d 0x16) s
          = .next (((State.setCore { t with free := t.free + 1 } s.coreKey { c with cycle := v })).ret d v))
    ∧ (s.th.priv = true → gives 0x10 s.th.tvec ∧ gives 0x11 s.th.framep ∧ gives 0x12 s.th.troute0 ∧ gives 0x13 s.th.troute1)
    ∧ (∀ j : Nat, j < 4 → (j < 3 ∨ s.th.priv = true) → framePlace t s.cur false (s.th.framep + BitVec.ofNat 64 (8 * j)) 8 = .ok key →
        ∃ u : State, exec (.mfs d (BitVec.ofNat 12 (8 + j))) s = .next (u.ret d (memWord s.mem key &&& headFields (8 + j))) ∧ u.th = t.th
          ∧ u.mem = s.mem)
    ∧ (∀ j : Nat, j < 4 → (j < 3 ∨ s.th.priv = true) → s.th.framep = 0 → s.th.frame = none → gives (BitVec.ofNat 12 (8 + j)) 0)
    ∧ ∀ r, sprNamed r.toNat = false → exec (.mfs d r) s = .next (takeTrap t 0x0C (BitVec.ofNat 64 r.toNat) t.th.pc none false)

/-- R262, the writes: MTS of each register that a privilege may write, reserved bits ignored (R15, R17, R22, R39, R41); a VTYPE or a number
of columns that is not legal takes cause 0x03, a register that may not be written cause 0x0C. A word of the head keeps the bits that are no
field of it, and no other byte of memory changes. That a write of EPC, ECAUSE, EVAL or ESTAT takes cause 0x21 in a group without a frame is
the model's choice (log 97). -/
def Claim.specialWrites : Prop :=
  ∀ (s : State) (a : BitVec 5) (key : Nat), s.idle → s.settled → s.poison = [] →
    let t := s.serial
    let v := s.x a
    let gives (r : BitVec 12) (th : Thread) : Prop := exec (.mts a r) s = .next (State.advance { t with th := th })
    let stop (r : BitVec 12) (c : BitVec 7) (w : Word) : Prop := exec (.mts a r) s = .next (takeTrap t c w t.th.pc none false)
    let most (vt : Word) (n : Nat) : BitVec 15 := BitVec.ofNat 15 (min n (vlmax vt s.th.gang))
    gives 0 { t.th with vl := most s.th.vtype (v.toNat % 2 ^ 15) }
    ∧ (vtypeLegal v = true → gives 1 { t.th with vtype := v, vl := most v s.th.vl.toNat })
    ∧ (vtypeLegal v = false → stop 1 0x03 v)
    ∧ (v.toNat % 2 ^ 15 ≤ 16384 → gives 2 { t.th with cols := BitVec.ofNat 15 v.toNat }) ∧ (16384 < v.toNat % 2 ^ 15 → stop 2 0x03 v)
    ∧ gives 3 { t.th with fcs := fcsWrite s.th.fcs v }
    ∧ gives 4 { t.th with srnd := if v.toNat % 2 ^ 32 = 0 then 1 else BitVec.ofNat 32 v.toNat }
    ∧ (s.th.priv = true → gives 7 { t.th with inh := v.getLsbD 1 } ∧ gives 0x10 { t.th with tvec := v &&& 0xFFFFFFFFFFFC }
        ∧ gives 0x11 { t.th with framep := v &&& 0xFFFFFFFFFFFFF000 } ∧ gives 0x12 { t.th with troute0 := v }
        ∧ gives 0x13 { t.th with troute1 := v })
    ∧ (∀ j : Nat, j < 3 → s.th.priv = true → framePlace t s.cur true (s.th.framep + BitVec.ofNat 64 (8 * j)) 8 = .ok key →
        let keep := memWord s.mem key &&& ~~~(headMask (8 + j))
        ∃ u : State, exec (.mts a (BitVec.ofNat 12 (8 + j))) s = .next u.advance ∧ u.th = t.th
          ∧ ∀ k, memGet u.mem k = if key ≤ k ∧ k < key + 8 then (keep ||| (v &&& headMask (8 + j))).extractLsb' (8 * (k - key)) 8
              else memGet s.mem k)
    ∧ (s.th.priv = true → framePlace t s.cur true (s.th.framep + 24) 8 = .ok key → v.getLsbD 1 = false ∨ (memWord s.mem key).getLsbD 1 = true →
        ∃ u : State, exec (.mts a 0x00B) s = .next u.advance ∧ u.th = t.th
          ∧ ∀ k, memGet u.mem k = if key ≤ k ∧ k < key + 8
              then ((memWord s.mem key &&& ~~~(headMask 11)) ||| (v &&& headMask 11)).extractLsb' (8 * (k - key)) 8 else memGet s.mem k)
    ∧ (∀ j : Nat, j < 4 → s.th.priv = true → s.th.framep = 0 → s.th.frame = none →
        stop (BitVec.ofNat 12 (8 + j)) 0x21 (BitVec.ofNat 64 (8 * j)))
    ∧ ∀ r, sprNamed r.toNat = false ∨ sprWritable r.toNat true = false ∨ (sprWritable r.toNat s.th.priv = false ∧ sprSystem r.toNat = false) →
        stop r 0x0C (BitVec.ofNat 64 r.toNat)

/-- R261: TRAP commits, with its loop-end check, and then takes cause 0x0E with its code as EVAL and the address at which execution goes on
as EPC. R263: YIELD passes where no group waits for its slot or INH is 1, and is pre-empted with EVAL 1 otherwise. R264: ERD reads the energy
of the group, of the stage queue and of the partition (free amounts, log 5), the budget and the number of the period; selectors above 4 are
reserved. A group that this brings above OVR times its PRED has an energy overrun pending (16_package_scheduling.md R371). -/
def Claim.commitAndTrap : Prop :=
  ∀ (s : State) (d : BitVec 5) (c : BitVec 7) (sel : BitVec 4), s.idle →
    let t := s.serial
    let w := Config.freeWord s.free
    let past : Bool := match t.runOf s.cur with
      | some r => s.th.slot == .running && r.ovr != 0 && r.ovr.toNat * s.th.charged.toNat < (s.th.energy + w).toNat
      | none => false
    let after : Thread := { t.th with energy := s.th.energy + w, overrun := s.th.overrun || past }
    (headWait t = none → exec (.trap c) s = .next (takeTrap t.advance 0x0E (BitVec.ofNat 64 c.toNat) t.advance.th.pc none false))
    ∧ (s.th.inh = true ∨ yieldWanted t = false → exec .yield s = .next t.advance)
    ∧ (s.th.inh = false → yieldWanted t = true → headWait t = none →
        exec .yield s = .next (takeTrap t.advance 0 1 t.advance.th.pc none false))
    ∧ (∃ u : State, exec (.erd d 0) s = .next (u.ret d u.th.energy) ∧ u.th = after ∧ u.mem = s.mem)
    ∧ (∃ (u : State) (v : Word), exec (.erd d 1) s = .next (u.ret d v) ∧ u.th = after ∧ u.mem = s.mem
        ∧ ∀ (r : Run) (g : GroupRef) (st : Stage), t.runOf s.cur = some r → s.th.grp = some g → r.stages[g.stage]? = some st → v = st.energy + w)
    ∧ (∃ u : State, exec (.erd d 2) s = .next (u.ret d (threadPart u).used) ∧ u.th = after ∧ u.mem = s.mem
        ∧ (t.runOf s.cur = none → threadPart u = threadPart t)
        ∧ ∀ r, t.runOf s.cur = some r → (s.pkg s.nodeKey).partOf s.th.asid = some r.part.toNat →
            (threadPart u).used = (threadPart t).used + w)
    ∧ exec (.erd d 3) s = .next (t.ret d (BitVec.ofNat 64 ((threadPart t).inBudget.toNat * 1024)))
    ∧ exec (.erd d 4) s = .next (t.ret d (s.pkg s.nodeKey).period)
    ∧ (4 < sel.toNat → exec (.erd d sel) s = .next (takeTrap t 0x02 ((wordOf (.erd d sel)).zeroExtend 64) t.th.pc none false))

/-- R375: RUN waits while the table is full; a descriptor that the Distributor refuses, or that cannot be read, takes cause 0x68 with its
address; otherwise a free entry of the table holds the run, and xd receives the entry and its generation. That the wait comes before the
descriptor is read is the model's reading (log 66), and that a thread of no group may ask for any PRIO and grow no stage its choice (log
67). R376: GROW beyond the limit takes cause 0x69; otherwise xd receives the old group count and the stage has xa more. R377: EXIT makes the
slot drain, and the thread is in no phase. -/
def Claim.groups : Prop :=
  ∀ (s : State) (d a : BitVec 5), s.idle → s.settled →
    let t := s.serial
    let node := s.nodeKey
    let runs := (s.pkg node).runs
    let cap : BitVec 2 := match t.runOf s.cur with
      | some u => u.prio
      | none => 3
    let read := readRun t s.agent false node (s.x a) cap
    (256 ≤ runs.length → exec (.run d a) s = .next (t.enterWait .runEntry none))
    ∧ (runs.length < 256 → (∃ c v, read = .error (.trap c v)) →
        exec (.run d a) s = .next (takeTrap t 0x68 (s.x a) t.th.pc none false))
    ∧ (∀ r : State, runs.length < 256 → read = .ok (none, r) →
        exec (.run d a) s = .next (takeTrap r 0x68 (s.x a) t.th.pc none false) ∧ r.th = t.th ∧ r.mem = s.mem)
    ∧ (∀ (v : Run) (r : State), runs.length < 256 → read = .ok (some v, r) →
        ∃ (u : State) (k : Nat) (w : Run), exec (.run d a) s = .next (u.ret d (BitVec.ofNat 64 (k + w.gen.toNat * 2 ^ 8))) ∧ u.th = t.th
          ∧ u.mem = s.mem ∧ k < 256 ∧ k ∉ runs.map (·.1) ∧ u.run? node k = some w ∧ w.gen = (s.pkg node).runGens.look 0 k
          ∧ w.stages = v.stages ∧ w.asid = v.asid ∧ w.prio = v.prio ∧ w.done = v.done
          ∧ w.launcher = s.th.grp.map (fun g => (s.cur, g)))
    ∧ ((growLimit t).2 < (growLimit t).1 + (s.x a).toNat → exec (.grow d a) s = .next (takeTrap t 0x69 (s.x a) t.th.pc none false))
    ∧ (∀ (r : Run) (g : GroupRef), t.runOf s.cur = some r → s.th.grp = some g → (growLimit t).1 + (s.x a).toNat ≤ (growLimit t).2 →
        ∃ u : State, exec (.grow d a) s = .next (u.ret d (BitVec.ofNat 64 (growLimit t).1)) ∧ u.th = t.th ∧ u.mem = s.mem
          ∧ u.run? node g.run = some (r.mapStage g.stage (fun st => { st with
              gc := (growLimit t).1 + (s.x a).toNat
              grows := if s.x a = 0 then st.grows else st.grows ++ [⟨(growLimit t).1, r.unissued g.stage⟩] })))
    ∧ (s.th.grp = none → s.x a = 0 → exec (.grow d a) s = .next (t.ret d 0))
    ∧ (∃ u : State, exec .exit s = .next u ∧ u.mem = s.mem ∧ u.th.slot = .draining ∧ u.th.drain = some .exit ∧ u.th.tph = none
        ∧ u.th.x = s.th.x ∧ u.th.v = s.th.v ∧ u.th.grp = s.th.grp)

/-- Special registers, commits and traps (11), and what a group asks of its run (16). -/
def Obligations.SystemInstructions : Prop := Claim.specialReads ∧ Claim.specialWrites ∧ Claim.commitAndTrap ∧ Claim.groups

/-- R60: ERET, MTSS and LEADSET at user privilege, and MFS and MTS of a system register, take cause 0x04 with the word as EVAL. -/
def Obligations.PrivilegedForms : Prop :=
  ∀ (s : State) (b d : BitVec 5) (sn : BitVec 3) (l : BitVec 4) (r : BitVec 12), s.idle → s.th.priv = false →
    let stop (i : Instr) (u : State) : Prop := exec i s = .next (takeTrap u 0x04 ((wordOf i).zeroExtend 64) u.th.pc none false)
    stop .eret s.serial ∧ stop (.mtss b sn) s ∧ (l ≠ 0 → stop (.leadset l) s.serial)
    ∧ (r ∈ [(0x00B : BitVec 12), 0x010, 0x011, 0x012, 0x013] → stop (.mfs d r) s.serial ∧ stop (.mts b r) s.serial)

/-- R253 and R250, a trap that the thread handles itself: with INH 0, a frame head that can be written and a cause that is not routed
external, the head receives EPC, ECAUSE, EVAL, ESTAT and the scalar state, its rest is 0, no other byte of memory changes, and the thread
goes on at TVEC at system privilege with INH 1, its registers as they were. The thread is in no MACRO, whose landing writes its progress. -/
def Claim.trapEntry : Prop :=
  ∀ (s : State) (cause : BitVec 7) (val pc : Word) (gran : Option Nat) (async : Bool) (key : Nat), s.idle → s.settled → s.th.inh = false →
    (∀ q, (s.cluster s.clusterKey).seqNow = some q → q.slot ≠ s.cur ∨ q.byTarget = true) → (cause ≠ 0x2C ∨ async = true) →
    framePlace s s.cur true s.th.framep 4096 = .ok key → s.th.external cause = false →
    let u := takeTrap s cause val pc gran async
    let head := headWords { s.th with feeds := s.th.feedsArch, tiles := s.th.tilesArch, exh := s.th.exhaustedAt } (epcWord pc gran)
      (BitVec.ofNat 64 (cause.toNat + async.toNat * 256)) val
      (estatWord s.th.priv false false s.th.gang s.th.reports.length s.th.alost false s.th.psize) 0 0
    u.th = { s.th with
        pc := s.th.tvec, priv := true, inh := true, gsuf := 0, gv := false, wait := none, stalled := false, exh := none, reports := [], alost := 0
        window := 0, feeds := s.th.feedsArch, tiles := s.th.tilesArch, nextOp := s.th.nextOp + 1 }
    ∧ head.length = 204
    ∧ (∀ k, key ≤ k → k < key + 4096 → memGet u.mem k = (head.getD ((k - key) / 8) 0).extractLsb' (8 * ((k - key) % 8)) 8)
    ∧ (∀ k, k < key ∨ key + 4096 ≤ k → memGet u.mem k = memGet s.mem k)

/-- R248 and R253, the other ends of a trap: while INH is 1, or where the head cannot be written, the group ends with cause 0x7F and no
frame is written; a cause that is routed external leaves the slot draining for its context save, at its landing point. -/
def Claim.trapOtherwise : Prop :=
  ∀ (s : State) (cause : BitVec 7) (val pc : Word) (gran : Option Nat) (async : Bool) (key : Nat), s.idle → s.settled →
    (∀ q, (s.cluster s.clusterKey).seqNow = some q → q.slot ≠ s.cur ∨ q.byTarget = true) → (cause ≠ 0x2C ∨ async = true) →
    let u := takeTrap s cause val pc gran async
    let place := framePlace s s.cur true s.th.framep 4096
    ((s.th.inh = true ∨ ∃ c v, place = .error (.trap c v)) → u.th.slot = .draining ∧ u.th.drain = some (.ended (some 0x7F)) ∧ u.mem = s.mem)
    ∧ (s.th.inh = false → place = .ok key → s.th.external cause = true → u.th.slot = .draining
        ∧ u.th.drain = some (.save (BitVec.ofNat 9 (cause.toNat + async.toNat * 256)) val) ∧ u.th.pc = pc
        ∧ u.th.gv = gran.isSome ∧ u.th.x = s.th.x ∧ u.th.v = s.th.v ∧ u.th.priv = s.th.priv ∧ u.mem = s.mem)

/-- R256: ERET restores the scalar state from the head at FRAMEP, of which BODY and PANT are 0, and goes on at EPC with the privilege of ESTAT
and INH 0, where what INH has held back lands at once; v, m, accumulators and memory stand, and at no granule every v register is complete
(01_thread.md R24). A head that fails a check takes cause 0x0D with
the first offset, an illegal VTYPE or number of columns cause 0x03, and nothing is restored. -/
def Claim.returns : Prop :=
  ∀ (s : State) (key : Nat), s.idle → s.settled → s.poison = [] → s.th.priv = true →
    framePlace s s.cur false s.th.framep 4096 = .ok key →
    let t := s.serial
    let w (off : Nat) : Word := memWord s.mem (key + off)
    let fails := headFails s s.th key (regionHeld s s.cur s.th)
    let legal : Prop := vtypeLegal (w 0x120) = true ∧ (w 0x128).toNat % 2 ^ 15 ≤ 16384
    (∀ r, applyHead t s.cur = .ok r → exec .eret s = .next ((landNow r).getD r))
    ∧ (∀ off r, fails = off :: r → exec .eret s = .next (takeTrap t 0x0D (BitVec.ofNat 64 off) t.th.pc none false))
    ∧ (fails = [] → vtypeLegal (w 0x120) = false → exec .eret s = .next (takeTrap t 0x03 (w 0x120) t.th.pc none false))
    ∧ (fails = [] → vtypeLegal (w 0x120) = true → 16384 < (w 0x128).toNat % 2 ^ 15 →
        exec .eret s = .next (takeTrap t 0x03 (w 0x128) t.th.pc none false))
    ∧ (fails = [] → legal → s.th.ppend = false → s.th.overrun = false → s.th.reports = [] → (w 0x18).getLsbD 1 = false → (w 0x18).getLsbD 2 = false →
        ∃ u : State, exec .eret s = .next u ∧ u.mem = s.mem ∧ u.th.v = s.th.v ∧ u.th.m = s.th.m ∧ u.th.ms = s.th.ms ∧ u.th.acc = s.th.acc
          ∧ u.th.pc = w 0 &&& 0xFFFFFFFFFFFC ∧ u.th.gsuf = (w 0).extractLsb' 48 5 ∧ u.th.gv = (w 0).getLsbD 53
          ∧ u.th.priv = (w 0x18).getLsbD 0 ∧ u.th.inh = false
          ∧ ((w 0).getLsbD 53 = false → u.th.prog = Vector.replicate 32 s.th.fullIndex)
          ∧ (∀ r, 0 < r → r < 32 → vread u.th.x r = w (0x20 + 8 * (r - 1)))
          ∧ u.th.vtype = w 0x120 ∧ u.th.vl.toNat = min ((w 0x118).toNat % 2 ^ 15) (vlmax (w 0x120) s.th.gang)
          ∧ u.th.cols.toNat = (w 0x128).toNat % 2 ^ 15 ∧ u.th.srnd.toNat = max 1 ((w 0x138).toNat % 2 ^ 32)
          ∧ (∀ n, n < 3 → (vread u.th.lc n).toNat = (w (0x178 + 8 * n)).toNat % 2 ^ 32)
          ∧ u.th.tvec = w 0x648 &&& 0xFFFFFFFFFFFC ∧ u.th.troute0 = w 0x650 ∧ u.th.troute1 = w 0x658)

/-- 11_traps.md R253 to R256: taking a trap and returning from one. -/
def Obligations.TrapsAndReturns : Prop := Claim.trapEntry ∧ Claim.trapOtherwise ∧ Claim.returns

/-! ## Events of a thread (the device transitions of the opcode table)

An event is an instruction of the model that no word encodes; one that has nothing to do leaves the state (log 2). -/

/-- R24 to R28: the head of a vector queue is dispatched once no value is on its way to its destinations, its granules land in their order or
take their trap at their granule, and it commits when all have landed, with the scalar instructions behind it; a scalar instruction that no
vector instruction is older than commits. A tile load makes its region live as it is dispatched, or takes its trap there (10_matrix.md R233).
A slot without a queue has nothing to do. That the queue acts in such steps is the model's choice (log 6). -/
def Claim.queueEvents : Prop :=
  ∀ (s : State) (slot : Nat),
    let f := s.focus slot
    let t := s.thread slot
    (headOf s slot = none → exec (.vectorDispatch slot) s = .next s ∧ exec (.granuleLanding slot) s = .next s
      ∧ exec (.vectorCommit slot) s = .next s)
    ∧ (∀ q, headOf s slot = some q → let p := planOf q.op
      let d := dispatchVec f p
      let sent (w : State) : Prop :=
        exec (.vectorDispatch slot) s = .next ((w.setHead { q with op := q.op.capture w.th, dispatched := true }).focus s.cur)
      (q.dispatched = false → p.awaits d.th = false → (∀ o, q.op.kind ≠ .tileLoad o) → sent d)
      ∧ (∀ o, q.dispatched = false → p.awaits d.th = false → q.op.kind = .tileLoad o →
          (∀ w, dispatchTile d q.op = .ok w → sent w)
          ∧ (∀ c v, dispatchTile d q.op = .error (.trap c v) →
              exec (.vectorDispatch slot) s = .next ((takeTrap f c v q.op.addr none false).focus s.cur))
          ∧ ∀ x, dispatchTile d q.op = .error (.wait x) → exec (.vectorDispatch slot) s = .next (f.focus s.cur))
      ∧ (q.dispatched = false → p.awaits d.th = true → exec (.vectorDispatch slot) s = .next (f.focus s.cur))
      ∧ (q.dispatched = true → q.granule < p.steps → ∀ u, withSoft (p.gran q.granule) f = .ok u → let g := q.granule + 1
          exec (.granuleLanding slot) s
            = .next ((State.setHead { u with th := u.th.land p (if p.steps ≤ g then p.live else g) }
              { q with granule := g, piped := u.th.rows.any (fun r => r.op.id == q.op.id) }).focus s.cur))
      ∧ (q.dispatched = true → q.granule < p.steps → ∀ c v, withSoft (p.gran q.granule) f = .error (.trap c v) → exec (.granuleLanding slot) s
          = .next ((takeTrap f c v q.op.addr (if p.gv then some q.granule else none) false).focus s.cur))
      ∧ (q.dispatched = true → p.steps ≤ q.granule → q.op.n = true ∨ (q.op.kind ≠ .copy ∧ q.op.kind ≠ .tsend) →
          exec (.vectorCommit slot) s = .next (s.setThread slot (t.freeEntry q.op.id))
          ∧ (t.vq.head? = some q → ∃ feeds tiles, t.freeEntry q.op.id = { q.counts.foldl (fun t sn => t.countNow sn 1) t with
              vq := t.vq.drop 1, window := t.window + q.younger, feedsArch := feeds, tilesArch := tiles })))
    ∧ exec (.scalarCommit slot) s = .next (if t.window = 0 then s else s.setThread slot { t with window := t.window - 1 })

/-- R189, R286, R294, R318, R347, R375, R421, R273, R335: what ends a wait makes the waiting instruction try again in its slot, and it
completes where it would have completed at once. That a settle is given by xa[11:0] = 0xFF alone is the model's reading (log 35), and that
a thread of no group may run with any PRIO its choice (log 67). -/
def Claim.retryEvents : Prop :=
  ∀ (s : State) (slot : Nat) (a b d : BitVec 5) (h : BitVec 4) (sn e : BitVec 3) (k n : Bool) (key : Nat),
    let f := s.focus slot
    let again (ev i : Instr) : Prop := s.waiting slot i → exec ev s = exec i f
    let cl := f.cluster f.clusterKey
    again (.waitcSatisfied slot) (.waitc b sn) ∧ again (.waitcSatisfied slot) (.mtss b sn) ∧ again (.waitcSatisfied slot) (.mfic d sn)
    ∧ again (.evwaitSatisfied slot) (.evwait d h) ∧ again (.phaseRelease slot) .phase ∧ again (.relayoutSettled slot) (.relayout h a)
    ∧ again (.unsealComplete slot) (.unsealOp a b) ∧ again (.collComplete slot) (.coll d a b sn e n)
    ∧ (f.th.wait = some .runEntry → again (.runEntryFree slot) (.run d a))
    ∧ (headOf s slot = none → again (.larderGranuleAction slot) (.ldw d b sn e k n) ∧ again (.larderGranuleAction slot) (.ldc d b sn e k n)
        ∧ again (.larderGranuleAction slot) (.stfl d b sn e k n))
    ∧ ((∃ die v blk c, f.th.wait = some (.stall die v blk c)) → headOf s slot = none → again (.stallReadRelease slot) (.cld d h b sn e k n))
    ∧ (s.waiting slot (.waitc b sn) → f.idle → f.settled → ¬ 0 < (f.x b - vread f.th.ic sn.toNat).toInt →
        0 ≤ (vread f.th.cc sn.toNat - f.x b).toInt → exec (.waitcSatisfied slot) s = .next f.advance)
    ∧ (s.waiting slot (.evwait d h) → f.idle → f.settled → f.th.wait = some (.event h) → cl.mayWait f.th.asid h.toNat = true →
        (cl.counter h.toNat).waiters = [f.cur] → (cl.counter h.toNat).thr.toNat ≤ (cl.counter h.toNat).cnt.toNat →
        ∃ u : State, exec (.evwaitSatisfied slot) s = .next (u.ret d (BitVec.ofNat 64 (cl.counter h.toNat).cnt.toNat)) ∧ u.th = f.serial.th
          ∧ u.mem = s.mem)
    ∧ (∀ p, s.waiting slot .phase → f.idle → f.th.tph = some p →
        (∀ c ∈ neighbours f.clusterKey, ∀ x, cph f.serial c f.th.asid = some x → (p + 1).toNat ≤ x + cl.lead.toNat) →
        exec (.phaseRelease slot) s = .next (State.advance { f with th := { f.serial.th with tph := some (p + 1) } }))
    ∧ (∀ r, s.waiting slot (.relayout h a) → f.idle → f.settled → (f.x a).toNat % 4096 = 0xFF → let hd := vread f.th.h h.toNat
        hRlp hd = true → f.reachable f.dieKey (nodeOf (hBase hd)) = true →
        recordOf f (f.homeOf f.nodeKey (hBase hd)) hd f.th.asid = some r → r.state = 2 →
        exec (.relayoutSettled slot) s
          = .next ((exchange f f.dieKey (f.homeOf f.nodeKey (hBase hd)) 0x10 (hBase hd)).setHandle h (settledHandle hd)).advance)
    ∧ (∀ x : SealRec, s.waiting slot (.unsealOp a b) → f.idle → f.settled → regionOk (f.x a) (f.x b) 0x10000 = true →
        f.reachable f.dieKey (nodeOf (f.x a)) = true → let D := f.die (f.homeOf f.nodeKey (f.x a))
        D.seals.find? (fun q => q.asid == f.th.asid && q.chan == chanOf (f.x a) && q.off == offOf (f.x a) && q.len == (f.x b).toNat) = some x →
        (∀ r ∈ D.registry, r.onto x = false) → ∃ u : State, exec (.unsealComplete slot) s = .next u.advance ∧ u.th = f.th ∧ u.mem = s.mem
          ∧ (u.die (f.homeOf f.nodeKey (f.x a))).seals = D.seals.filter (fun q => q != x))
    ∧ (∀ op, s.waiting slot (.coll d a b sn e n) → f.idle → f.th.wait = some (.operation op) →
        (∀ p ∈ f.dies, p.2.notices = [] ∧ p.2.contribs = [] ∧ p.2.rows = [] ∧ p.2.unsent = []) → exec (.collComplete slot) s = .next f.advance)
    ∧ (∀ (v : Run) (r : State), s.waiting slot (.run d a) → f.idle → f.settled → f.th.wait = some .runEntry → f.th.grp = none →
        (f.pkg f.nodeKey).runs.length < 256 → readRun f.serial f.agent false f.nodeKey (f.x a) 3 = .ok (some v, r) →
        ∃ (u : State) (c : Nat) (w : Run), exec (.runEntryFree slot) s = .next (u.ret d (BitVec.ofNat 64 (c + w.gen.toNat * 2 ^ 8)))
          ∧ u.th = f.serial.th ∧ u.mem = s.mem ∧ u.run? f.nodeKey c = some w ∧ w.stages = v.stages)
    ∧ (headOf s slot = none → s.waiting slot (.ldw d b sn e k n) → f.atFirst → f.settled → f.poison = [] → f.th.shaped → f.th.vl = 1 →
        8 ≤ vtBits f.th.vtype → d.toNat % vtG f.th.vtype = 0 → f.th.active k 0 = true → lineBase (f.x b) = true → (∀ w ∈ cl.lineWaits, w.slot = slot) →
        checkAccess f f.agent false (vtBits f.th.vtype / 8) (vtBits f.th.vtype / 8) 0 (f.x b) = .ok (.mem key) →
        (f.x b).toNat % 2 ^ 23 / 128 ∈ cl.full →
        ∃ u : State, exec (.larderGranuleAction slot) s = .next u.advance ∧ u.mem = s.mem
          ∧ u.th.elem d.toNat (vtBits f.th.vtype) 0 = leNat (memBytes s.mem key (vtBits f.th.vtype / 8)))
    ∧ (∀ hit, headOf s slot = none → s.waiting slot (.cld d h b sn e k false) → (∃ die v blk c, f.th.wait = some (.stall die v blk c)) →
        f.atFirst → f.settled → f.poison = [] → f.th.shaped → f.th.vl = 1 → 8 ≤ vtBits f.th.vtype → f.th.active k 0 = true →
        let op : VOp := { f.mop (.load .handle) d 0 b sn e k false (wordOf (.cld d h b sn e k false)) with hand := vread f.th.h h.toNat }
        memChecks f.th op true = .ok () → handleFails (vread f.th.h h.toNat) f.th.vtype false = none → resolvesTo f op 0 (some hit) →
        hit.place = .mem key → hit.i = 0 →
        ∃ u : State, exec (.stallReadRelease slot) s = .next u.advance ∧ u.mem = s.mem
          ∧ u.th.elem d.toNat (vtBits f.th.vtype) 0 = leNat (memBytes s.mem key (vtBits f.th.vtype / 8)))

/-- R152 to R155, R185, R282 in a settled pod without uncorrectable words: a pending element performs, a load or a returning atomic into its
register element, a store or an atomic into its bytes, a contribution into its core's combining buffer, or outside pod memory where it goes,
and counts as complete; a load of another die is answered with a transfer of its data; a check of an element asks for its page where that is
missing; a COPY of one element ends with its bytes carried; a thread that an exhausted stream held goes on once an operation has ended. -/
def Claim.elementEvents : Prop :=
  ∀ (s : State) (slot idx : Nat) (p : Pend), s.settled → s.poison = [] →
    let t := s.thread slot
    (t.pend[idx]? = none → exec (.elementComplete slot idx) s = .next s ∧ exec (.returnedValue slot idx) s = .next s)
    ∧ (t.pend[idx]? = some p → p.got = none → s.lineFree p.key = true → keyUnreachable s slot p.key = false → 8 ≤ p.sew →
      (∀ j q, j ≠ idx → t.pend[j]? = some q → keyLine q.key ≠ keyLine p.key) →
      ∀ ev, (ev = .elementComplete slot idx ∨ (ev = .returnedValue slot idx ∧ p.returns = true)) →
      let old := leNat (memBytes s.mem p.key (p.sew / 8))
      let done (u : State) (v : Option Nat) : Prop := exec ev s = .next u ∧ u.cur = s.cur ∧ (u.thread slot).pend = t.pend.eraseIdx idx
        ∧ (u.thread slot).cc = (t.complete p.op 1).cc ∧ (u.thread slot).ops = (t.complete p.op 1).ops ∧ (u.thread slot).x = t.x
        ∧ (u.thread slot).v = (match v with
          | some v => (t.setElem p.dst.toNat p.sew p.idx v).v
          | none => t.v)
      let wrote (u : State) (v : Nat) : Prop := ∀ a, memGet u.mem a =
        if p.key ≤ a ∧ a < p.key + p.sew / 8 then BitVec.ofNat 8 (v / 256 ^ (a - p.key)) else memGet s.mem a
      (match p.kind with
        | .load => (remoteKey slot p.key = false → ∃ u, done u (some old) ∧ u.mem = s.mem)
            ∧ (remoteKey slot p.key = true → ∃ u, exec ev s = .next u ∧ u.mem = s.mem ∧ (u.thread slot).v = t.v ∧ (u.thread slot).cc = t.cc
              ∧ { p with got := some (BitVec.ofNat 64 old, false) } ∈ (u.thread slot).pend
              ∧ ∃ r ∈ (u.die (slotDie slot)).notices, r.what = .data slot p.op p.idx)
        | .store => ∃ u, done u none ∧ wrote u p.data.toNat
        | .atom o => ∃ u, done u (some old) ∧ wrote u (atomApply o p.sew p.signed old p.data.toNat p.data2.toNat)
        | .comb o => (p.key < 2 ^ 60 → ∃ u, done u none ∧ u.mem = s.mem
              ∧ (u.core (elemCore s slot p.sew p.idx)).comb = [p.contribution slot o])
            ∧ (2 ^ 60 ≤ p.key → ∃ u, done u none ∧ wrote u (combApply o p.sew p.signed old p.data.toNat))
        | .lclr => ∃ u, done u none ∧ u.mem = s.mem))
    ∧ (∀ a n w x pl, checkAccess s (s.agentOf slot) w n n 0 a = .ok pl → exec (.checkRequest slot a n w x) s = .next s)
    ∧ (∀ a n w x die img, checkAccess s (s.agentOf slot) w n n 0 a = .error (.wait (.service die img)) →
        exec (.checkRequest slot a n w x) s = .next (requestPage s die img)
        ∧ ∃ r ∈ ((requestPage s die img).die die).fsreqs, pageName r.page = pageName img)
    ∧ (∀ op, (∀ j ∈ (s.die (slotDie slot)).copies, ¬ (j.slot = some slot ∧ j.op = op)) → exec (.copyComplete slot op) s = .next s)
    ∧ (∀ j ks kd, (s.die (slotDie slot)).copies = [j] → j.slot = some slot → j.queue = none → j.copied = 0 → j.chunks = [] → 0 < copySize j.size →
        copySize j.size ≤ 16 → copyFill j.size = false → copyEv j.size = false →
        let ag := j.agent (slotDie slot)
        let last := j.src + BitVec.ofNat 64 (copySize j.size - 1)
        (behindDormer s ag j.src).toNat % 65536 + copySize j.size ≤ 65536 → j.dst.toNat % 65536 + copySize j.size ≤ 65536 →
        remoteCopy s (slotDie slot) j = false → tagOf j.src = 0 ∨ tagOf j.src = 8 ∨ tagOf j.src = 0xC → tagOf j.dst = 0 ∨ tagOf j.dst = 8 →
        (tagOf j.src = 0xC → (dormerOf (s.die (slotDie slot)) j.asid last).isSome = true) →
        enginePlace s ag false (copySize j.size) j.src = .ok ks → enginePlace s ag true (copySize j.size) j.dst = .ok kd →
        (∀ k ∈ spanKeys kd (copySize j.size), ownedByView s k = false ∧ ownedByRelay s k = false) →
        ∃ u, exec (.copyComplete slot j.op) s = .next u ∧ (u.die (slotDie slot)).copies = []
          ∧ (u.thread slot).ops = (t.complete j.op 1).ops ∧ (u.thread slot).cc = (t.complete j.op 1).cc
          ∧ ∀ a, memGet u.mem a = if kd ≤ a ∧ a < kd + copySize j.size then memGet s.mem (ks + (a - kd)) else memGet s.mem a)
    ∧ (∀ sn, exec (.streamExhaustionEnd slot sn) s =
        .next (if t.wait = some (.exhausted sn) ∧ t.oc sn < 256 then s.setThread slot { t with stalled := false } else s))

/-- R274, R294, R414: a wait that has lasted longer than its limit takes its cause: 0x39 with the line that holds it, after one more try, which
is the model's choice (log 86), 0x3D with the phase that
it seeks, 0x60 with the address that no route reaches; a limit of 0 is none, and a node that is reachable again lets the thread go on. -/
def Claim.limitEvents : Prop :=
  ∀ (s : State) (slot : Nat),
    let t := s.thread slot
    let c := s.cluster (slotCluster slot)
    let f := s.focus slot
    (c.feto = 0 → exec (.fullEmptyTimeout slot) s = .next s)
    ∧ (∀ (i : Instr) (full : Bool) (d b : BitVec 5) (sn e : BitVec 3) (k n : Bool) (key : Nat) (a : Word),
        (full = true ∧ (i = .ldw d b sn e k n ∨ i = .ldc d b sn e k n)) ∨ (full = false ∧ i = .stfl d b sn e k n) →
        let w := vtBits t.vtype
        let line := (f.x b).toNat % 2 ^ 23 / 128
        c.feto ≠ 0 → headOf s slot = none → s.waiting slot i → t.wait = some (.line a) → f.atFirst → f.settled → f.poison = [] → t.shaped →
        t.vl = 1 → 8 ≤ w → d.toNat % vtG t.vtype = 0 → t.active k 0 = true → lineBase (f.x b) = true →
        checkAccess f f.agent (!full) (w / 8) (w / 8) 0 (f.x b) = .ok (.mem key) → (line ∈ c.full ↔ full = false) →
        ∃ u : State, exec (.fullEmptyTimeout slot) s = .next (trapWaiting u slot 0x39 (lineAddr line)) ∧ u.mem = s.mem
          ∧ (u.thread slot).x = t.x ∧ (u.thread slot).v = t.v ∧ (u.thread slot).pc = t.pc ∧ (u.thread slot).gv = true
          ∧ (u.thread slot).gsuf = 0)
    ∧ (∀ u a b, c.feto ≠ 0 → t.slot = .running → holdsAt s slot = some (.line a) → exec (.larderGranuleAction slot) s = .next u →
        holdsAt u slot = some (.line b) → exec (.fullEmptyTimeout slot) s = .next (trapWaiting u slot 0x39 b))
    ∧ (∀ p, t.wait = some (.phase p) → t.slot = .running → c.phto ≠ 0 → exec (.phaseTimeout slot) s
        = .next ((takeTrap (s.focus slot) 0x3D (p.zeroExtend 64) t.pc none false).focus s.cur))
    ∧ ((∀ p, t.wait ≠ some (.phase p)) ∨ c.phto = 0 → exec (.phaseTimeout slot) s = .next s)
    ∧ (∀ a n, t.slot = .running → holdsAt s slot = some (.unreachable a n) → s.reachable (slotDie slot) n = false →
        exec (.fabricTimeout slot) s = .next (trapWaiting s slot 0x60 a))
    ∧ (∀ a n, t.slot = .running → holdsAt s slot = some (.unreachable a n) → s.reachable (slotDie slot) n = true →
        exec (.fabricTimeout slot) s
          = .next (s.onSlot slot fun u => { u with th := { u.th with stalled := false } }))

/-- What happens to a thread from outside its instructions: its queue, its waits, its elements and the limits on them. -/
def Obligations.ThreadEvents : Prop := Claim.queueEvents ∧ Claim.retryEvents ∧ Claim.elementEvents ∧ Claim.limitEvents

/-! ## Traps, contexts and groups as events (11_traps.md R253-R258; 16_package_scheduling.md R360-R378) -/

/-- R253 to R257: a trap, a report or a pre-emption lands where the thread of the slot is at a landing point, a report and a pre-emption only
while INH is 0 and no synchronous fault stands there; a report joins the queue of eight; a pre-emption is asked of a running group with a
frame only, and one without a frame goes on as it was (17_package_system.md R389). That a cause which R249 does not assign does nothing is
the model's reading (log 85). -/
def Claim.landings : Prop :=
  ∀ (s : State) (slot : Nat) (c : BitVec 7) (v pc : Word) (sn : BitVec 3) (el : BitVec 32),
    let k := s.lower slot
    let f := s.focus k
    let t := s.thread k
    (f.th.slot = .running → canLand f = true → causeAssigned c.toNat = true → exec (.trapTaken slot c v) s
      = .next ((takeTrap f c v (landing f).1 (landing f).2 false).focus s.cur))
    ∧ (f.th.slot ≠ .running ∨ canLand f = false → exec (.trapTaken slot c v) s = .next s ∧ exec (.preemption slot) s = .next s
        ∧ exec (.asyncReportTrap slot) s = .next s)
    ∧ (t.slot ≠ .free → causeAssigned c.toNat = true → c ≠ 0x2C → t.reports.length < 8 → ∃ u, exec (.asyncReport slot c v sn pc el) s = .next u ∧ u.mem = s.mem
        ∧ (u.thread k).reports = t.reports ++ [⟨c, sn, v, pc, el⟩] ∧ (u.thread k).x = t.x ∧ (u.thread k).pc = t.pc)
    ∧ (t.slot = .free ∨ causeAssigned c.toNat = false → exec (.asyncReport slot c v sn pc el) s = .next s)
    ∧ (∀ r rest, f.th.slot = .running → f.th.inh = false → canLand f = true → faultsAt f = false → f.th.reports = r :: rest → exec (.asyncReportTrap slot) s
        = .next ((takeTrap f r.cause r.val (landing f).1 (landing f).2 true).focus s.cur))
    ∧ (faultsAt f = true → exec (.asyncReportTrap slot) s = .next s ∧ exec (.preemption slot) s = .next s)
    ∧ (t.slot = .running → (t.framep ≠ 0 ∨ t.frame ≠ none) →
        exec (.preemptionRequest slot) s = .next (s.setThread k { t with ppend := true }))
    ∧ (t.framep = 0 → t.frame = none → exec (.preemptionRequest slot) s = .next s)
    ∧ (t.slot ≠ .running → exec (.preemptionRequest slot) s = .next s)
    ∧ (f.th.slot = .running → f.th.inh = false → f.th.ppend = true → canLand f = true → faultsAt f = false →
        (∀ r, f.runOf k = some r → r.ending = false) →
        exec (.preemption slot) s = .next ((takeTrap f 0 0 (landing f).1 (landing f).2 false).focus s.cur))

/-- R371: the energy of a group is brought up to date; a group whose energy exceeds OVR times its prediction at issue takes cause 0x6A with the
energy, at its landing point, and holds it until it lands. R377 and R258: EXIT and a context save take effect once nothing of the thread is
outstanding: the slot is free, and a pre-empted group is a saved context; what the thread has used till then, a free amount (log 5), counts. -/
def Claim.departures : Prop :=
  ∀ (s : State) (slot used : Nat), s.settled →
    let k := s.lower slot
    let t := s.thread k
    let w : Word := BitVec.ofNat 64 used
    let a := addEnergy s k (w - t.energy)
    let f := a.focus k
    (∀ r, t.slot = .running → f.runOf k = some r → r.ovr ≠ 0 → r.ovr.toNat * f.th.charged.toNat < w.toNat → f.th.inh = false →
        canLand f = true → exec (.energyOverrun slot used) s
          = .next ((takeTrap f 0x6A w (landing f).1 (landing f).2 false).focus a.cur))
    ∧ (∀ r, t.slot = .running → f.runOf k = some r → r.ovr ≠ 0 → r.ovr.toNat * f.th.charged.toNat < w.toNat →
        (f.th.inh = true ∨ canLand f = false) →
        exec (.energyOverrun slot used) s = .next (a.setThread k { a.thread k with overrun := true }))
    ∧ (t.slot = .running → (∀ r, f.runOf k = some r → r.ovr = 0) → ∃ u, exec (.energyOverrun slot used) s = .next u ∧ u.mem = s.mem
        ∧ (u.thread k).energy = w ∧ (u.thread k).x = t.x ∧ (u.thread k).pc = t.pc)
    ∧ (let q := s.thread slot
      q.slot = .draining → q.drain = some .exit → q.pend = [] → q.ops = [] → q.reports = [] → q.grp = none →
        ∃ u, exec (.exitTakesEffect slot) s = .next u ∧ u.mem = s.mem ∧ (u.thread slot).slot = .free)
    ∧ (∀ g r, let q := s.thread slot
      q.slot = .draining → q.drain = some .exit → q.pend = [] → q.ops = [] → q.reports = [] → q.grp = some g →
        s.run? (slotNode slot) g.run = some r → r.gen = g.gen →
        ∃ u r', exec (.exitTakesEffect slot) s = .next u ∧ u.mem = s.mem ∧ (u.thread slot).slot = .free
          ∧ u.run? (slotNode slot) g.run = some r' ∧ ∀ e ∈ (r'.stage g.stage).queue, e.index = g.index → e.complete = true)
    ∧ (∀ g r e v u, t.slot = .draining → t.drain = some (.save e v) → t.pend = [] → t.ops = [] → t.grp = some g →
        s.runOf k = some r → r.ending = false → e.extractLsb' 0 7 = 0 → writeFrame (consume s k) k e v = .ok u →
        ∃ u' : State, exec (.contextSave slot) s = .next u' ∧ u'.mem = u.mem ∧ (u'.thread k).slot = .free
          ∧ ∃ c, (u'.pkg (slotNode k)).saved = (u.pkg (slotNode k)).saved ++ [c] ∧ c.grp = g ∧ c.framep = (s.thread k).framep
            ∧ c.asid = t.asid ∧ c.cause = 0 ∧ c.held = false)

/-- R360, R365, R369, 17 R389 and R258: a loading group whose core has room and whose preload is done runs, with the partition's trap settings
and its frame, in which EPC, ECAUSE, EVAL and ESTAT are then 0, the model's choice (log 97); a preload, which waits for a group that ran
beside it to leave, is promoted as a start; a decision assigns the first candidate to
its slot, where its group is LOADING with its index, argument and entry address; a saved context that is restored runs again with its tile
regions, and is saved no longer. -/
def Claim.arrivals : Prop :=
  ∀ (s : State) (slot node idx core : Nat),
    let k := s.lower slot
    let t := s.thread k
    (∀ r g, t.slot = .loading → t.gangHigh = false → t.toLoad = 0 → s.runOf k = some r → t.grp = some g →
      s.settled → (∀ c ∈ s.coresOf k, (if t.preload then stayingOn s t c else runningOn s c) < ((s.pkg (slotNode k)).part r.part.toNat).rmax.toNat) →
      let q := (s.pkg (slotNode k)).part r.part.toNat
      let w := s.setThread k { t with tvec := q.tvec, troute0 := q.troute0, troute1 := q.troute1, framep := framepOf q t.frame, toLoad := 0 }
      let place := framePlace w k true (framepOf q t.frame) 32
      ∃ u, exec (.groupStart slot) s = .next u
        ∧ (∀ key, place = .ok key → ∀ b, memGet u.mem b = if key ≤ b ∧ b < key + 32 then 0 else memGet s.mem b)
        ∧ ((∀ key, place ≠ .ok key) → u.mem = s.mem) ∧ (u.thread k).slot = .running ∧ (u.thread k).tvec = q.tvec
        ∧ (u.thread k).troute0 = q.troute0 ∧ (u.thread k).troute1 = q.troute1 ∧ (u.thread k).framep = framepOf q t.frame
        ∧ (u.thread k).x = t.x ∧ (u.thread k).pc = t.pc ∧ (u.thread k).priv = t.priv)
    ∧ (∀ i, (List.range 4).find? (fun j => (s.thread (core * 4 + j)).slot == .loading) = some i →
        exec (.preloadPromotion core) s = exec (.groupStart (core * 4 + i)) s)
    ∧ ((∀ i, i < 4 → (s.thread (core * 4 + i)).slot ≠ .loading) → exec (.preloadPromotion core) s = .next s)
    ∧ (let l := (cands s node).filter (fun c => (placeFor s node c).isSome)
      (chosen s node l = none → exec (.distributorDecision node) s = .next s)
      ∧ ∀ c r at_ base, chosen s node l = some c → c.ctx = none → s.run? node c.run = some r → placeFor s node c = some (at_, base) →
          ((r.stage c.stage).at 0x1C8).extractLsb' 23 13 = 0 →
          let st := r.stage c.stage
          ∃ u, exec (.distributorDecision node) s = .next u ∧ (u.thread at_).slot = .loading
            ∧ (u.thread at_).grp = some ⟨c.run, r.gen, c.stage, c.index⟩ ∧ (u.thread at_).asid = r.asid ∧ (u.thread at_).pc = st.at 0
            ∧ vread (u.thread at_).x 1 = BitVec.ofNat 64 c.index ∧ vread (u.thread at_).x 2 = st.at 8 ∧ (u.thread at_).sys = st.sys
            ∧ (u.thread at_).priv = st.sys ∧ (u.thread at_).vl = 256 ∧ (u.thread at_).vtype = 0x23 ∧ (u.thread at_).gang = st.gang)
    ∧ (∀ c r base x, (cands s node).find? (fun c => c.ctx == some idx) = some c → s.run? node c.run = some r → slotNode slot = node →
        (s.pkg node).saved[idx]? = some x → x.gang = false → x.cluster = none →
        dieFor (s.pkg node) r.part.toNat (r.stage c.stage) c.index = none → slotCore slot ∈ partCores (s.pkg node) node r.part.toNat →
        coreTakes s ((s.pkg node).part r.part.toNat) false (slotCore slot) = true → (s.thread (slotCore slot * 4 + slot % 4)).slot = .free →
        freeWindow s [slotCore slot] (slot % 4) x.psize.toNat = some base →
        exec (.contextRestore slot idx) s = .next (restoreCtx s node idx slot base)
        ∧ (let e := takeWindows (enterCluster s (slotCluster slot) x.asid) (slotCore slot) false base x.psize.toNat x.asid
          let cl := e.cluster (slotCluster slot)
          let mine (r : Region) : Bool := r.grp == some x.grp
          let regions := cl.regions.map (fun r => if mine r then { r with slot := some slot } else r)
          let e := e.setCluster (slotCluster slot) { cl with regions := regions }
          let f : BitVec 4 := BitVec.ofNat 4 base
          let th : Thread := { slot := .loading, sys := x.sys, asid := x.asid, pbase := f, psize := x.psize, grp := some x.grp }
          let next := ((cl.regions.filter mine).map (·.op + 1)).foldl max 0
          let th := { th with frame := x.frame, framep := x.framep, energy := x.energy, charged := x.charged, nextOp := next }
          ∀ w ps, framePages (e.setThread slot th) slot false [0] = .ok ps → applyHead (e.setThread slot th) slot = .ok w →
            ((restoreCtx s node idx slot base).thread slot).slot = .running
            ∧ ((restoreCtx s node idx slot base).thread slot).pc = (w.thread slot).pc
            ∧ ((restoreCtx s node idx slot base).thread slot).x = (w.thread slot).x
            ∧ ((restoreCtx s node idx slot base).cluster (slotCluster slot)).regions = regions
            ∧ ((restoreCtx s node idx slot base).pkg node).saved = (w.pkg node).saved.eraseIdx idx))

/-- Traps that no instruction raises, groups that leave a slot and groups that enter one. -/
def Obligations.TrapAndGroupEvents : Prop := Claim.landings ∧ Claim.departures ∧ Claim.arrivals

/-! ## Events of cores and clusters (09_core.md R209-R221; 12_cluster.md R284-R292; 18_fabric.md R412, R413) -/

/-- R412, R413, R192 in memory without uncorrectable words: an entry of a write buffer leaves for the home of its line; a line write that
arrives first at its line changes exactly the bytes of its elements, the last of them that covers a byte; an entry of a combining buffer
merges, each of its elements combined into its place, in their order, once its home is reached and no engine owns its line. -/
def Claim.bufferEvents : Prop :=
  ∀ (s : State) (core die idx : Nat), s.poison = [] →
    let c := s.core core
    (c.wbuf[idx]? = none → exec (.writeBufferSend core idx) s = .next s) ∧ (c.comb[idx]? = none → exec (.mergeAgeExpiry core idx) s = .next s)
    ∧ ((s.die die).lineWrites[idx]? = none → exec (.lineWrite die idx) s = .next s)
    ∧ (∀ w, c.wbuf[idx]? = some w → keyUnreachable s w.slot w.key = false → (∀ j, j ≠ idx → c.wbuf[j]? ≠ some w) → ∃ u, exec (.writeBufferSend core idx) s = .next u ∧ (u.core core).wbuf = c.wbuf.eraseIdx idx
        ∧ u.mem = s.mem ∧ ∃ n ∈ (u.die (keyDie w.key)).notices, n.what = .line w)
    ∧ (∀ w, (s.die die).lineWrites[idx]? = some w → (∀ p ∈ s.cores, p.2.comb = []) → s.lineFree w.key = true →
        (∀ j q, j < idx → (s.die die).lineWrites[j]? = some q → keyLine q.key ≠ keyLine w.key) → (∀ e ∈ w.elems, e.nib = none) →
        ∃ u, exec (.lineWrite die idx) s = .next u ∧ (u.die die).lineWrites = (s.die die).lineWrites.eraseIdx idx
          ∧ ∀ a, memGet u.mem a = w.elems.foldl (fun b e => if w.key + e.off ≤ a ∧ a < w.key + e.off + e.data.length
              then e.data.getD (a - (w.key + e.off)) 0 else b) (memGet s.mem a))
    ∧ (∀ e, c.comb[idx]? = some e → c.dead = true ∨ s.lineFree e.key = false ∨ keyUnreachable s e.slot e.key = true →
        exec (.mergeAgeExpiry core idx) s = .next s)
    ∧ (∀ e, c.comb[idx]? = some e → c.dead = false → s.lineFree e.key = true → keyUnreachable s e.slot e.key = false →
        (∀ p ∈ e.vals, (s.die (keyDie (e.key + p.off))).seals = []) → let n := e.sew / 8
        ∃ u, exec (.mergeAgeExpiry core idx) s = .next u ∧ (u.core core).comb = c.comb.eraseIdx idx
          ∧ u.mem = e.vals.foldl (fun m p => memPut m (e.key + p.off)
              (leBytes n (combApply e.op e.sew e.signed (leNat (memBytes m (e.key + p.off) n)) p.val.toNat))) s.mem)
    ∧ (∀ e off v ps, c.comb[idx]? = some e → c.dead = false → s.lineFree e.key = true → keyUnreachable s e.slot e.key = false →
        e.vals = [⟨off, v, ps⟩] → e.sew = 32 ∨ e.sew = 64 → (s.die (keyDie (e.key + off))).seals = [] →
        ∃ u, exec (.mergeAgeExpiry core idx) s = .next u ∧ (u.core core).comb = c.comb.eraseIdx idx
          ∧ ∀ a, memGet u.mem a = if e.key + off ≤ a ∧ a < e.key + off + e.sew / 8
              then BitVec.ofNat 8 (combApply e.op e.sew e.signed (leNat (memBytes s.mem (e.key + off) (e.sew / 8))) v.toNat
                / 256 ^ (a - (e.key + off)))
              else memGet s.mem a)

/-- R288 to R292: a free sequencer takes the program that came first, once its descriptor passes, and goes on with it step by step; at the
end it is free and word 1 of the descriptor is 0, and a program that MACRO started commits it. R295, outside RESCUE: clearing the crossbar
releases every counter, term and target. R209: an invalidation takes the lines of its ASID, or all, from a core's instruction cache. R214: a
core notes the state of a tile that steers and is not being converted. -/
def Claim.clusterEvents : Prop :=
  ∀ (s : State) (cluster core die rec_ tile : Nat) (asid : BitVec 12) (all : Bool),
    let c := s.cluster cluster
    (seqRunning s cluster ≠ none ∨ seqWaiting s cluster = [] → exec (.macroStart cluster) s = .next s)
    ∧ (∀ q rest p v, seqRunning s cluster = none → seqWaiting s cluster = q :: rest → loadMacro s q = .ok (p, v) →
        exec (.macroStart cluster) s = .next (seqBegin v cluster p rest) ∧ ((seqBegin v cluster p rest).cluster cluster).seqNow = some p
        ∧ ((seqBegin v cluster p rest).cluster cluster).seqQueue = rest)
    ∧ (seqRunning s cluster = none → exec (.macroStep cluster) s = .next s)
    ∧ (∀ q u p, seqRunning s cluster = some q → runProgram cluster false 64 s q = (u, p, none) → p.step < p.count →
        exec (.macroStep cluster) s = .next (setSeq u cluster (some p) (u.cluster cluster).seqQueue))
    ∧ (∀ q u p w, seqRunning s cluster = some q → q.byTarget = true → p.byTarget = true → runProgram cluster false 64 s q = (u, p, none) →
        p.count ≤ p.step → seqFinish (setSeq u cluster (some p) (u.cluster cluster).seqQueue) cluster p = .ok w →
        exec (.macroStep cluster) s = .next w ∧ (w.cluster cluster).seqNow = none)
    ∧ (∀ q u p key, seqRunning s cluster = some q → runProgram cluster false 64 s q = (u, p, none) → p.count ≤ p.step →
        let v := setSeq u cluster (some p) (u.cluster cluster).seqQueue
        engineAt v p.agent true 8 1 (p.desc + 8) = .ok key → (∀ k ∈ spanKeys key 8, v.lineFree k = true) →
        ∃ w : State, exec (.macroStep cluster) s = .next (if p.byTarget then w else State.focus (State.advance (w.focus p.slot)) u.cur)
          ∧ (w.cluster cluster).seqNow = none ∧ memWord w.mem key = 0)
    ∧ ((s.pkg (cluster / 128)).rescue = false →
        ∃ k, exec (.evctlClear cluster) s = .next (s.setCluster cluster k) ∧ k.counters = Vector.replicate 16 {}
        ∧ k.terms = Vector.replicate 16 {} ∧ k.targets = Vector.replicate 32 {} ∧ k.full = c.full ∧ k.regions = c.regions)
    ∧ ((s.pkg (core / 512)).rescue = false → ∃ u, exec (.icinv core asid all) s = .next u ∧ u.mem = s.mem ∧ u.th = s.th
        ∧ ∀ l, l ∈ (u.core core).icache ↔ l ∈ (s.core core).icache ∧ all = false ∧ l.asid ≠ asid)
    ∧ (∀ r, (s.die die).relays.entry rec_ = some r → r.steers = true → r.phase tile ≠ .converting →
        (∀ e ∈ (s.core core).tileStates, ¬ (e.die = die ∧ e.record = rec_ ∧ e.tile = tile)) → (s.core core).tileStates.length < 64 →
        exec (.tileStateQuery core die rec_ tile) s = .next (s.setCore core { s.core core with
          tileStates := (s.core core).tileStates ++ [⟨die, rec_, tile, r.phase tile == .converted⟩] }))

/-- R219 and R221: a scrub that finds an uncorrectable word sets ERRUE.PANT and gives its place and the slot whose window holds it, and one that
finds a word with a single error corrects and counts it; a core that is withdrawn is dead, its ERRUE says so, the Strongroom has the event,
and no slot of it holds a group: a run whose policy is to end ends with cause 0x6B and the group's index. That a withdrawn core's scrubber
stops is the model's choice (log 129). -/
def Claim.coreEvents : Prop :=
  ∀ (s : State) (core : Nat),
    let c := s.core core
    let lo := pantryKey core 0 0
    let holds (i w : Nat) : Prop :=
      let t := s.thread (core * 4 + i)
      let off := w * 8 % 2 ^ 14
      t.slot ≠ .free ∧ t.pbase.toNat * 1024 ≤ off ∧ off < (t.pbase.toNat + t.psize.toNat) * 1024
    (c.scrubEn = false ∨ (∀ w ∈ s.poison ++ s.soft.map (·.1), ¬ (lo ≤ w * 8 ∧ w * 8 < lo + 2 ^ 20)) →
      exec (.pantryScrub core) s = .next s)
    ∧ (∀ w, s.poison = [w] → s.soft = [] → lo ≤ w * 8 → w * 8 < lo + 2 ^ 20 → c.scrubEn = true → c.dead = false →
        ∃ u, exec (.pantryScrub core) s = .next u ∧ (u.core core).errue = c.errue ||| 1 ∧ u.mem = s.mem ∧ u.poison = s.poison ∧ u.th = s.th
          ∧ (∀ i, i < 4 → holds i w → (∀ j, j < i → ¬ holds j w) → (u.core core).erraddr = BitVec.ofNat 64 (w * 8 - lo + i * 2 ^ 27))
          ∧ ((∀ i, i < 4 → ¬ holds i w) → (u.core core).erraddr = BitVec.ofNat 64 (w * 8 - lo)))
    ∧ (∀ w b, s.poison = [] → s.soft = [(w, b)] → lo ≤ w * 8 → w * 8 < lo + 2 ^ 20 → c.scrubEn = true → c.dead = false →
        ∃ u, exec (.pantryScrub core) s = .next u ∧ u.soft = [] ∧ (u.core core).errcePant = satAdd c.errcePant 1 ∧ u.mem = s.mem)
    ∧ ((∀ i, i < 4 → (s.thread (core * 4 + i)).slot = .free ∧ (s.thread (core * 4 + i)).gangHigh = false) →
        ∃ u, exec (.coreWithdrawal core) s = .next u ∧ (u.core core).dead = true ∧ (u.core core).errue = c.errue ||| 4 ∧ u.mem = s.mem
          ∧ ((s.pkg (core / 512)).standby = true → ∃ e ∈ (u.pkg (core / 512)).rings.look [] (core / 64 % 8),
              e.w1 = eventWord 0x6B 0 0 (core / 64 % 8) (core % 64) 0 ∧ e.w2 = 0 ∧ e.w3 = cidOf core))
    ∧ (c.dead = true → exec (.pantryScrub core) s = .next s)
    ∧ (∀ i g r, i < 4 → (s.thread (core * 4 + i)).slot = .running → (s.thread (core * 4 + i)).gang = false →
        (s.thread (core * 4 + i)).gangHigh = false → (s.thread (core * 4 + i)).grp = some g → s.run? (core / 512) g.run = some r →
        r.gen = g.gen → r.ending = false → r.fpol = 0 →
        (∀ j, j < 4 → j ≠ i → (s.thread (core * 4 + j)).slot = .free ∧ (s.thread (core * 4 + j)).gangHigh = false) →
        ∃ u r', exec (.coreWithdrawal core) s = .next u ∧ (u.core core).dead = true ∧ (u.thread (core * 4 + i)).slot = .free
          ∧ u.run? (core / 512) g.run = some r' ∧ r'.ending = true ∧ r'.endCause = 0x6B ∧ r'.endIndex = g.index)
    ∧ (∀ i, i < 4 → (s.thread (core * 4 + i)).slot = .running → (s.thread (core * 4 + i)).gang = false →
        (s.thread (core * 4 + i)).gangHigh = false → (s.thread (core * 4 + i)).grp = none →
        (∀ j, j < 4 → j ≠ i → (s.thread (core * 4 + j)).slot = .free ∧ (s.thread (core * 4 + j)).gangHigh = false) →
        ∃ u, exec (.coreWithdrawal core) s = .next u ∧ (u.core core).dead = true ∧ (u.thread (core * 4 + i)).slot = .free)

/-- Write and combining buffers, the sequencer and the crossbar, and what befalls a core. -/
def Obligations.CoreAndClusterEvents : Prop := Claim.bufferEvents ∧ Claim.clusterEvents ∧ Claim.coreEvents

/-! ## Events of a die (13_die_memory.md R306-R325; 14_views_layouts.md R328-R348; 18_fabric.md R415-R427) -/

/-- R306, R325: FSREQ gives the oldest request that nothing has read; an answer ends the request of its page and changes nothing where there
is none; RETRY lets the engines that are held for the page go on, and a refusal, or ten milliseconds without an answer, reaches every
thread and every engine that is held for it. In RESCUE nothing answers (R396). -/
def Claim.serviceEvents : Prop :=
  ∀ (s : State) (die idx : Nat) (v : Word),
    let d := s.die die
    let mine (r : FsReq) : Bool := pageName r.page == pageName v
    let up := (s.pkg (die / 8)).rescue = false
    (¬ up → exec (.fsreqRead die) s = .next s ∧ exec (.fsansRetry die v) s = .next s ∧ exec (.fsansRefuse die v) s = .next s)
    ∧ (d.fsreqs.find? (fun r => !r.read && !r.host) = none → exec (.fsreqRead die) s = .next s)
    ∧ (∀ r, up → d.fsreqs.find? (fun r => !r.read && !r.host) = some r →
        let l := d.fsreqs.map (fun q => if q == r then { q with read := true } else q)
        exec (.fsreqRead die) s = .next (s.setDie die { d with fsreqs := l }))
    ∧ (d.fsreqs.any mine = false → exec (.fsansRetry die v) s = .next s ∧ exec (.fsansRefuse die v) s = .next s)
    ∧ (up → d.fsreqs.any mine = true → ∃ u : State, exec (.fsansRetry die v) s = .next u ∧ u.mem = s.mem ∧ (∀ k, u.thread k = s.thread k)
        ∧ (u.die die).fsreqs = d.fsreqs.filter (fun r => !mine r)
        ∧ (u.die die).holds = d.holds.filter (fun h => h.what != (pageName v).toNat || h.failed))
    ∧ (up → d.fsreqs.any mine = true → ∃ u : State, exec (.fsansRefuse die v) s = .next u ∧ u.mem = s.mem
        ∧ (u.die die).fsreqs = d.fsreqs.filter (fun r => !mine r)
        ∧ (u.die die).holds = d.holds.map (fun h => if h.what == (pageName v).toNat then { h with failed := true } else h)
        ∧ ∀ k img, (s.thread k).wait = some (.service die img) → pageName img = pageName v →
            (u.thread k).wait = some (.service die (img &&& 0x7FFFFFFFFFFFFFFF#64)) ∧ (u.thread k).x = (s.thread k).x)
    ∧ (d.fsreqs[idx]? = none → exec (.faultServiceTimeout die idx) s = .next s)
    ∧ (∀ r, up → d.fsreqs[idx]? = some r → exec (.faultServiceTimeout die idx) s = exec (.fsansRefuse die r.page) s)

/-- R308, R309, R322 in a pod in which no element is on its way, no copy and no program runs, and no word is uncorrectable: an invalidation
starts behind at most eight others and ends; a migration starts where the page's leaf entry and the frame agree, and its end has moved the
bytes and rewritten the frame in the leaf entry, and nothing else; a dropped prefetch is counted. In RESCUE the two writes from outside,
which start them, do nothing (R396). -/
def Claim.pageEvents : Prop :=
  ∀ (s : State) (die : Nat) (evict : Bool), s.settled → (∀ k, (s.thread k).pend = []) → s.poison = [] → (∀ p ∈ s.dies, p.2.copies = []) →
    (∀ p ∈ s.clusters, p.2.seqNow = none) →
    let d := s.die die
    let leaf := leafEntry s die (bits d.migaddr 49 12) d.migaddr
    let up := (s.pkg (die / 8)).rescue = false
    (¬ up → exec (.invalidation die) s = .next s ∧ exec (.migration die) s = .next s)
    ∧ (up → d.invals.length < 9 → let l := d.invals ++ [⟨d.invaddr, bits d.invctl 0 32, bit d.invctl 32⟩]
      exec (.invalidation die) s = .next (s.setDie die { (if d.invals.isEmpty
        then Inval.start ⟨d.invaddr, bits d.invctl 0 32, bit d.invctl 32⟩ d else d) with invals := l }))
    ∧ (∀ (i : Inval) (x : Xlat), let first := offOf i.addr / 65536
        x ∈ (i.start d).xlats ↔ x ∈ d.xlats ∧ ¬ (x.asid = i.addr.extractLsb' 49 12 ∧ (i.all = true ∨ (x.chan = chanOf i.addr
          ∧ x.page * x.size / 65536 < first + i.npage.toNat ∧ first ≤ (x.page * x.size + x.size - 1) / 65536))))
    ∧ (9 ≤ d.invals.length → exec (.invalidation die) s = .next s)
    ∧ (d.invals = [] → exec (.invalidationComplete die) s = .next s)
    ∧ (∀ i, d.invals = [i] → exec (.invalidationComplete die) s = .next (s.setDie die { d with invals := [] }))
    ∧ (∀ i j r, d.invals = i :: j :: r →
        exec (.invalidationComplete die) s = .next (s.setDie die { j.start d with invals := j :: r }))
    ∧ (d.mig ≠ none → exec (.migration die) s = .next s)
    ∧ (∀ p, up → d.mig = none → leaf = some (p, d.migbig) → migFrameOk d.migaddr d.migdst.toNat d.migbig = true →
        exec (.migration die) s = .next (s.setDie die { d with mig := some ⟨d.migaddr, d.migdst.toNat, d.migbig⟩ }))
    ∧ (up → d.mig = none → (leaf = none ∨ (∃ p b, leaf = some (p, b) ∧ b ≠ d.migbig) ∨ migFrameOk d.migaddr d.migdst.toNat d.migbig = false) →
        exec (.migration die) s = .next (s.setDie die { d with migerr := true }))
    ∧ (d.mig = none → exec (.migrationComplete die) s = .next s)
    ∧ (∀ g p b, d.mig = some g → leafEntry s die (bits g.addr 49 12) g.addr = some (p, b) →
        let size := if g.big then 2 ^ 21 else 2 ^ 16
        let old := podKey die ((bits (memWord s.mem p) 8 29).toNat * 256 / size * size)
        let new := podKey die g.dst
        ∃ u : State, exec (.migrationComplete die) s = .next u ∧ (u.die die).mig = none ∧ u.th = s.th
          ∧ (∀ x ∈ (u.die die).xlats, x ∈ d.xlats ∧ (0 < x.size → x.covers (g.addr.extractLsb' 49 12) g.addr = false))
          ∧ memWord u.mem p = (memWord s.mem p &&& ~~~(0x1FFFFFFF00#64)) ||| BitVec.ofNat 64 g.dst
          ∧ ∀ a, (a < p ∨ p + 8 ≤ a) →
              memGet u.mem a = if new ≤ a ∧ a < new + size then memGet s.mem (old + (a - new)) else memGet s.mem a)
    ∧ exec (.prefetchFill die evict) s
        = .next (if d.pfen && evict then s.setDie die { d with pfdrop := satAdd d.pfdrop 1 } else s)

/-- R328, R333: a capture starts with the block that is due, takes the master's version as its tag and marks the master as captured; it then
writes what it has computed of the master, and its end leaves the block with that tag, fresh unless a write came during it. Without a block
that is due, or one that is being captured, and while a VIEWDROP waits, nothing happens. That one VIEW_CAPTURE_END writes all of the block and
the next one ends the capture is the model's choice (log 88), and so is the block that a capture is of where several are due (log 46). -/
def Claim.captureEvents : Prop :=
  ∀ (s : State) (die view : Nat),
    let d := s.die die
    (d.views.entry view = none → exec (.viewCapture die view) s = .next s ∧ exec (.viewCaptureEnd die view) s = .next s)
    ∧ ∀ v, d.views.entry view = some v →
      (v.due = none → exec (.viewCapture die view) s = .next s)
      ∧ (dropWaits s die view = true → exec (.viewCapture die view) s = .next s)
      ∧ (∀ b, v.due = some b → dropWaits s die view = false → (s.pkg (die / 8)).split.getLsbD 2 = false → ∃ (u : State) (w : View), exec (.viewCapture die view) s = .next u
          ∧ u.mem = s.mem ∧ (u.die die).views.entry view = some w ∧ (w.block b).capturing = true ∧ (w.block b).startTag = masterMv d v
          ∧ (w.block b).again = false ∧ (w.block b).startFull = (v.block b).full ∧ (w.block b).full = false
          ∧ (w.block b).wanted = false ∧ (w.block b).host = none ∧ (∀ c, c ≠ b → w.block c = v.block c)
          ∧ ∀ m ∈ (u.die die).masters, m.asid = v.asid → m.base = hBase v.master → m.captured = true)
      ∧ (v.blocks.findIdx? (fun k => k.capturing && k.host.isNone) = none → exec (.viewCaptureEnd die view) s = .next s)
      ∧ (∀ b bad sc, v.blocks.findIdx? (fun k => k.capturing && k.host.isNone) = some b → (v.block b).written = some (bad, sc) →
          ∃ (u : State) (x : View), exec (.viewCaptureEnd die view) s = .next u ∧ u.mem = s.mem ∧ (u.die die).views.entry view = some x
            ∧ (x.block b).capturing = false ∧ (x.block b).stale = (v.block b).again ∧ (x.block b).tag = (v.block b).startTag
            ∧ (x.block b).poisoned = bad ∧ (x.block b).captures = (v.block b).captures + 1 ∧ (x.block b).scale = sc
            ∧ (x.block b).written = none ∧ ∀ c, c ≠ b → x.block c = v.block c)
      ∧ ∀ b es s1 ws bad sc bad' s2 w, v.blocks.findIdx? (fun k => k.capturing && k.host.isNone) = some b → (v.block b).written = none →
          let ag := engineAgent die v.asid v.priv [2, view, b]
          readMaster die v ag (v.coords b) s = .ok (es, s1) →
          (v.fmt = 6 → captureNq4 v b es = (ws, bad, sc)) → (v.fmt ≠ 6 → capturePlain v es = (ws, bad) ∧ sc = (v.block b).scale) →
          writeCaptured ag ws s1 = .ok (bad', s2) → (s2.die die).views.entry view = some w → b < w.blocks.length →
          ∃ (u : State) (x : View), exec (.viewCaptureEnd die view) s = .next u ∧ u.mem = s2.mem ∧ (u.die die).views.entry view = some x
            ∧ x.block b = { w.block b with written := some (bad || bad', sc) } ∧ ∀ c, c ≠ b → x.block c = w.block c

/-- R343, R347, R348 in a pod in which no element is on its way: the engine starts on the next tile of a live record, four at once at most,
and no core keeps an entry for it; a converted tile is converted for every later access, and a failed one halts the record; a tile that is
abandoned goes behind the others, and what the host was asked for it ends; RLCTL.RESUME starts a halted record again with the tiles that are
not converted, but in RESCUE (R396). -/
def Claim.conversionEvents : Prop :=
  ∀ (s : State) (die rec_ tile : Nat), s.settled → (∀ k, (s.thread k).pend = []) →
    let entry (u : State) : Option Relay := (u.die die).relays.entry rec_
    (entry s = none → exec (.tileConversionStart die rec_) s = .next s ∧ exec (.tileConverted die rec_ tile) s = .next s
      ∧ exec (.conversionAbandon die rec_ tile) s = .next s ∧ exec (.rlctlResume die rec_) s = .next s)
    ∧ ∀ r, entry s = some r →
      (r.order = [] ∨ r.state ≠ 1 ∨ 4 ≤ (r.tiles.filter (· == .converting)).length → exec (.tileConversionStart die rec_) s = .next s)
      ∧ (∀ t rest, r.order = t :: rest → r.state = 1 → (r.tiles.filter (· == .converting)).length < 4 →
          (s.pkg (die / 8)).split.getLsbD 3 = false → ∃ u : State, exec (.tileConversionStart die rec_) s = .next u ∧ u.mem = s.mem
            ∧ entry u = some { r.setPhase t .converting with order := rest }
            ∧ ∀ p ∈ u.cores, ∀ e ∈ p.2.tileStates, ¬ (e.die = die ∧ e.record = rec_ ∧ e.tile = t))
      ∧ (r.phase tile ≠ .converting → exec (.tileConverted die rec_ tile) s = .next s ∧ exec (.conversionAbandon die rec_ tile) s = .next s)
      ∧ (r.phase tile = .converting → r.steers = true → (∀ h ∈ r.host, h.1 ≠ tile) →
          let ag := engineAgent die r.asid r.priv [1, rec_, tile]
          let cs := tileCoords (hLayout r.hand) (hShape r.hand) tile
          (∀ w, carryAll ag r cs s = (w, none) → ∃ u : State, exec (.tileConverted die rec_ tile) s = .next u ∧ u.mem = w.mem
            ∧ (entry u = none ∨ ∃ r', entry u = some r' ∧ r'.phase tile = .converted))
          ∧ (∀ w c a, carryAll ag r cs s = (w, some (.trap c a)) → ∃ (u : State) (r' : Relay), exec (.tileConverted die rec_ tile) s = .next u
            ∧ u.mem = w.mem ∧ entry u = some r' ∧ r'.phase tile = .waiting ∧ r'.state = 3 ∧ r'.cause = c ∧ r'.fail = a))
      ∧ (r.phase tile = .converting → let o := r.order ++ [tile]
          let h := r.host.filter (fun h => h.1 != tile)
          let w := { r.setPhase tile .waiting with order := o, aband := min 255 (r.aband + 1), host := h }
          exec (.conversionAbandon die rec_ tile) s = .next ((s.setRelay die rec_ w).unpost (die / 8)
            (fun a => relayRequest a.func a.w1 die rec_ tile) (fun p => relayRequest p.func p.w1 die rec_ tile)))
      ∧ (r.state ≠ 3 ∨ (s.pkg (die / 8)).rescue = true → exec (.rlctlResume die rec_) s = .next s)
      ∧ (r.state = 3 → (s.pkg (die / 8)).rescue = false → ∃ (u : State) (o : List Nat), exec (.rlctlResume die rec_) s = .next u ∧ entry u = some { r with state := 1, order := o }
          ∧ u.mem = s.mem ∧ ∀ t, t ∈ o ↔ t < r.tiles.length ∧ r.phase t = .waiting)

/-- R415: a Dormer whose home stays unreachable is dead, and its lines are dropped, and a registration whose reader stays unreachable is
released. -/
def Claim.lostEvents : Prop :=
  ∀ (s : State) (die idx : Nat),
    let d := s.die die
    let l := d.dormers.map (fun q => if q.didx == idx then { q with dead := true } else q)
    (d.dormers.find? (fun e => e.didx == idx) = none → exec (.dormerDead die idx) s = .next s)
    ∧ (∀ e, d.dormers.find? (fun e => e.didx == idx) = some e →
        exec (.dormerDead die idx) s = .next (if s.reachable die (nodeOf e.base) then s else (dropDormerLines s die e).setDie die { d with dormers := l }))
    ∧ (d.registry[idx]? = none → exec (.registrationRelease die idx) s = .next s)
    ∧ (∀ r, d.registry[idx]? = some r → exec (.registrationRelease die idx) s = .next (
        if s.reachesDie die r.reader then s else s.setDie die { d with registry := d.registry.eraseIdx idx }))

/-- R421, R422: the first contribution of a key opens a slot that is free, and a full combiner refuses it; a contributor's second one is a
duplicate, and one of a slot that has ended is late; an open slot ends PARTIAL at its TIMEOUT, or asks the host first, whose silence or
PARTIAL ends it and whose EXTEND lets it go on; a PARTIAL slot is freed. The last contribution ends the slot COMPLETE: its results are written
in ascending order at its DEST, each of the element's width, and the slot is free. The other contributions here name no destination, bitmap or
status; in RESCUE CBANS does nothing (R396). -/
def Claim.combinerEvents : Prop :=
  ∀ (s : State) (die idx : Nat) (tag : BitVec 16),
    let d := s.die die
    let slots (u : State) : SMap Combiner := (u.die die).combiners
    let silent (c : Combiner) : Prop := c.dups = [] ∧ ∀ p ∈ c.arrived, p.dest = 0 ∧ p.miss = 0 ∧ p.status = 0
    let endsPartial (i : Instr) (k : Nat) (c : Combiner) : Prop := ∃ (u : State) (c' : Combiner), exec i s = .next u ∧ u.mem = s.mem
      ∧ (slots u).entry k = some c' ∧ c'.state = 3 ∧ c'.arrived = c.arrived ∧ (u.die die).cbPartial = satAdd d.cbPartial 1
    (d.contribs[idx]? = none → exec (.contribution die idx) s = .next s)
    ∧ (∀ c, d.contribs[idx]? = some c → combinerOf d c.asid (cwKey c.w0) = none → freeBelow (d.combiners.map (·.1)) 64 ≠ [] →
        cwNcont c.w1 ≠ 1 → ∃ (u : State) (k : Nat) (b : Combiner), exec (.contribution die idx) s = .next u ∧ u.mem = s.mem ∧ k < 64
          ∧ d.combiners.entry k = none ∧ (slots u).entry k = some b ∧ b.arrived = [c] ∧ b.state = 1 ∧ b.asid = c.asid ∧ b.w0 = c.w0
          ∧ b.w1 = c.w1 ∧ (u.die die).contribs = d.contribs.eraseIdx idx)
    ∧ (∀ c, d.contribs[idx]? = some c → combinerOf d c.asid (cwKey c.w0) = none → freeBelow (d.combiners.map (·.1)) 64 = [] → c.status = 0 →
        ∃ u : State, exec (.contribution die idx) s = .next u ∧ u.mem = s.mem ∧ slots u = slots s
          ∧ (u.die die).cbRefused = satAdd d.cbRefused 1)
    ∧ (∀ c k b, d.contribs[idx]? = some c → combinerOf d c.asid (cwKey c.w0) = some (k, b) → b.w0 = c.w0 → cwCommon b.w1 = cwCommon c.w1 →
        c.status = 0 →
        (b.state ≠ 1 → ∃ u : State, exec (.contribution die idx) s = .next u ∧ u.mem = s.mem
          ∧ (slots u).entry k = some { b with disc := satAdd b.disc 1 })
        ∧ (b.state = 1 → (∃ q ∈ b.arrived, cwCidx q.w1 = cwCidx c.w1) → ∃ u : State, exec (.contribution die idx) s = .next u
          ∧ u.mem = s.mem ∧ (slots u).entry k = some { b with disc := satAdd b.disc 1, dups := b.dups ++ [{ c with dup := true }] })
        ∧ (b.state = 1 → (∀ q ∈ b.arrived, cwCidx q.w1 ≠ cwCidx c.w1) → b.arrived.length + 1 ≠ cwNcont b.w1 →
          ∃ u : State, exec (.contribution die idx) s = .next u ∧ u.mem = s.mem
            ∧ (slots u).entry k = some { b with arrived := b.arrived ++ [c] })
        ∧ (b.state = 1 → (∀ q ∈ b.arrived, cwCidx q.w1 ≠ cwCidx c.w1) → b.arrived.length + 1 = cwNcont b.w1 → silent b → c.miss = 0 →
          let b' := { b with arrived := b.arrived ++ [c] }
          let w := sewBits (cwSew b.w0) / 8
          let t := (s.setDie die { d with contribs := d.contribs.eraseIdx idx }).setCombiner die k b'
          ∀ x, (if c.dest = 0 then .ok t else
              foldStop (fun s e => collWrite s die c (c.dest + BitVec.ofNat 64 (e.2 * w)) w e.1) (b'.result.zipIdx) t) = .ok x →
            ∃ u : State, exec (.contribution die idx) s = .next u ∧ u.mem = x.mem ∧ (slots u).entry k = none))
    ∧ (d.combiners.entry idx = none → exec (.combinerTimeout die idx) s = .next s ∧ exec (.colltoAnswerTimeout die idx) s = .next s
        ∧ exec (.combinerSlotFree die idx) s = .next s)
    ∧ ∀ c, d.combiners.entry idx = some c →
      (c.state ≠ 1 ∨ c.asked = true → exec (.combinerTimeout die idx) s = .next s)
      ∧ (c.asked = false → exec (.colltoAnswerTimeout die idx) s = .next s)
      ∧ (c.state = 1 → c.asked = false → (s.pkg (die / 8)).split.getLsbD 4 = true → ∃ u : State, exec (.combinerTimeout die idx) s = .next u
          ∧ u.mem = s.mem ∧ (slots u).entry idx = some { c with asked := true })
      ∧ (c.state = 1 → c.asked = false → (s.pkg (die / 8)).split.getLsbD 4 = false → silent c → endsPartial (.combinerTimeout die idx) idx c)
      ∧ (c.asked = true → silent c → endsPartial (.colltoAnswerTimeout die idx) idx c)
      ∧ (c.state = 3 → exec (.combinerSlotFree die idx) s = .next (s.setDie die { d with combiners := d.combiners.drop idx }))
      ∧ (c.state ≠ 3 → exec (.combinerSlotFree die idx) s = .next s)
      ∧ (let i := BitVec.ofNat 6 idx
        let up := (s.pkg (die / 8)).rescue = false
        let mine (a : Asked) : Bool := a.func == 4 && a.tag == tag && (bits a.w1 0 3).toNat == die % 8 && (bits a.w1 8 6).toNat == idx
        let waits := c.asked && (s.pkg (die / 8)).asked.any mine
        idx < 64 → (waits = false ∨ ¬ up → exec (.cbansExtend die i tag) s = .next s ∧ exec (.cbansPartial die i tag) s = .next s)
          ∧ (waits = true → up → (∃ u : State, exec (.cbansExtend die i tag) s = .next u ∧ u.mem = s.mem
              ∧ (slots u).entry idx = some { c with asked := false }) ∧ (silent c → endsPartial (.cbansPartial die i tag) idx c)))

/-- R425 to R427: a row at its inbox's home fans out to its used slots, in ascending order, once the rows that arrived at its inbox before it
have, and has left the list; a slot whose inbox descriptor cannot be read is dropped with reason 1, and one whose descriptor fails its checks,
or whose expert is beyond NEXP, with reason 1 or 2 and DROPS raised; else the entry of the expert's ring at WR gets the header (the row's length,
the expert and the slot) and the row's bytes, and then WR is one more. The element of the slot completes, and its die is told in a flit
(log 118). -/
def Claim.fanEvents : Prop :=
  ∀ (s : State) (die idx : Nat),
    let d := s.die die
    let t := s.setDie die { d with rows := d.rows.eraseIdx idx }
    let told (u : State) (r : TokenRow) : State := (message u die (slotDie r.slot) 0x12 (leBytes 8 r.inbox.toNat)).complete r.slot r.op 1
    let behind (r : TokenRow) : Bool := (d.rows.take idx).any (fun q => q.asid == r.asid && q.inbox == r.inbox)
    (d.rows[idx]? = none → exec (.tokenRowFanout die idx) s = .next s)
    ∧ (∀ r, d.rows[idx]? = some r → behind r = true → exec (.tokenRowFanout die idx) s = .next s)
    ∧ (∀ r, d.rows[idx]? = some r → behind r = false → r.ids = [] → exec (.tokenRowFanout die idx) s = .next t)
    ∧ (∀ r j id v, d.rows[idx]? = some r → behind r = false → r.ids = [(j, id)] → readInbox t (r.agent die) r.inbox = .ok (none, v) →
        exec (.tokenRowFanout die idx) s = .next
          (told (v.report r.slot r.grp ⟨0x62, r.sn, BitVec.ofNat 64 (id.toNat + 2 ^ 16), r.pc, BitVec.ofNat 32 j⟩) r))
    ∧ (∀ r j id b v w, d.rows[idx]? = some r → behind r = false → r.ids = [(j, id)] → readInbox t (r.agent die) r.inbox = .ok (some b, v) →
        (b.ok = false ∨ b.nexp ≤ id.toNat) → inboxWrite v (r.agent die) (r.inbox + 16) (leBytes 8 (b.drops + 1).toNat) = .ok (some w) →
        exec (.tokenRowFanout die idx) s = .next
          (told (w.report r.slot r.grp ⟨0x62, r.sn, BitVec.ofNat 64 (id.toNat + (if b.ok then 2 else 1) * 2 ^ 16), r.pc, BitVec.ofNat 32 j⟩) r))
    ∧ (∀ r j id b v wr rd v2 key y k2 z, d.rows[idx]? = some r → behind r = false → r.ids = [(j, id)] →
        readInbox t (r.agent die) r.inbox = .ok (some b, v) → b.ok = true → id.toNat < b.nexp → r.row.length + 8 ≤ b.rowb →
        let wa := r.inbox + BitVec.ofNat 64 (64 + 16 * id.toNat)
        inboxWords (r.agent die) 2 v wa = .ok ([some wr, some rd], v2) → (wr - rd).toNat < b.cap →
        let at_ := b.rbase + BitVec.ofNat 64 ((id.toNat * b.cap + wr.toNat % b.cap) * b.rowb)
        let bytes := leBytes 4 r.row.length ++ leBytes 2 id.toNat ++ leBytes 2 j ++ r.row
        r.row.length < 2 ^ 32 → j < 2 ^ 16 → at_.toNat % 128 + bytes.length ≤ 128 →
        engineReach v2 (r.agent die) bytes.length 1 at_ (some bytes) = .ok (key, y) →
        engineReach (storeBytes y r.asid at_ key bytes) (r.agent die) 8 1 wa (some (leBytes 8 (wr + 1).toNat)) = .ok (k2, z) →
        ∃ u : State, exec (.tokenRowFanout die idx) s = .next u ∧ u.mem = memPut z.mem k2 (leBytes 8 (wr + 1).toNat)
          ∧ memBytes (storeBytes y r.asid at_ key bytes).mem key bytes.length = bytes)
    ∧ ∀ r u, d.rows[idx]? = some r → behind r = false → fanOut t die r = .ok u → exec (.tokenRowFanout die idx) s = .next u

/-- The memory services, views and relayouts of a die, and what a lost node leaves. -/
def Obligations.DieEvents : Prop :=
  Claim.serviceEvents ∧ Claim.pageEvents ∧ Claim.captureEvents ∧ Claim.conversionEvents ∧ Claim.lostEvents

/-- The combiner of a die and the fan-out of token rows. -/
def Obligations.CombinerEvents : Prop := Claim.combinerEvents ∧ Claim.fanEvents

/-! ## Events of the fabric and the Ethernet engine (18_fabric.md R401-R410, R428, R429) -/

/-- R404, R405: a commit makes the shadow tables active in the eight dies and counts a version, or sets ERR where an entry fails its check; a
change of the planes that would leave a reachable node with fewer than two of them is refused with ERR; a drained plane with no flit of its
own outstanding is idle. In RESCUE no write from outside is answered (R396). -/
def Claim.routeEvents : Prop :=
  ∀ (s : State) (node port : Nat) (v : BitVec 4) (q st : BitVec 2),
    let p := s.pkg node
    let now (k : Nat) := (s.die k).active
    let err := s.setPkg node { p with rterr := true }
    let sound := (nodeDies node).all (fun k => (s.die k).shadow.all (fun e => routeOk (k % 8) (e.1 % 4) e.2))
    let up := p.rescue = false
    (¬ up → exec (.routeCommit node) s = .next s ∧ exec (.planeDrain node v) s = .next s ∧ exec (.planeEnable node v) s = .next s)
    ∧ (up → sound = true → ∃ u : State, exec (.routeCommit node) s = .next u ∧ (∀ k ∈ nodeDies node, (u.die k).active = (s.die k).shadow)
      ∧ (u.pkg node).rtver = p.rtver + 1 ∧ u.mem = s.mem)
    ∧ (up → sound = false → exec (.routeCommit node) s = .next err)
    ∧ (up → exec (.planeDrain node v) s = .next (if v &&& ~~~p.planeDrain != 0 && planesRefused s node p.planeEn v now then err
        else s.setPkg node { p with planeDrain := v, planeIdle := p.planeIdle &&& v }))
    ∧ (up → exec (.planeEnable node v) s = .next (if p.planeEn &&& ~~~v != 0 && planesRefused s node v p.planeDrain now then err
        else s.setPkg node { p with planeEn := v }))
    ∧ (let busy := (nodeDies node).any (fun k => (s.die k).links.any (fun l => l.2.sent.any (fun f => f.port.isSome && f.plane.toNat == q.toNat)))
      (p.planeDrain.getLsbD q.toNat = false ∨ p.planeIdle.getLsbD q.toNat = true ∨ busy = true → exec (.planeIdle node q) s = .next s)
      ∧ (p.planeDrain.getLsbD q.toNat = true → p.planeIdle.getLsbD q.toNat = false → busy = false → ∃ u : State,
          exec (.planeIdle node q) s = .next u ∧ (u.pkg node).planeIdle = p.planeIdle ||| (1 <<< q.toNat) ∧ u.mem = s.mem))
    ∧ (let old := p.ports.look {} port
      (old.state = st → exec (.portStateChange node port st) s = .next s)
      ∧ (old.state ≠ st → ∃ u : State, exec (.portStateChange node port st) s = .next u ∧ u.mem = s.mem
          ∧ ((u.pkg node).ports.look {} port).state = st
          ∧ (st = 0 → p.split.getLsbD 1 = false → (u.pkg node).rterr = p.rterr → p.rterr = false →
              ∀ e ∈ entriesOf s node port, bit ((u.die e.1).shadow.look 0 e.2) 7 = false)))

/-- R406 to R408, R410: a flit with a bad checksum or kind is counted at its port and discarded, and whether UNCOR counts it too is free (log
5); one for another package is misrouted; a bulk flit in its order is delivered, one that was delivered before changes nothing, and a
control flit in the window is a duplicate; a gap in the bulk flits, or else in the control flits, is counted where it is asked for, by a
control flit and its copy that name the first missing number, behind which the class is the model's choice (log 118), and a replay sends
what the buffer of that class holds, routed afresh on an open plane, and nothing while none is open; a notice takes its effect once it has
arrived and the flits before it are delivered, and stays held till then. -/
def Claim.flitEvents : Prop :=
  ∀ (s : State) (die idx : Nat) (f : Flit) (seq : BitVec 32) (dst : Nat),
    let node := die / 8
    let p := s.pkg node
    let crcUp := match f.port with
      | none => s
      | some k => let q := p.ports.look {} k; s.setPort node k { q with crcerr := satAdd q.crcerr 1 }
    let l := s.link die (linkKey f.src f.ctl)
    let d := s.die die
    (f.port = none → exec (.flitReceive die f false) s = .next s)
    ∧ (∀ k, f.port = some k → let q := p.ports.look {} k
        ∃ (u : State) (n : BitVec 16), exec (.flitReceive die f false) s = .next u ∧ u.mem = s.mem ∧ (n = q.uncor ∨ n = satAdd q.uncor 1)
          ∧ (u.pkg node).ports.look {} k = { q with crcerr := satAdd q.crcerr 1, uncor := n })
    ∧ (f.dphys ≠ p.phys →
        exec (.flitReceive die f true) s = .next (s.setPkg node { p with misroute := satAdd p.misroute 1 }))
    ∧ (f.dphys = p.phys → flitKindOk f.kind = false → exec (.flitReceive die f true) s = .next crcUp)
    ∧ (f.dphys = p.phys → f.kind = 0 → exec (.flitReceive die f true) s = .next s)
    ∧ (f.dphys = p.phys → flitKindOk f.kind = true → f.kind ≠ 0 →
        (f.ctl = false → f.seq = l.nextRx → l.early = [] → ∃ u : State, exec (.flitReceive die f true) s = .next u ∧ u.mem = s.mem
          ∧ (u.link die (linkKey f.src false)).nextRx = l.nextRx + 1)
        ∧ (f.ctl = false → seqBefore f.seq l.nextRx = true → ∃ u : State, exec (.flitReceive die f true) s = .next u ∧ u.mem = s.mem
          ∧ (u.link die (linkKey f.src false)).nextRx = l.nextRx)
        ∧ (f.ctl = true → f.seq ∈ l.window →
          exec (.flitReceive die f true) s = .next (s.setPkg node { p with dupdisc := satAdd p.dupdisc 1 })))
    ∧ ((∀ ctl, (s.link die (linkKey dst ctl)).early = []) → exec (.replayRequest die dst) s = .next s)
    ∧ (∀ ctl e r, (s.link die (linkKey dst ctl)).early = e :: r → (ctl = true → (s.link die (linkKey dst false)).early = []) →
        let c := s.link die (linkKey dst true)
        ∃ (u : State) (x y : Flit), exec (.replayRequest die dst) s = .next u ∧ u.mem = s.mem
          ∧ (∀ k, e.port = some k → let o := p.ports.look {} k
              (u.pkg node).ports.look {} k = { o with replay := satAdd o.replay 1 })
          ∧ (u.link die (linkKey dst true)).sent = c.sent ++ [x, y] ∧ (u.link die (linkKey dst true)).nextTx = c.nextTx + 1
          ∧ x.kind = 0x15 ∧ x.seq = c.nextTx ∧ x.ctl = true ∧ x.copy = false
          ∧ x.payload = leBytes 4 (s.link die (linkKey dst ctl)).nextRx.toNat ++ [BitVec.ofNat 8 ctl.toNat]
          ∧ y.kind = 0x15 ∧ y.seq = c.nextTx ∧ y.ctl = true ∧ y.copy = true ∧ y.payload = x.payload)
    ∧ (let gap (c : Bool) : Bool := let l := s.link dst (linkKey die c); l.nextRx == seq && !l.early.isEmpty
      let ctl := gap true && !gap false
      let l := s.link die (linkKey dst ctl)
      (l.sent.filter (fun f => !seqBefore f.seq seq) = [] ∨ openPlanes s die dst = [] → exec (.replay die dst seq) s = .next s)
      ∧ ∀ e, l.sent.filter (fun f => !seqBefore f.seq seq) = [e] → openPlanes s die dst ≠ [] → ∃ g : Flit, exec (.replay die dst seq) s
            = .next (receiveFlit (if ctl then s else s.setLink die (linkKey dst ctl) { l with plane := g.plane }) dst g true)
          ∧ g.plane.toNat ∈ openPlanes s die dst ∧ g.seq = e.seq ∧ g.kind = e.kind ∧ g.payload = e.payload ∧ g.src = e.src ∧ g.ctl = e.ctl ∧ g.ver = p.rtver
          ∧ (node = dst / 8 → g.port = none))
    ∧ (d.notices[idx]? = none → exec (.notice die idx) s = .next s)
    ∧ ∀ n, d.notices[idx]? = some n →
        let there := seqBefore n.ctl (s.link die (linkKey n.src true)).nextRx && seqBefore n.last (s.link die (linkKey n.src false)).nextRx
        let rest := d.notices.eraseIdx idx
        (there = false → exec (.notice die idx) s = .next s)
        ∧ (there = true → (∀ j f c k, n.what = .chunk j f c → j.slot = some k →
            exec (.notice die idx) s = .next ((s.setDie die { d with notices := rest }).complete k j.op c))
          ∧ (∀ k op i q p v bad, n.what = .data k op i → (s.thread k).pend.findIdx? (fun p => p.got.isSome && p.op == op && p.idx == i) = some q →
              (s.thread k).pend[q]? = some p → p.got = some (v, bad) → let w := s.setDie die { d with notices := rest }
              exec (.notice die idx) s = .next (arrivePend (w.setThread k { w.thread k with pend := (w.thread k).pend.eraseIdx q }) k p v bad))
          ∧ (∀ w, n.what = .line w → ∃ u : State, exec (.notice die idx) s = .next u ∧ u.mem = s.mem ∧ (u.die die).notices = rest
              ∧ (u.die die).lineWrites = d.lineWrites ++ [w])
          ∧ (∀ c, n.what = .contribution c → ∃ u : State, exec (.notice die idx) s = .next u ∧ u.mem = s.mem ∧ (u.die die).notices = rest
              ∧ (u.die die).contribs = d.contribs ++ [c])
          ∧ (∀ r, n.what = .row r → ∃ u : State, exec (.notice die idx) s = .next u ∧ u.mem = s.mem ∧ (u.die die).notices = rest
              ∧ (u.die die).rows = d.rows ++ [r]))

/-- R428, R429 in a pod without a buffered contribution, at a package whose ports are not disabled: an entry of a send queue that is well
formed, not fenced and whose local bytes can be read is taken; its completion removes it and writes its completion word; an inbound access
that the memory-region table refuses changes nothing, a read leaves memory alone, and a write within a line, behind no held one of its queue
pair, writes its bytes. A message without bytes to write, behind no held write, is delivered to its queue pair; that the event brings it behind
the bytes of its write is the model's choice (log 126). -/
def Claim.ethernetEvents : Prop :=
  ∀ (s : State) (node qp len : Nat) (rkey : BitVec 32) (addr : Word) (wr ok : Bool) (code : BitVec 8) (n key : Nat)
      (data : List (BitVec 8)), (∀ c ∈ s.cores, c.2.comb = []) → (s.pkg node).ethernetOff = false →
    let q := (s.pkg node).qpair qp
    let ag := q.agent node qp
    (q.en = false ∨ tagOf q.base ≠ 0 → exec (.sendQueueEntry node qp) s = .next s)
    ∧ (q.en = true → tagOf q.base = 0 →
        (∀ r, entryAt s ag q.base (2 ^ q.logns.toNat) = .ok (r, none) → exec (.sendQueueEntry node qp) s = .next r)
        ∧ ∀ r a rd ws, entryAt s ag q.base (2 ^ q.logns.toNat) = .ok (r, some (a, rd, ws)) →
          (bit (ws.getD 0 0) 8 = true → q.open_ ≠ [] → exec (.sendQueueEntry node qp) s = .next r)
          ∧ (bit (ws.getD 0 0) 8 = false ∨ q.open_ = [] → workReserved ws = false →
              let m := (bits (ws.getD 2 0) 0 32).toNat
              m ≤ 2 ^ 31 → tagOf (ws.getD 1 0) = 0 →
              (bits (ws.getD 0 0) 0 8 = 3 ∨ ∃ ps, enginePieces r ag false (spanPieces (ws.getD 1 0) m) = .ok ps) →
              ∃ u : State, exec (.sendQueueEntry node qp) s = .next u
                ∧ ((u.pkg node).qpair qp).open_ = q.open_ ++ [⟨bits (ws.getD 0 0) 0 8, ws.getD 1 0, BitVec.ofNat 64 m, ws.getD 4 0⟩]))
    ∧ (q.open_ = [] → exec (.workEntryCompletion node qp ok code n) s = .next s)
    ∧ (∀ e rest, q.open_ = e :: rest → (e.opc ≠ 3 ∨ ok = false) → exec (.workEntryCompletion node qp ok code n) s
        = .next (writeWork (s.setQPair node qp { q with open_ := rest }) q node qp e.caddr (workWord ok code.toNat (min n e.len.toNat))))
    ∧ (∀ e rest, q.open_ = e :: rest → e.caddr = 0 → (e.opc ≠ 3 ∨ ok = false) →
        exec (.workEntryCompletion node qp ok code n) s = .next (s.setQPair node qp { q with open_ := rest }))
    ∧ (wr = true → len = 0 → data ≠ [] → (∀ w ∈ (s.pkg node).writes, w.qp ≠ some qp) →
        exec (.rdmaInbound node qp rkey addr len wr data) s = .next (s.setQPair node qp { q with delivered := q.delivered ++ [data] }))
    ∧ (len ≠ 0 ∨ wr = false ∨ data = [] → (s.pkg node).memregs.entry (bits rkey 0 12).toNat = none → exec (.rdmaInbound node qp rkey addr len wr data) s = .next s)
    ∧ ∀ m, (s.pkg node).memregs.entry (bits rkey 0 12).toNat = some m →
        (len ≠ 0 ∨ wr = false ∨ data = [] → regionAdmits m q rkey addr len wr = false → exec (.rdmaInbound node qp rkey addr len wr data) s = .next s)
        ∧ (regionAdmits m q rkey addr len wr = true → wr = false → (∃ ps, enginePieces s ag false (spanPieces addr len) = .ok ps) →
            ∃ u : State, exec (.rdmaInbound node qp rkey addr len wr data) s = .next u ∧ u.mem = s.mem)
        ∧ (regionAdmits m q rkey addr len wr = true → wr = true → 0 < len → data.length = len → addr.toNat % 128 + len ≤ 128 →
            (∀ w ∈ (s.pkg node).writes, w.qp ≠ some qp) → enginePlace s ag true len addr = .ok key → s.lineFree key = true → ∃ u : State, exec (.rdmaInbound node qp rkey addr len wr data) s = .next u
              ∧ u.mem = memPut s.mem key data)

/-- Routes, flits and the Ethernet engine. -/
def Obligations.FabricAndEthernetEvents : Prop := Claim.routeEvents ∧ Claim.flitEvents ∧ Claim.ethernetEvents

/-! ## Events of a package (16_package_scheduling.md R371-R381; 17_package_system.md R385-R400) -/

/-- R372, R378: a group that is in no slot and faults ends its run, is issued again, or is held, by the run's policy; a run completes once
none of its groups is in a slot, saved or incomplete: its entry is free, and its completion word is written, where it has one and its checks
pass, once no engine owns its lines. No group faults with a cause that R249 reserves, with 0 or with 0x6A. -/
def Claim.runEvents : Prop :=
  ∀ (s : State) (node r stage index : Nat) (cause : BitVec 7) (v : Word),
    (s.run? node r = none → exec (.groupFault node cause v r stage index) s = .next s ∧ exec (.runComplete node r) s = .next s)
    ∧ ∀ u, s.run? node r = some u →
      let g : GroupRef := ⟨r, u.gen, stage, index⟩
      let st := u.stage stage
      (cause = 0 ∨ cause = 0x6A ∨ causeAssigned cause.toNat = false ∨ (∃ k ∈ s.slots, slotNode k = node ∧ (s.thread k).slot ≠ .free ∧ (s.thread k).grp = some g) →
        exec (.groupFault node cause v r stage index) s = .next s)
      ∧ (cause ≠ 0 → cause ≠ 0x6A → causeAssigned cause.toNat = true → (∀ k ∈ s.slots, slotNode k = node → (s.thread k).slot = .free ∨ (s.thread k).grp ≠ some g) →
          stage < u.stages.length → index < st.next → index ∉ st.back → st.isComplete index = false → u.ending = false →
          ∃ (w : State) (u' : Run), exec (.groupFault node cause v r stage index) s = .next w ∧ w.run? node r = some u'
            ∧ (u.fpol = 0 ∨ u.fpol = 3 ∨ (u.fpol = 1 ∧ u.retry = 0) ∨ (u.fpol = 2 ∧ cause = 0x7F) →
                u'.ending = true ∧ u'.endCause = cause ∧ u'.endIndex = index ∧ w.mem = s.mem)
            ∧ (u.fpol = 1 → u.retry ≠ 0 → u'.retry = u.retry - 1 ∧ index ∈ (u'.stage stage).back ∧ w.mem = s.mem)
            ∧ (u.fpol = 2 → cause ≠ 0x7F → u'.holding = true))
      ∧ (runOver s node r u = false → exec (.runComplete node r) s = .next s)
      ∧ (runOver s node r u = true →
          let place := checkPlace s (writerAgent node u.asid u.done) true 8 1 0 u.done
          let word := if u.ending then doneWord 2 u.endCause.toNat u.endIndex else doneWord 1 0 0
          (u.done = 0 ∨ (∃ c a, place = .error (.trap c a)) →
            ∃ w : State, exec (.runComplete node r) s = .next w ∧ w.run? node r = none ∧ w.mem = s.mem)
          ∧ (∀ key, u.done ≠ 0 → place = .ok (.mem key) → (∀ k ∈ spanKeys key 8, s.lineFree k = true) → (∀ p ∈ s.cores, p.2.comb = []) →
            ∃ w : State, exec (.runComplete node r) s = .next w ∧ w.run? node r = none ∧ w.mem = memPut s.mem key (leBytes 8 word.toNat))
          ∧ (u.done ≠ 0 → (∃ x, place = .error (.wait x)) ∨ (∃ key, place = .ok (.mem key) ∧ ∃ k ∈ spanKeys key 8, s.lineFree k = false) →
            ∃ w : State, exec (.runComplete node r) s = .next w ∧ w.run? node r = some u ∧ w.mem = s.mem))

/-- R379 to R381: the packet that a queue is at is acted on by its kind, unless BARRIER holds it back: a run is accepted, a copy begins, a
held run goes on, and a reserved packet has no effect but its completion word; without a packet nothing happens. -/
def Claim.packetEvents : Prop :=
  ∀ (s : State) (node queue : Nat),
    let q := (s.pkg node).queues.look {} queue
    let all (o : Host.Outcome State Fault Refusal) : Prop := exec (.runPacket node queue) s = o ∧ exec (.copyPacket node queue) s = o
      ∧ exec (.resumePacket node queue) s = o ∧ exec (.reservedPacket node queue) s = o
    (∀ r, packetAt s node queue q = .ok (r, none) → all (.next r))
    ∧ ∀ r a rd ws, packetAt s node queue q = .ok (r, some (a, rd, ws)) →
      (barred q ws = true → all (.next r))
      ∧ (barred q ws = false →
        (packetOf 1 ws = false → exec (.runPacket node queue) s = .next r)
        ∧ (packetOf 2 ws = false → exec (.copyPacket node queue) s = .next r)
        ∧ (packetOf 3 ws = false → exec (.resumePacket node queue) s = .next r)
        ∧ (∀ u r2, packetOf 1 ws = true → runTableFull r node = false →
            readRun r (launchAgent node queue q) true node (ws.getD 1 0) 3 = .ok (some u, r2) → runTableFull r2 node = false →
            ∃ (w : State) (c : Nat) (u' : Run), exec (.runPacket node queue) s = .next w ∧ w.run? node c = some u' ∧ r2.run? node c = none
              ∧ u'.queue = some queue ∧ u'.stages = u.stages ∧ (c, u'.gen) ∈ ((w.pkg node).queues.look {} queue).openRuns)
        ∧ (packetOf 2 ws = true → tagOf (ws.getD 1 0) = 0 →
            copyFails (r.cluster (r.homeOf node (ws.getD 1 0) * 16)) false (ws.getD 3 0) (ws.getD 1 0) (ws.getD 2 0) = none →
            copySize (ws.getD 3 0) ≠ 0 →
            ∃ (w : State) (j : CopyJob), exec (.copyPacket node queue) s = .next w
              ∧ (w.die (r.homeOf node (ws.getD 1 0))).copies = (r.die (r.homeOf node (ws.getD 1 0))).copies ++ [j]
              ∧ j.dst = ws.getD 1 0 ∧ j.src = ws.getD 2 0 ∧ j.size = ws.getD 3 0 ∧ j.asid = q.asid ∧ j.priv = q.sys ∧ j.queue = some (node, queue)
              ∧ j.doneAt = ws.getD 4 0 ∧ ((w.pkg node).queues.look {} queue).openCopies = q.openCopies + 1)
        ∧ (∀ u, packetOf 3 ws = true → r.run? node (bits (ws.getD 1 0) 0 8).toNat = some u → u.gen = bits (ws.getD 1 0) 8 16 →
            u.holding = true → ∃ (w : State) (u' : Run), exec (.resumePacket node queue) s = .next w
              ∧ w.run? node (bits (ws.getD 1 0) 0 8).toNat = some u' ∧ u'.holding = false ∧ u'.held = [])
        ∧ (packetOf 1 ws = false → packetOf 2 ws = false → packetOf 3 ws = false → packetDone r node queue q ws = 0 →
            exec (.reservedPacket node queue) s = .next (consumeEntry r node q.asid q.base a rd)))

/-- R371, R390 to R392, R395: at the start of a period the written budgets take effect, less what the period before used beyond its limit and
what is still carried (R391), the use is 0 and no context waits for the period; a
tick adds what a partition has used and writes GATE of its cores by the rule, or posts the figures; the power manager lowers a port's light
unless its error monitor wins, and a monitor asks, or wins against a reclaim of the period at a high error ratio. -/
def Claim.powerEvents : Prop :=
  ∀ (s : State) (node port part used : Nat) (ber : Bool),
    let p := s.pkg node
    let o := p.ports.look {} port
    (∃ u : State, exec (.budgetPeriodStart node) s = .next u ∧ u.mem = s.mem ∧ (u.pkg node).period = p.period + 1
      ∧ (∀ c ∈ (u.pkg node).saved, c.untilPeriod = false) ∧ (∀ e ∈ (u.pkg node).ports, e.2.deferred = false)
      ∧ ∀ k, let a := p.part k
        let b := (u.pkg node).part k
        b.inBudget = a.budget ∧ b.inNmax = a.nmax ∧ b.used = 0 ∧ b.charged = 0 ∧ b.tick = 0 ∧ b.limit = a.budget.toNat * 1024 - b.carry
        ∧ b.carry = (if a.inBudget = 0 then 0 else (a.used.toNat - a.limit) + (a.carry - a.inBudget.toNat * 1024))
        ∧ (a.used.toNat ≤ a.limit → b.n = 1))
    ∧ (let a := p.part part
      let x := a.used + BitVec.ofNat 64 used
      let tick := min 50 (a.tick + 1)
      (p.split.getLsbD 7 = false → ∃ u : State, exec (.budgetTick node part used) s = .next u ∧ u.mem = s.mem
        ∧ let b := (u.pkg node).part part
          b.used = x ∧ b.tick = tick ∧ (∀ k ∈ partCores p node part, (u.core k).gate = b.n)
          ∧ (a.inBudget = 0 → b.n = 1) ∧ (a.inBudget ≠ 0 → a.limit ≤ x.toNat → b.n = a.inNmax)
          ∧ (a.inBudget ≠ 0 → x.toNat < a.limit → a.limit * tick < x.toNat * 50 → b.n.toNat = min (2 * a.n.toNat) a.inNmax.toNat)
          ∧ (a.inBudget ≠ 0 → x.toNat < a.limit → x.toNat * 50 ≤ a.limit * tick → x.toNat * 500 < 9 * a.limit * tick →
              b.n.toNat = max (a.n.toNat / 2) 1)
          ∧ (a.inBudget ≠ 0 → x.toNat < a.limit → x.toNat * 50 ≤ a.limit * tick → 9 * a.limit * tick ≤ x.toNat * 500 → b.n = a.n))
      ∧ (p.split.getLsbD 7 = true → ∃ u : State, exec (.budgetTick node part used) s = .next u ∧ u.mem = s.mem ∧ u.cores = s.cores
          ∧ ((u.pkg node).part part).used = x ∧ ((u.pkg node).part part).tick = tick ∧ ((u.pkg node).part part).n = a.n))
    ∧ (o.deferred = true → exec (.lightReclaim node port ber) s = .next s)
    ∧ (o.deferred = false → o.request = true → ber = true → ∃ u : State, exec (.lightReclaim node port ber) s = .next u ∧ u.mem = s.mem
        ∧ (u.pkg node).light = satAdd p.light 1
        ∧ (u.pkg node).ports.look {} port = { o with low := false, request := false, deferred := true })
    ∧ (o.deferred = false → o.request = false ∨ ber = false →
        exec (.lightReclaim node port ber) s = .next (s.setPort node port { o with low := true, reclaimed := some ber }))
    ∧ (o.reclaimed ≠ some true → exec (.errorMonitorRequest node port) s = .next (s.setPort node port { o with request := true }))
    ∧ (o.reclaimed = some true → ∃ u : State, exec (.errorMonitorRequest node port) s = .next u ∧ u.mem = s.mem
        ∧ (u.pkg node).light = satAdd p.light 1
        ∧ (u.pkg node).ports.look {} port = { o with low := false, request := false, deferred := true, reclaimed := none })

/-- R387, R390: CLPART is not written while a slot of the cluster is not FREE, nor ASIDMAP while a run or a saved context holds the ASID
(SYSERR.MAPBUSY), nor PBUD where the budgets would exceed the package's (SYSERR.BUDOVER); in RESCUE none of them is written (R396). -/
def Claim.mapWrites : Prop :=
  ∀ (s : State) (node idx : Nat) (v : Word),
    let p := s.pkg node
    let fails (b : BitVec 2) := s.setPkg node { p with syserr := p.syserr ||| b }
    let live := p.runs.any (fun r => r.2.asid.toNat == idx) || p.saved.any (fun c => c.asid.toNat == idx)
    let others := p.parts.foldl (fun n q => if q.1 = idx then n else n + q.2.budget.toNat) 0
    let nmax := if (bits v 32 8).toNat < 2 then 2 else bits v 32 8
    (p.rescue = true → exec (.clpartWrite node idx v) s = .next s ∧ exec (.asidmapWrite node idx v) s = .next s
      ∧ exec (.pbudWrite node idx v) s = .next s)
    ∧ (p.rescue = false →
    exec (.clpartWrite node idx v) s
      = .next (if clusterBusy s node idx then fails 1 else s.setPkg node { p with clpart := p.clpart.put idx (bits v 0 6) })
    ∧ exec (.asidmapWrite node idx v) s
      = .next (if live then fails 1 else s.setPkg node { p with asidmap := p.asidmap.put idx (bits v 0 6) })
    ∧ exec (.pbudWrite node idx v) s = .next (if p.pkgbud.toNat < others + (bits v 0 32).toNat then fails 2
        else s.setPart node idx { p.part idx with budget := bits v 0 32, nmax := nmax }))

/-- Runs, launch queues, power and the maps of a package. -/
def Obligations.RunAndPowerEvents : Prop := Claim.runEvents ∧ Claim.packetEvents ∧ Claim.powerEvents ∧ Claim.mapWrites

/-- R394: an answer ends the request that it matches, and reaches the view or the record that asked, or notes the rings that the request
names, as they stood when it was posted, as copied, unless it says FAIL; HRCTL takes LOGN and RD. In RESCUE neither is answered (R396). -/
def Claim.hostEvents : Prop :=
  ∀ (s : State) (node : Nat) (v : Word),
    let p := s.pkg node
    let found := p.asked.find? (fun a => a.func == bits v 0 3 && a.tag == bits v 16 16)
    (p.rescue = true → exec (.hans node v) s = .next s ∧ exec (.hrctlWrite node v) s = .next s)
    ∧ (found = none → exec (.hans node v) s = .next s)
    ∧ (∀ a, p.rescue = false → found = some a → let l := p.asked.filter (fun b => !(b.func == bits v 0 3 && b.tag == a.tag))
      let done := s.setPkg node { p with asked := l }
      (bits v 0 3 = 1 → exec (.hans node v) s = .next done)
      ∧ (bits v 0 3 = 6 → exec (.hans node v) s = .next (s.setPkg node
          (let k := (p.asked.filter (·.func == 6)).findIdx (· == a)
          let copied := (p.offered.getD k []).foldl (fun (m : SMap (List Event)) r => if bit a.w1 r.1 then m.put r.1 r.2 else m) p.bbox
          { p with asked := l, offered := p.offered.eraseIdx k, bbox := if bit v 32 then p.bbox else copied })))
      ∧ (bits v 0 3 = 2 → exec (.hans node v) s = .next (answerView done node a.w1 (bit v 32)))
      ∧ (bits v 0 3 = 3 → exec (.hans node v) s = .next (answerRelay done node a.tag a.w1 (bit v 32)))
      ∧ (bits v 0 3 = 0 ∨ bits v 0 3 = 4 ∨ bits v 0 3 = 5 ∨ bits v 0 3 = 7 → exec (.hans node v) s = .next s))
    ∧ (p.rescue = false → p.posts = [] → exec (.hrctlWrite node v) s = .next (s.setPkg node { p with logn := bits v 0 4, hrrd := bits v 32 16 }))

/-- R396, R397: a boot step that passes, which steps 1 to 3 do only where the firmware image does, has RESULT 1 and boot goes on; an optional
step that failed before the last reset is skipped with RESULT 3; a step that fails has RESULT 2 and its code: an optional one is passed by,
a mandatory one is tried again, and at its fourth failure the package is in RESCUE; under SPLIT.BOOT the host is asked, whose GO retries and
whose SKIP forces an optional step. Once boot is over, in RESCUE and while the host is asked, nothing happens. A reset gives the package's
threads, cores, clusters and dies their reset values, and changes no memory and no other package. That every failure of an optional step sets
SKIPNEXT is the model's reading (log 40). -/
def Claim.bootEvents : Prop :=
  ∀ (s : State) (node : Nat) (code0 : BitVec 8) (pass : Bool),
    let p := s.pkg node
    let n := p.bootStep
    let r := vread p.bootrec n
    let opt := !bootMandatory n
    let tries := satAdd r.tries 1
    let skips := opt && r.skipNext && r.tries == 0
    let passes := pass && imageCode node n == 0
    let code := if imageCode node n = 0 then code0 else imageCode node n
    let rec? (u : State) : BootRec := vread (u.pkg node).bootrec n
    let bad : BootRec := { r with result := 2, tries := tries, code := code, skipNext := opt }
    (32 ≤ n ∨ p.rescue = true ∨ p.bootWait = true → exec (.bootStep node pass code0) s = .next s)
    ∧ (n < 32 → p.rescue = false → p.bootWait = false → ∃ u : State, exec (.bootStep node pass code0) s = .next u ∧ u.mem = s.mem
      ∧ (skips = true → rec? u = { r with result := 3 } ∧ (u.pkg node).bootStep = n + 1)
      ∧ (skips = false → passes = true → rec? u = { r with result := 1, tries := tries, code := 0, skipNext := false }
          ∧ (u.pkg node).bootStep = n + 1 ∧ (n = 24 → (u.pkg node).rtself = 0 ∧ (u.pkg node).rtnode = []))
      ∧ (skips = false → passes = false → rec? u = bad
          ∧ (opt = false → 3 < tries.toNat → (u.pkg node).rescue = true ∧ (u.pkg node).bootStep = n)
          ∧ (opt = true ∨ tries.toNat ≤ 3 → (u.pkg node).rescue = false
            ∧ (p.split.getLsbD 5 = true → (u.pkg node).bootWait = true ∧ (u.pkg node).bootStep = n)
            ∧ (p.split.getLsbD 5 = false → (u.pkg node).bootStep = if opt then n + 1 else n))))
    ∧ (∀ k : BitVec 5, p.bootWait = false ∨ k.toNat ≠ n → exec (.bootctlGo node k) s = .next s ∧ exec (.bootctlSkip node k) s = .next s)
    ∧ (∀ k : BitVec 5, p.bootWait = true → k.toNat = n → let l := p.asked.filter (fun a => a.func != 5)
        exec (.bootctlGo node k) s = .next (s.setPkg node { p with bootWait := false, asked := l, posts := p.posts.filter (fun r => r.func != 5) })
        ∧ ∃ u : State, exec (.bootctlSkip node k) s = .next u ∧ u.mem = s.mem ∧ (opt = false → u.pkg node = p)
          ∧ (opt = true → (rec? u).result = 3 ∧ (u.pkg node).bootStep = n + 1 ∧ (u.pkg node).bootWait = false))
    ∧ ∃ u : State, exec (.reset node) s = .next u ∧ u.mem = s.mem ∧ (∀ k, slotNode k = node → u.thread k = {})
        ∧ (∀ k, slotNode k ≠ node → u.thread k = s.thread k) ∧ (∀ k, k / 512 = node → u.core k = {}) ∧ (∀ k, k / 128 = node → u.cluster k = {})
        ∧ (∀ k, k / 8 = node → u.die k = {}) ∧ (∀ m, m ≠ node → u.pkg m = s.pkg m)
        ∧ (u.pkg node).rings = p.rings ∧ (u.pkg node).bootStep = 0 ∧ (u.pkg node).runs = []

/-- R398 to R400: the rings are lost with the standby power, and empty when it returns; SRSEL takes its selection and SRDATA starts at word 0,
and each read goes on by a word; a quote begins unless one is being formed, or the package is in RESCUE (R396), and it is 64 words when it
stands. That the first GO, with DONE still 0, starts one is the model's reading (log 39). -/
def Claim.strongroomEvents : Prop :=
  ∀ (s : State) (node : Nat) (v : Word),
    let p := s.pkg node
    exec (.standbyPowerLoss node) s = .next (s.setPkg node { p with rings := [], standby := false })
    ∧ exec (.standbyPowerOn node) s = .next (if p.standby then s else s.setPkg node { p with rings := [], standby := true })
    ∧ exec (.srselWrite node v) s = .next (s.setPkg node { p with srsel := bits v 0 16, srread := 0, srpos := (bits v 0 12).toNat })
    ∧ exec (.srdataRead node) s = .next (s.setPkg node { p with srread := p.srread + 1 })
    ∧ exec (.attestation node) s
        = .next (if p.rescue || p.atGo && !p.atDone then s else s.setPkg node { p with atGo := true, atDone := false, quote := [] })
    ∧ (p.atGo = false ∨ p.atDone = true → exec (.quoteReady node) s = .next s)
    ∧ (p.atGo = true → p.atDone = false → ∃ u : State, exec (.quoteReady node) s = .next u ∧ u.mem = s.mem ∧ (u.pkg node).atDone = true
        ∧ (u.pkg node).quote.length = 64)

/-- R385, R216, R325, R295: a write from outside reaches the register that its address names, unless the package is in RESCUE, and changes no
memory unless CBANS ends a combiner's slot; a request of the companion processor does what its requester may: nothing when it is not enabled, a
register access only at system privilege, and a write of memory where its checks pass, no earlier request of it is held, and no engine owns
the line. -/
def Claim.outsideAccesses : Prop :=
  ∀ (s : State) (node size key c : Nat) (req : BitVec 4) (a v : Word) (wr : Bool),
    let die := nodeOf a * 8 + dieOf a
    let f := vread (s.pkg node).fitiar req.toNat
    let w : HeldAccess := ⟨bits f 0 12, bit f 12, some req.toNat, a, size, if wr then some (leBytes size v.toNat) else none, none, none⟩
    let up := (s.pkg (die / 8)).rescue = false
    (∃ u : State, exec (.registerWrite a v) s = .next u ∧ ((bits a 0 49).toNat / 2 ^ 24 ≠ 5 → u.mem = s.mem))
    ∧ (up → (bits a 0 49).toNat = 0x1000010 + 0x1000 * c → c < 64 → let k := s.core (die * 64 + c)
        let g := if bits v 0 8 = 0 then 1 else bits v 0 8
        exec (.registerWrite a v) s = .next (s.setCore (die * 64 + c) { k with gate := g }))
    ∧ (up → (bits a 0 49).toNat = 0x3000018 → let d := s.die die
        exec (.registerWrite a v) s = .next (s.setDie die { d with asidtab := bits v 0 37 &&& 0x1FFFFF0000 }))
    ∧ (up → (bits a 0 49).toNat = 0x2000000 + 0x1000 * c → c < 16 → let k := s.cluster (die * 16 + c)
        exec (.registerWrite a v) s = .next (s.setCluster (die * 16 + c) { k with feto := bits v 0 16, phto := bits v 16 16 }))
    ∧ (bit f 13 = false → exec (.fitiaRequest node req a size wr v) s = .next s)
    ∧ (bit f 13 = true → tagOf a = 0xF →
        (bit f 12 = false ∨ size ≠ 8 ∨ a.toNat % 8 ≠ 0 → exec (.fitiaRequest node req a size wr v) s = .next s)
        ∧ (bit f 12 = true → size = 8 → a.toNat % 8 = 0 → wr = true → exec (.fitiaRequest node req a size wr v) s
            = .next (regWriteAt s (s.homeOf node a) (bits a 0 49).toNat v)))
    ∧ (bit f 13 = true → tagOf a ≠ 0xF → tagOf a ≠ 0 ∨ (s.pkg node).rescue = true → exec (.fitiaRequest node req a size wr v) s = .next s)
    ∧ (bit f 13 = true → tagOf a = 0 → (s.pkg node).rescue = false → checkPlace s (w.agent node) wr size size 0 a = .ok (.mem key) →
        s.poison = [] → (∀ p ∈ s.cores, p.2.comb = []) → (∀ q ∈ (s.pkg node).writes, q.req ≠ some req.toNat) → s.lineFree key = true →
        hostOwned s key = false →
        (wr = false → ∃ u : State, exec (.fitiaRequest node req a size wr v) s = .next u ∧ u.mem = s.mem)
        ∧ (wr = true → ∃ u : State, exec (.fitiaRequest node req a size wr v) s = .next u ∧ u.mem = memPut s.mem key (leBytes size v.toNat)))

/-- The host's answers, boot and reset, the Strongroom, and accesses from outside. -/
def Obligations.PackageEvents : Prop := Claim.hostEvents ∧ Claim.bootEvents ∧ Claim.strongroomEvents ∧ Claim.outsideAccesses

/-! ## The forms by their names -/

/-- R124, R126 to R128, R131 to R145, R153 to R175: each form of the vector unit that is named here completes for every state with nothing on
its way in which its checks pass, and writes only its destination: VDOT4, the comparisons, float arithmetic and conversion, mask logic,
permutations, reductions, scans, sorts and scaled formats, and the loads, stores, atomics and reduces whose elements lie in the Larder or a
Pantry or are masked. R157: each scalar load gives xt its bytes, extended, and each scalar store writes its bytes: in its step where it is
blocking, which at a place of another die is in the line write that it sends there (18_fabric.md R412), and later where it is non-blocking. That
a store performs in its step, or that memory stands after the step of a non-blocking one, is the model's choice (log 7). -/
def Obligations.NamedFormsComplete : Prop :=
  ∀ (s : State) (d a b t i : BitVec 5) (dm am bm : BitVec 4) (x : Bool) (w : BitVec 2) (k sb nb : Bool) (e sn : BitVec 3) (f : BitVec 4)
      (key : Nat) (hits : Nat → Option Hit), s.idle → s.th.shaped →
    let done (ins : Instr) (vs ms : List Nat) : Prop := ∃ u, exec ins s = .next u ∧ VecDone s u vs ms
    let flt (o : FltOp) (ins : Instr) : Prop :=
      fltChecks s o (fltOp s o d a b x w k) = .ok () → done ins (regsFrom d.toNat (vtG s.th.vtype)) []
    let dop : VOp := { s.vop .dot4 d a b (wordOf (.vdot4 d a b x w k sb)) with x := x, w2 := w, k := k, s := sb }
    let cop : VOp := { s.vop (.cvt e f) d a 0 (wordOf (.vcvt d a e f k sb)) with k := k, s := sb }
    let cmp (ins : Instr) : Prop :=
      a.toNat % vtG s.th.vtype = 0 → (x = false → b.toNat % vtG s.th.vtype = 0) → done ins [] [dm.toNat]
    let perm (o : PermOp) (ins : Instr) : Prop :=
      permChecks s o (permOp s o d a b k) = .ok () → done ins (regsFrom d.toNat (vtG s.th.vtype)) []
    let rows := (rowsOf s.th.cols.toNat s.th.vl.toNat).length
    let red (o : RedOp) (count : Nat) (ins : Instr) : Prop :=
      groupChecks s.th.gpr (redOp s o d a k sb) true [(redOp s o d a k sb).groupA] = .ok () → count ≤ vlmax s.th.vtype s.th.gang →
        done ins (regsFrom d.toNat (vtG s.th.vtype)) []
    let seg (o : SegOp) (ins : Instr) : Prop :=
      groupChecks s.th.gpr (segOp s o d a bm k sb) true [(segOp s o d a bm k sb).groupA] = .ok () →
        done ins (regsFrom d.toNat (vtG s.th.vtype)) []
    let sort (o : SortOp) (ms : List Nat) (ins : Instr) : Prop :=
      sortChecks o (sortOp s o d a b sb) = .ok () → sortBad o (sortOp s o d a b sb) s.th.gang = none →
        done ins (regsFrom d.toNat (vtG s.th.vtype)) ms
    let scale (o : ScaleOp) (ins : Instr) : Prop := let g := o.dst (scaleOp s o d a b w k)
      scaleChecks s o (scaleOp s o d a b w k) = .ok () → done ins (regsFrom g.base g.n) []
    let mem (ins : Instr) : Prop := ∀ q ∈ memForms, q.form t b i sn e k false = ins → let op := memOp s q t b i sn e k false
      s.settled → s.poison = [] → memChecks s.th op (memTypeOk s q) = .ok () → memBad s q b i = none →
      (q.kind = .store .feed → op.n_ * op.sew ≤ 4096) →
      (∀ g ∈ op.groupIx, op.kind.loads = true → g = op.groupD ∨ op.groupD.overlaps g = false) →
      (∀ j, j < op.n_ → s.th.active k j = true → resolvesTo s op j (hits j) ∧
        ∀ h p, hits j = some h → h.place = .mem p → 2 ^ 60 ≤ p) →
      ∃ u : State, exec ins s = .next u.advance
        ∧ (∀ r, r < 32 → (op.kind.loads = true → r < t.toNat ∨ t.toNat + op.g ≤ r) → vread u.th.v r = vread s.th.v r)
    let load (n : Nat) (signed : Bool) (ins : Instr) : Prop := s.settled → s.poison = [] →
      checkAccess s s.agent false n n 0 (s.x b + s.x i) = .ok (.mem key) → let v := leNat (memBytes s.mem key n)
      ∃ u : State, exec ins s = .next (u.ret t (if signed then BitVec.ofInt 64 (intVal true (8 * n) v) else BitVec.ofNat 64 v)) ∧ u.mem = s.mem
    let store (n : Nat) (ins : Instr) : Prop := s.settled → s.poison = [] →
      checkAccess s s.agent true n n 0 (s.x b + s.x i) = .ok (.mem key) →
      (nb = true ∨ remoteKey s.cur key = false → ∃ u : State, exec ins s = .next u.advance ∧ ∀ p, memGet u.mem p =
        if nb = false ∧ key ≤ p ∧ p < key + n then BitVec.ofNat 8 ((s.x t).toNat / 256 ^ (p - key)) else memGet s.mem p)
      ∧ (nb = false → remoteKey s.cur key = true → ∃ u, exec ins s = .next (State.advance (s.landed u))
        ∧ s.buffered u sn key ((List.range n).map (fun j => BitVec.ofNat 8 ((s.x t).toNat / 256 ^ j))) none)
    (groupChecks s.th.gpr dop (w == 0 && 16 ≤ dop.sew && (16 < dop.sew || dop.signed)) (dotSources dop) = .ok () →
      done (.vdot4 d a b x w k sb) (regsFrom d.toNat (vtG s.th.vtype)) [])
    ∧ cmp (.vceq dm a b x k sb) ∧ cmp (.vcne dm a b x k sb) ∧ cmp (.vclt dm a b x k sb) ∧ cmp (.vcle dm a b x k sb)
    ∧ cmp (.vcgt dm a b x k sb) ∧ cmp (.vcge dm a b x k sb)
    ∧ flt .add (.vfadd d a b x w k) ∧ flt .sub (.vfsub d a b x w k) ∧ flt .mul (.vfmul d a b x w k) ∧ flt .div (.vfdiv d a b x w k)
    ∧ flt .sqrt (.vfsqrt d a w k) ∧ flt .min (.vfmin d a b x w k) ∧ flt .max (.vfmax d a b x w k) ∧ flt .abs (.vfabs d a w k)
    ∧ flt .neg (.vfneg d a w k) ∧ flt .macc (.vfmacc d a b x w k) ∧ flt .nmacc (.vfnmacc d a b x w k) ∧ flt .madd (.vfmadd d a b x w k)
    ∧ (groupChecks s.th.gpr cop (pairLegal f.toNat e.toNat && (cvtSource cop e).n ≤ 8) [cvtSource cop e] = .ok () →
      done (.vcvt d a e f k sb) (regsFrom d.toNat (vtG s.th.vtype)) [])
    ∧ done (.mand dm am bm k) [] [dm.toNat] ∧ done (.mor dm am bm k) [] [dm.toNat] ∧ done (.mxor dm am bm k) [] [dm.toNat]
    ∧ done (.mmov dm am k) [] [dm.toNat]
    ∧ perm .slideUp (.vslideup d a b k) ∧ perm .slideDn (.vslidedn d a b k) ∧ perm .slide1Up (.vslide1up d a b k)
    ∧ perm .slide1Dn (.vslide1dn d a b k) ∧ perm .perm (.vperm d a b k) ∧ perm .compress (.vcompress d a (b.setWidth 4) k)
    ∧ perm .bcast (.vbcast d a b k) ∧ perm .insert (.vmvsx d a k)
    ∧ (a.toNat % vtG s.th.vtype = 0 → ∃ v, exec (.vmvxs d a sb) s = .next (s.ret d v))
    ∧ red .sum rows (.vrsum d a k sb) ∧ red .min rows (.vrmin d a k sb) ∧ red .max rows (.vrmax d a k sb)
    ∧ red .minI (2 * rows) (.vrmini d a k sb) ∧ red .maxI (2 * rows) (.vrmaxi d a k sb) ∧ red .scan 0 (.vscan d a k sb)
    ∧ red .scanX 0 (.vscanx d a k sb)
    ∧ seg .sum (.vsegsum d a bm k sb) ∧ seg .min (.vsegmin d a bm k sb) ∧ seg .max (.vsegmax d a bm k sb) ∧ seg .scan (.vsegscan d a bm k sb)
    ∧ sort .merge [] (.vmerge d a b sb) ∧ sort .topk [(s.x b).toNat / 2 ^ 28 % 16] (.vtopk d a b sb) ∧ sort .mrgk [] (.vmrgk d a b sb)
    ∧ sort .step [] (.vsortstep d a b sb)
    ∧ scale .bmax (.vbmax a w k) ∧ scale .scale (.vscale d a w k) ∧ scale .quant (.vquant d a w k) ∧ scale .deq (.vdeq d a w k)
    ∧ scale .sfma (.vsfma d a b w k)
    ∧ mem (.vld t b sn e k false) ∧ mem (.vlds t b i sn e k false) ∧ mem (.vld2d t b i sn e k false)
    ∧ mem (.vst t b sn e k false) ∧ mem (.vsts t b i sn e k false) ∧ mem (.vst2d t b i sn e k false)
    ∧ mem (.vgath t b i sn e k false) ∧ mem (.vgatha t i sn e k false) ∧ mem (.vgathf t b (i.setWidth 2) sn e k false)
    ∧ mem (.vscat t b i sn e k false) ∧ mem (.vscata t i sn e k false) ∧ mem (.vscatf t b (i.setWidth 2) sn e k false)
    ∧ mem (.vaadd t b i sn e k false) ∧ mem (.vamin t b i sn e k false) ∧ mem (.vamax t b i sn e k false) ∧ mem (.vaor t b i sn e k false)
    ∧ mem (.vaswap t b i sn e k false) ∧ mem (.vacas t b i sn e k false)
    ∧ mem (.vcadd t b i sn e k false) ∧ mem (.vcmin t b i sn e k false) ∧ mem (.vcmax t b i sn e k false) ∧ mem (.vcfadd t b i sn e k false)
    ∧ mem (.vcfmax t b i sn e k false)
    ∧ mem (.cld t (b.setWidth 4) i sn e k false) ∧ mem (.cst t (b.setWidth 4) i sn e k false) ∧ mem (.fpop t (b.setWidth 2) sn e k false)
    ∧ mem (.pld t b sn e k false) ∧ mem (.pst t b sn e k false) ∧ mem (.pldx t b i sn e k false) ∧ mem (.pstx t b i sn e k false)
    ∧ load 1 true (.lds8 t b i sn e) ∧ load 2 true (.lds16 t b i sn e) ∧ load 4 true (.lds32 t b i sn e) ∧ load 1 false (.ldn8 t b i sn e)
    ∧ load 2 false (.ldn16 t b i sn e) ∧ load 4 false (.ldn32 t b i sn e) ∧ load 8 false (.ld64 t b i sn e)
    ∧ store 1 (.st8 t b i sn e nb) ∧ store 2 (.st16 t b i sn e nb) ∧ store 4 (.st32 t b i sn e nb) ∧ store 8 (.st64 t b i sn e nb)

end
end

