-- ==== Sys2Proof/Laws/Memory.lean ====
section
/-! SUPPORT. Laws of memory: what a byte reads as after a write, and that the operations on memory keep its canonical form. -/

namespace Sys2Proof.Machine

/-! ## Reading one byte -/

theorem memGet_append (m n : List Host.Cell) (x : Nat) (h : ∀ c ∈ m, c.1 ≠ x) : memGet (m ++ n) x = memGet n x := by
  induction m with
  | nil => rfl
  | cons c r ih =>
    obtain ⟨a, v⟩ := c
    have ha : a ≠ x := h (a, v) (by simp)
    simp only [List.cons_append, memGet, if_neg ha]
    exact ih fun c hc => h c (by simp [hc])

theorem memGet_none (m : List Host.Cell) (x : Nat) (h : ∀ c ∈ m, c.1 ≠ x) : memGet m x = 0 := by
  simpa [memGet] using memGet_append m [] x h

theorem memGet_append_some (m n : List Host.Cell) (x : Nat) (h : ∀ c ∈ n, c.1 ≠ x) : memGet (m ++ n) x = memGet m x := by
  induction m with
  | nil => exact memGet_none n x h
  | cons c r ih => obtain ⟨a, v⟩ := c; simp only [List.cons_append, memGet, ih]

theorem memGet_filter (m : List Host.Cell) (p : Nat → Bool) (x : Nat) (h : p x = true) :
    memGet (m.filter (fun c => p c.1)) x = memGet m x := by
  induction m with
  | nil => rfl
  | cons c r ih =>
    obtain ⟨a, v⟩ := c
    by_cases hp : p a = true
    · simp only [List.filter_cons, hp, if_true, memGet, ih]
    · have ha : a ≠ x := fun e => hp (e ▸ h)
      simp [List.filter_cons, hp, memGet, ha, ih]

theorem cellsOf_range (a : Nat) (bs : List Byte) : ∀ c ∈ cellsOf a bs, a ≤ c.1 ∧ c.1 < a + bs.length := by
  induction bs generalizing a with
  | nil => simp [cellsOf]
  | cons b r ih =>
    intro c hc
    simp only [cellsOf] at hc
    split at hc
    · have := ih (a + 1) c hc; simp only [List.length_cons]; omega
    · rcases List.mem_cons.1 hc with rfl | hc
      · simp
      · have := ih (a + 1) c hc; simp only [List.length_cons]; omega

theorem memGet_cellsOf (a : Nat) (bs : List Byte) (x : Nat) (h : a ≤ x) : memGet (cellsOf a bs) x = bs.getD (x - a) 0 := by
  induction bs generalizing a with
  | nil => simp [cellsOf, memGet]
  | cons b r ih =>
    simp only [cellsOf]
    by_cases hx : x = a
    · subst hx
      split
      · next hb =>
        rw [memGet_none]
        · simp [hb]
        · intro c hc; have := cellsOf_range _ _ c hc; omega
      · simp [memGet]
    · have e : x - a = (x - (a + 1)) + 1 := by omega
      rw [e, List.getD_cons_succ, ← ih (a + 1) (by omega)]
      split
      · rfl
      · simp [memGet, Ne.symm hx]

/-- The byte at a place after a write: the byte written there, or what was there before. -/
theorem memGet_memPut (m : List Host.Cell) (a : Nat) (bs : List Byte) (x : Nat) :
    memGet (memPut m a bs) x = if a ≤ x ∧ x < a + bs.length then bs.getD (x - a) 0 else memGet m x := by
  have lo : ∀ c ∈ m.filter (fun c => decide (c.1 < a)), c.1 < a := by simp
  have hi : ∀ c ∈ m.filter (fun c => decide (a + bs.length ≤ c.1)), a + bs.length ≤ c.1 := by simp
  simp only [memPut]
  split
  · next h =>
    rw [memGet_append_some _ _ x (fun c hc => by have := hi c hc; omega),
      memGet_append _ _ x (fun c hc => by have := lo c hc; omega), memGet_cellsOf _ _ _ h.1]
  · next h =>
    by_cases hx : x < a
    · rw [memGet_append_some _ _ x (fun c hc => by have := hi c hc; omega),
        memGet_append_some _ _ x (fun c hc => by have := cellsOf_range _ _ c hc; omega)]
      exact memGet_filter m (fun k => decide (k < a)) x (by simpa using hx)
    · rw [memGet_append _ _ x (fun c hc => by
        rcases List.mem_append.1 hc with hc | hc
        · have := lo c hc; omega
        · have := cellsOf_range _ _ c hc; omega)]
      exact memGet_filter m (fun k => decide (a + bs.length ≤ k)) x (by simp; omega)

/-! ## The canonical form -/

theorem memSorted_iff (m : List Host.Cell) :
    memSorted m = true ↔ m.Pairwise (fun c d => c.1 < d.1) ∧ ∀ c ∈ m, c.2 ≠ 0 := by
  induction m with
  | nil => simp [memSorted]
  | cons c r ih =>
    obtain ⟨a, v⟩ := c
    simp only [memSorted, Bool.and_eq_true, bne_iff_ne, ne_eq, List.all_eq_true, decide_eq_true_eq, ih, List.pairwise_cons,
      List.mem_cons, forall_eq_or_imp]
    tauto

theorem wf_filter (m : List Host.Cell) (p : Host.Cell → Bool) (h : Memory.wf m) : Memory.wf (m.filter p) := by
  simp only [Memory.wf, memSorted_iff] at *
  exact ⟨h.1.filter p, fun c hc => h.2 c (List.mem_of_mem_filter hc)⟩

theorem wf_append (m n : List Host.Cell) (hm : Memory.wf m) (hn : Memory.wf n) (h : ∀ c ∈ m, ∀ d ∈ n, c.1 < d.1) :
    Memory.wf (m ++ n) := by
  simp only [Memory.wf, memSorted_iff] at *
  exact ⟨List.pairwise_append.2 ⟨hm.1, hn.1, h⟩, fun c hc => (List.mem_append.1 hc).elim (hm.2 c) (hn.2 c)⟩

theorem wf_cellsOf (a : Nat) (bs : List Byte) : Memory.wf (cellsOf a bs) := by
  induction bs generalizing a with
  | nil => rfl
  | cons b r ih =>
    simp only [cellsOf]
    split
    · exact ih _
    · next hb =>
      have := ih (a + 1)
      simp only [Memory.wf, memSorted, Bool.and_eq_true, bne_iff_ne, ne_eq, List.all_eq_true, decide_eq_true_eq] at *
      exact ⟨⟨hb, fun c hc => by have := cellsOf_range _ _ c hc; omega⟩, this⟩

/-- A write keeps the canonical form. -/
theorem wf_memPut (m : List Host.Cell) (a : Nat) (bs : List Byte) (h : Memory.wf m) : Memory.wf (memPut m a bs) := by
  refine wf_append _ _ (wf_append _ _ (wf_filter _ _ h) (wf_cellsOf _ _) ?_) (wf_filter _ _ h) ?_
  · intro c hc d hd
    have := cellsOf_range _ _ d hd
    simp only [List.mem_filter, decide_eq_true_eq] at hc
    omega
  · intro c hc d hd
    simp only [List.mem_filter, decide_eq_true_eq] at hd
    rcases List.mem_append.1 hc with hc | hc
    · simp only [List.mem_filter, decide_eq_true_eq] at hc; omega
    · have := cellsOf_range _ _ c hc; omega

/-- Moving cells to other places in their order keeps the canonical form. -/
theorem wf_shift (m : List Host.Cell) (src dst : Nat) (h : Memory.wf m) (hs : ∀ c ∈ m, src ≤ c.1) :
    Memory.wf (m.map (fun c => (c.1 - src + dst, c.2))) := by
  simp only [Memory.wf, memSorted_iff, List.pairwise_map] at *
  refine ⟨h.1.imp_of_mem ?_, fun c hc => by obtain ⟨d, hd, rfl⟩ := List.mem_map.1 hc; exact h.2 d hd⟩
  intro c d hc hd hlt
  have := hs c hc
  have := hs d hd
  omega

/-- The move of a page's bytes keeps the canonical form. -/
theorem wf_memCopy (m : List Host.Cell) (src dst n : Nat) (h : Memory.wf m) : Memory.wf (memCopy m src dst n) := by
  refine wf_append _ _ (wf_append _ _ (wf_filter _ _ h) (wf_shift _ src dst (wf_filter _ _ h) ?_) ?_) (wf_filter _ _ h) ?_
  · intro c hc
    simp only [List.mem_filter, Bool.and_eq_true, decide_eq_true_eq] at hc
    exact hc.2.1
  · intro c hc d hd
    simp only [List.mem_map, List.mem_filter, decide_eq_true_eq] at hc hd
    obtain ⟨e, _, rfl⟩ := hd
    simp only []
    omega
  · intro c hc d hd
    simp only [List.mem_filter, decide_eq_true_eq] at hd
    rcases List.mem_append.1 hc with hc | hc
    · simp only [List.mem_filter, decide_eq_true_eq] at hc; omega
    · simp only [List.mem_map, List.mem_filter, Bool.and_eq_true, decide_eq_true_eq] at hc
      obtain ⟨e, he, rfl⟩ := hc
      simp only []
      omega

/-- The memory of the reset state, which lists nothing, is in the canonical form. -/
theorem wf_nil : Memory.wf [] := rfl

end Sys2Proof.Machine
end

