-- ==== Sys2Proof/Laws/Quiet.lean ====
section
/-! SUPPORT. What the shared operations do for a thread with nothing on its way in a pod that holds no contribution and no buffered store:
nothing. -/

namespace Sys2Proof.Machine

theorem look_forall {α : Type} (m : SMap α) (d : α) (k : Nat) (P : α → Prop) (hd : P d) (h : ∀ p ∈ m, P p.2) : P (m.look d k) := by
  induction m with
  | nil => exact hd
  | cons c r ih =>
    obtain ⟨j, a⟩ := c
    simp only [SMap.look]
    split
    · exact h (j, a) (by simp)
    · exact ih fun p hp => h p (by simp [hp])

theorem settled_comb {s : State} (h : s.settled) (k : Nat) : (s.core k).comb = [] :=
  look_forall s.cores {} k (fun c => c.comb = []) rfl fun p hp => (h.1 p hp).1

theorem settled_wbuf {s : State} (h : s.settled) (k : Nat) : (s.core k).wbuf = [] :=
  look_forall s.cores {} k (fun c => c.wbuf = []) rfl fun p hp => (h.1 p hp).2

theorem settled_lines {s : State} (h : s.settled) (k : Nat) : (s.die k).lineWrites = [] :=
  look_forall s.dies {} k (fun d => d.lineWrites = []) rfl fun p hp => (h.2.1 p hp).1

theorem settled_notices {s : State} (h : s.settled) (k : Nat) : (s.die k).notices = [] :=
  look_forall s.dies {} k (fun d => d.notices = []) rfl fun p hp => (h.2.1 p hp).2

theorem foldl_id {α β : Type} (f : β → α → β) (l : List α) (b : β) (h : ∀ a, f b a = b) : l.foldl f b = b := by
  induction l with
  | nil => rfl
  | cons a r ih => rw [List.foldl_cons, h a, ih]

theorem mergeWhere_settled {s : State} (h : s.settled) (core : Nat) (pick : Comb → Bool) : mergeWhere s core pick = s := by
  simp [mergeWhere, settled_comb h]

theorem sendWhere_settled {s : State} (h : s.settled) (core : Nat) (pick : LineWr → Bool) : sendWhere s core pick = s := by
  simp [sendWhere, settled_wbuf h]

theorem flushCore_settled {s : State} (h : s.settled) (home core : Nat) (pick : Comb → Bool) : flushCore s home core pick = s := by
  simp [flushCore, settled_comb h, mergeWhere_settled h]

theorem flushLine_settled {s : State} (h : s.settled) (key : Nat) : flushLine s key = s :=
  foldl_id _ _ _ fun _ => flushCore_settled h _ _ _

theorem flushRange_settled {s : State} (h : s.settled) (key n : Nat) : flushRange s key n = s :=
  foldl_id _ _ _ fun _ => flushCore_settled h _ _ _

theorem mergeStream_settled {s : State} (h : s.settled) (sn : BitVec 3) : mergeStream s sn = s :=
  foldl_id _ _ _ fun _ => mergeWhere_settled h _ _

theorem thread_cur (s : State) : s.thread s.cur = s.th := by simp [State.thread]

theorem performWhere_none {s : State} (h : s.th.pend = []) (pick : Pend → Bool) : performWhere s s.cur pick = s := by
  simp [performWhere, thread_cur, h]

theorem forceStreams_quiet {s : State} (hp : s.th.pend = []) (h : s.settled) (pick : BitVec 3 → Bool) :
    forceStreams s s.cur pick = s := by
  simp only [forceStreams, performWhere_none hp]
  rw [foldl_id (fun s c => sendWhere s c _) _ s fun _ => sendWhere_settled h _ _,
    foldl_id (fun s c => mergeWhere s c _) _ s fun _ => mergeWhere_settled h _ _]

theorem forceOverlap_quiet {s : State} (hp : s.th.pend = []) (key n : Nat) : forceOverlap s s.cur key n = s := performWhere_none hp _

theorem correct_settled {s : State} (h : s.settled) (key n : Nat) : s.correct key n = s := by simp [State.correct, h.2.2]

theorem edgeOrder_quiet {s : State} (hp : s.th.pend = []) (ho : s.th.ops = []) (h : s.settled) (mask : BitVec 8) :
    edgeOrder s mask = .ok s := by
  unfold edgeOrder
  split
  · rfl
  · rw [forceStreams_quiet hp h]; simp [ho, settled_comb h]

theorem checkExhausted_quiet {s : State} (ho : s.th.ops = []) (sn : BitVec 3) (n : Nat) : checkExhausted s sn n = .ok () := by
  simp [checkExhausted, Thread.oc, ho]

theorem writeReturned_quiet {s : State} (hp : s.th.pend = []) : writeReturned s s.cur = s := performWhere_none hp _

theorem writeReturnedTo_quiet {s : State} (hp : s.th.pend = []) (base n : Nat) : writeReturnedTo s s.cur base n = s :=
  performWhere_none hp _

theorem finishRows_quiet {s : State} (h : s.th.rows = []) : finishRows s = s := by simp [finishRows, h]

end Sys2Proof.Machine
end

