-- ==== Sys2Proof/Laws/State.lean ====
section
/-! SUPPORT. Laws of State: what each update leaves in each field, what reading a table after a write gives, and what a commit changes. -/

namespace Sys2Proof.Machine

/-! ## Tables -/

@[simp] theorem look_nil {α : Type} (d : α) (k : Nat) : SMap.look [] d k = d := rfl

@[simp] theorem look_put_same {α : Type} (m : SMap α) (d : α) (k : Nat) (a : α) : (m.put k a).look d k = a := by
  induction m with
  | nil => simp [SMap.put, SMap.look]
  | cons p r ih =>
    obtain ⟨j, b⟩ := p
    simp only [SMap.put]
    split
    · next h => simp [SMap.look, Nat.ne_of_lt h, ih]
    · split <;> simp [SMap.look]

theorem look_put_ne {α : Type} (m : SMap α) (d : α) (k j : Nat) (a : α) (h : j ≠ k) : (m.put k a).look d j = m.look d j := by
  induction m with
  | nil => simp [SMap.put, SMap.look, Ne.symm h]
  | cons p r ih =>
    obtain ⟨i, b⟩ := p
    simp only [SMap.put]
    split
    · simp only [SMap.look, ih]
    · split
      · next e => subst e; simp [SMap.look, Ne.symm h]
      · simp [SMap.look, Ne.symm h]

theorem look_drop_ne {α : Type} (m : SMap α) (d : α) (k j : Nat) (h : j ≠ k) : (m.drop k).look d j = m.look d j := by
  induction m with
  | nil => rfl
  | cons p r ih =>
    obtain ⟨i, b⟩ := p
    by_cases hi : i = k
    · subst hi; simpa [SMap.drop, SMap.look, Ne.symm h] using ih
    · simp only [SMap.drop, List.filter_cons, bne_iff_ne, ne_eq, hi, not_false_eq_true, if_true, SMap.look]
      rw [← ih]; rfl

/-! ## Cores, clusters, dies and packages -/

@[simp] theorem setCore_cur (s : State) (k : Nat) (c : Core) : (s.setCore k c).cur = s.cur := rfl
@[simp] theorem setCore_th (s : State) (k : Nat) (c : Core) : (s.setCore k c).th = s.th := rfl
@[simp] theorem setCore_parked (s : State) (k : Nat) (c : Core) : (s.setCore k c).parked = s.parked := rfl
@[simp] theorem setCore_mem (s : State) (k : Nat) (c : Core) : (s.setCore k c).mem = s.mem := rfl
@[simp] theorem setCore_poison (s : State) (k : Nat) (c : Core) : (s.setCore k c).poison = s.poison := rfl
@[simp] theorem setCore_soft (s : State) (k : Nat) (c : Core) : (s.setCore k c).soft = s.soft := rfl
@[simp] theorem setCore_framePoison (s : State) (k : Nat) (c : Core) : (s.setCore k c).framePoison = s.framePoison := rfl
@[simp] theorem setCore_code (s : State) (k : Nat) (c : Core) : (s.setCore k c).code = s.code := rfl
@[simp] theorem setCore_clusters (s : State) (k : Nat) (c : Core) : (s.setCore k c).clusters = s.clusters := rfl
@[simp] theorem setCore_dies (s : State) (k : Nat) (c : Core) : (s.setCore k c).dies = s.dies := rfl
@[simp] theorem setCore_pkgs (s : State) (k : Nat) (c : Core) : (s.setCore k c).pkgs = s.pkgs := rfl
@[simp] theorem setCore_agenda (s : State) (k : Nat) (c : Core) : (s.setCore k c).agenda = s.agenda := rfl
@[simp] theorem setCore_turn (s : State) (k : Nat) (c : Core) : (s.setCore k c).turn = s.turn := rfl
@[simp] theorem setCore_round (s : State) (k : Nat) (c : Core) : (s.setCore k c).round = s.round := rfl
@[simp] theorem setCore_ahead (s : State) (k : Nat) (c : Core) : (s.setCore k c).ahead = s.ahead := rfl
@[simp] theorem setCore_caching (s : State) (k : Nat) (c : Core) : (s.setCore k c).caching = s.caching := rfl
@[simp] theorem setCore_translating (s : State) (k : Nat) (c : Core) : (s.setCore k c).translating = s.translating := rfl
@[simp] theorem setCore_free (s : State) (k : Nat) (c : Core) : (s.setCore k c).free = s.free := rfl
@[simp] theorem cluster_setCore (s : State) (k j : Nat) (c : Core) : (s.setCore k c).cluster j = s.cluster j := rfl
@[simp] theorem die_setCore (s : State) (k j : Nat) (c : Core) : (s.setCore k c).die j = s.die j := rfl
@[simp] theorem pkg_setCore (s : State) (k j : Nat) (c : Core) : (s.setCore k c).pkg j = s.pkg j := rfl
@[simp] theorem thread_setCore (s : State) (k j : Nat) (c : Core) : (s.setCore k c).thread j = s.thread j := rfl
@[simp] theorem core_setCore_same (s : State) (k : Nat) (c : Core) : (s.setCore k c).core k = c := look_put_same _ _ _ _
theorem core_setCore_ne (s : State) (k j : Nat) (c : Core) (h : j ≠ k) : (s.setCore k c).core j = s.core j := look_put_ne _ _ _ _ _ h

@[simp] theorem setCluster_cur (s : State) (k : Nat) (c : Cluster) : (s.setCluster k c).cur = s.cur := rfl
@[simp] theorem setCluster_th (s : State) (k : Nat) (c : Cluster) : (s.setCluster k c).th = s.th := rfl
@[simp] theorem setCluster_parked (s : State) (k : Nat) (c : Cluster) : (s.setCluster k c).parked = s.parked := rfl
@[simp] theorem setCluster_mem (s : State) (k : Nat) (c : Cluster) : (s.setCluster k c).mem = s.mem := rfl
@[simp] theorem setCluster_poison (s : State) (k : Nat) (c : Cluster) : (s.setCluster k c).poison = s.poison := rfl
@[simp] theorem setCluster_soft (s : State) (k : Nat) (c : Cluster) : (s.setCluster k c).soft = s.soft := rfl
@[simp] theorem setCluster_framePoison (s : State) (k : Nat) (c : Cluster) : (s.setCluster k c).framePoison = s.framePoison := rfl
@[simp] theorem setCluster_code (s : State) (k : Nat) (c : Cluster) : (s.setCluster k c).code = s.code := rfl
@[simp] theorem setCluster_cores (s : State) (k : Nat) (c : Cluster) : (s.setCluster k c).cores = s.cores := rfl
@[simp] theorem setCluster_dies (s : State) (k : Nat) (c : Cluster) : (s.setCluster k c).dies = s.dies := rfl
@[simp] theorem setCluster_pkgs (s : State) (k : Nat) (c : Cluster) : (s.setCluster k c).pkgs = s.pkgs := rfl
@[simp] theorem setCluster_agenda (s : State) (k : Nat) (c : Cluster) : (s.setCluster k c).agenda = s.agenda := rfl
@[simp] theorem setCluster_turn (s : State) (k : Nat) (c : Cluster) : (s.setCluster k c).turn = s.turn := rfl
@[simp] theorem setCluster_round (s : State) (k : Nat) (c : Cluster) : (s.setCluster k c).round = s.round := rfl
@[simp] theorem setCluster_ahead (s : State) (k : Nat) (c : Cluster) : (s.setCluster k c).ahead = s.ahead := rfl
@[simp] theorem setCluster_caching (s : State) (k : Nat) (c : Cluster) : (s.setCluster k c).caching = s.caching := rfl
@[simp] theorem setCluster_translating (s : State) (k : Nat) (c : Cluster) : (s.setCluster k c).translating = s.translating := rfl
@[simp] theorem setCluster_free (s : State) (k : Nat) (c : Cluster) : (s.setCluster k c).free = s.free := rfl
@[simp] theorem core_setCluster (s : State) (k j : Nat) (c : Cluster) : (s.setCluster k c).core j = s.core j := rfl
@[simp] theorem die_setCluster (s : State) (k j : Nat) (c : Cluster) : (s.setCluster k c).die j = s.die j := rfl
@[simp] theorem pkg_setCluster (s : State) (k j : Nat) (c : Cluster) : (s.setCluster k c).pkg j = s.pkg j := rfl
@[simp] theorem thread_setCluster (s : State) (k j : Nat) (c : Cluster) : (s.setCluster k c).thread j = s.thread j := rfl
@[simp] theorem cluster_setCluster_same (s : State) (k : Nat) (c : Cluster) : (s.setCluster k c).cluster k = c := look_put_same _ _ _ _
theorem cluster_setCluster_ne (s : State) (k j : Nat) (c : Cluster) (h : j ≠ k) : (s.setCluster k c).cluster j = s.cluster j := look_put_ne _ _ _ _ _ h

@[simp] theorem setDie_cur (s : State) (k : Nat) (c : Die) : (s.setDie k c).cur = s.cur := rfl
@[simp] theorem setDie_th (s : State) (k : Nat) (c : Die) : (s.setDie k c).th = s.th := rfl
@[simp] theorem setDie_parked (s : State) (k : Nat) (c : Die) : (s.setDie k c).parked = s.parked := rfl
@[simp] theorem setDie_mem (s : State) (k : Nat) (c : Die) : (s.setDie k c).mem = s.mem := rfl
@[simp] theorem setDie_poison (s : State) (k : Nat) (c : Die) : (s.setDie k c).poison = s.poison := rfl
@[simp] theorem setDie_soft (s : State) (k : Nat) (c : Die) : (s.setDie k c).soft = s.soft := rfl
@[simp] theorem setDie_framePoison (s : State) (k : Nat) (c : Die) : (s.setDie k c).framePoison = s.framePoison := rfl
@[simp] theorem setDie_code (s : State) (k : Nat) (c : Die) : (s.setDie k c).code = s.code := rfl
@[simp] theorem setDie_cores (s : State) (k : Nat) (c : Die) : (s.setDie k c).cores = s.cores := rfl
@[simp] theorem setDie_clusters (s : State) (k : Nat) (c : Die) : (s.setDie k c).clusters = s.clusters := rfl
@[simp] theorem setDie_pkgs (s : State) (k : Nat) (c : Die) : (s.setDie k c).pkgs = s.pkgs := rfl
@[simp] theorem setDie_agenda (s : State) (k : Nat) (c : Die) : (s.setDie k c).agenda = s.agenda := rfl
@[simp] theorem setDie_turn (s : State) (k : Nat) (c : Die) : (s.setDie k c).turn = s.turn := rfl
@[simp] theorem setDie_round (s : State) (k : Nat) (c : Die) : (s.setDie k c).round = s.round := rfl
@[simp] theorem setDie_ahead (s : State) (k : Nat) (c : Die) : (s.setDie k c).ahead = s.ahead := rfl
@[simp] theorem setDie_caching (s : State) (k : Nat) (c : Die) : (s.setDie k c).caching = s.caching := rfl
@[simp] theorem setDie_translating (s : State) (k : Nat) (c : Die) : (s.setDie k c).translating = s.translating := rfl
@[simp] theorem setDie_free (s : State) (k : Nat) (c : Die) : (s.setDie k c).free = s.free := rfl
@[simp] theorem core_setDie (s : State) (k j : Nat) (c : Die) : (s.setDie k c).core j = s.core j := rfl
@[simp] theorem cluster_setDie (s : State) (k j : Nat) (c : Die) : (s.setDie k c).cluster j = s.cluster j := rfl
@[simp] theorem pkg_setDie (s : State) (k j : Nat) (c : Die) : (s.setDie k c).pkg j = s.pkg j := rfl
@[simp] theorem thread_setDie (s : State) (k j : Nat) (c : Die) : (s.setDie k c).thread j = s.thread j := rfl
@[simp] theorem die_setDie_same (s : State) (k : Nat) (c : Die) : (s.setDie k c).die k = c := look_put_same _ _ _ _
theorem die_setDie_ne (s : State) (k j : Nat) (c : Die) (h : j ≠ k) : (s.setDie k c).die j = s.die j := look_put_ne _ _ _ _ _ h

@[simp] theorem setPkg_cur (s : State) (k : Nat) (c : Package) : (s.setPkg k c).cur = s.cur := rfl
@[simp] theorem setPkg_th (s : State) (k : Nat) (c : Package) : (s.setPkg k c).th = s.th := rfl
@[simp] theorem setPkg_parked (s : State) (k : Nat) (c : Package) : (s.setPkg k c).parked = s.parked := rfl
@[simp] theorem setPkg_mem (s : State) (k : Nat) (c : Package) : (s.setPkg k c).mem = s.mem := rfl
@[simp] theorem setPkg_poison (s : State) (k : Nat) (c : Package) : (s.setPkg k c).poison = s.poison := rfl
@[simp] theorem setPkg_soft (s : State) (k : Nat) (c : Package) : (s.setPkg k c).soft = s.soft := rfl
@[simp] theorem setPkg_framePoison (s : State) (k : Nat) (c : Package) : (s.setPkg k c).framePoison = s.framePoison := rfl
@[simp] theorem setPkg_code (s : State) (k : Nat) (c : Package) : (s.setPkg k c).code = s.code := rfl
@[simp] theorem setPkg_cores (s : State) (k : Nat) (c : Package) : (s.setPkg k c).cores = s.cores := rfl
@[simp] theorem setPkg_clusters (s : State) (k : Nat) (c : Package) : (s.setPkg k c).clusters = s.clusters := rfl
@[simp] theorem setPkg_dies (s : State) (k : Nat) (c : Package) : (s.setPkg k c).dies = s.dies := rfl
@[simp] theorem setPkg_agenda (s : State) (k : Nat) (c : Package) : (s.setPkg k c).agenda = s.agenda := rfl
@[simp] theorem setPkg_turn (s : State) (k : Nat) (c : Package) : (s.setPkg k c).turn = s.turn := rfl
@[simp] theorem setPkg_round (s : State) (k : Nat) (c : Package) : (s.setPkg k c).round = s.round := rfl
@[simp] theorem setPkg_ahead (s : State) (k : Nat) (c : Package) : (s.setPkg k c).ahead = s.ahead := rfl
@[simp] theorem setPkg_caching (s : State) (k : Nat) (c : Package) : (s.setPkg k c).caching = s.caching := rfl
@[simp] theorem setPkg_translating (s : State) (k : Nat) (c : Package) : (s.setPkg k c).translating = s.translating := rfl
@[simp] theorem setPkg_free (s : State) (k : Nat) (c : Package) : (s.setPkg k c).free = s.free := rfl
@[simp] theorem core_setPkg (s : State) (k j : Nat) (c : Package) : (s.setPkg k c).core j = s.core j := rfl
@[simp] theorem cluster_setPkg (s : State) (k j : Nat) (c : Package) : (s.setPkg k c).cluster j = s.cluster j := rfl
@[simp] theorem die_setPkg (s : State) (k j : Nat) (c : Package) : (s.setPkg k c).die j = s.die j := rfl
@[simp] theorem thread_setPkg (s : State) (k j : Nat) (c : Package) : (s.setPkg k c).thread j = s.thread j := rfl
@[simp] theorem pkg_setPkg_same (s : State) (k : Nat) (c : Package) : (s.setPkg k c).pkg k = c := look_put_same _ _ _ _
theorem pkg_setPkg_ne (s : State) (k j : Nat) (c : Package) (h : j ≠ k) : (s.setPkg k c).pkg j = s.pkg j := look_put_ne _ _ _ _ _ h

/-! ## The threads -/

theorem thread_setThread_same (s : State) (k : Nat) (t : Thread) : (s.setThread k t).thread k = t := by
  by_cases h : k = s.cur <;> simp [State.setThread, State.thread, h]

theorem thread_setThread_ne (s : State) (k j : Nat) (t : Thread) (h : j ≠ k) : (s.setThread k t).thread j = s.thread j := by
  by_cases hk : k = s.cur
  · subst hk; simp [State.setThread, State.thread, h]
  · by_cases hj : j = s.cur
    · simp [State.setThread, State.thread, hk, hj]
    · simp [State.setThread, State.thread, hk, hj, look_put_ne _ _ _ _ _ h]

@[simp] theorem focus_th (s : State) (k : Nat) : (s.focus k).th = s.thread k := by
  by_cases h : k = s.cur <;> simp [State.focus, State.thread, h]

@[simp] theorem focus_thread (s : State) (k j : Nat) : (s.focus k).thread j = s.thread j := by
  by_cases h : k = s.cur
  · simp [State.focus, h]
  · by_cases hj : j = k
    · subst hj; simp [State.focus, State.thread, h]
    · by_cases hc : j = s.cur
      · subst hc; simp [State.focus, State.thread, h, hj, look_drop_ne _ _ _ _ hj]
      · simp [State.focus, State.thread, h, hj, hc, look_drop_ne _ _ _ _ hj, look_put_ne _ _ _ _ _ hc]

@[simp] theorem focus_mem (s : State) (k : Nat) : (s.focus k).mem = s.mem := by unfold State.focus; split <;> rfl
@[simp] theorem setThread_mem (s : State) (k : Nat) (t : Thread) : (s.setThread k t).mem = s.mem := by unfold State.setThread; split <;> rfl
@[simp] theorem focus_poison (s : State) (k : Nat) : (s.focus k).poison = s.poison := by unfold State.focus; split <;> rfl
@[simp] theorem setThread_poison (s : State) (k : Nat) (t : Thread) : (s.setThread k t).poison = s.poison := by unfold State.setThread; split <;> rfl
@[simp] theorem focus_soft (s : State) (k : Nat) : (s.focus k).soft = s.soft := by unfold State.focus; split <;> rfl
@[simp] theorem setThread_soft (s : State) (k : Nat) (t : Thread) : (s.setThread k t).soft = s.soft := by unfold State.setThread; split <;> rfl
@[simp] theorem focus_framePoison (s : State) (k : Nat) : (s.focus k).framePoison = s.framePoison := by unfold State.focus; split <;> rfl
@[simp] theorem setThread_framePoison (s : State) (k : Nat) (t : Thread) : (s.setThread k t).framePoison = s.framePoison := by unfold State.setThread; split <;> rfl
@[simp] theorem focus_code (s : State) (k : Nat) : (s.focus k).code = s.code := by unfold State.focus; split <;> rfl
@[simp] theorem setThread_code (s : State) (k : Nat) (t : Thread) : (s.setThread k t).code = s.code := by unfold State.setThread; split <;> rfl
@[simp] theorem focus_cores (s : State) (k : Nat) : (s.focus k).cores = s.cores := by unfold State.focus; split <;> rfl
@[simp] theorem setThread_cores (s : State) (k : Nat) (t : Thread) : (s.setThread k t).cores = s.cores := by unfold State.setThread; split <;> rfl
@[simp] theorem focus_clusters (s : State) (k : Nat) : (s.focus k).clusters = s.clusters := by unfold State.focus; split <;> rfl
@[simp] theorem setThread_clusters (s : State) (k : Nat) (t : Thread) : (s.setThread k t).clusters = s.clusters := by unfold State.setThread; split <;> rfl
@[simp] theorem focus_dies (s : State) (k : Nat) : (s.focus k).dies = s.dies := by unfold State.focus; split <;> rfl
@[simp] theorem setThread_dies (s : State) (k : Nat) (t : Thread) : (s.setThread k t).dies = s.dies := by unfold State.setThread; split <;> rfl
@[simp] theorem focus_pkgs (s : State) (k : Nat) : (s.focus k).pkgs = s.pkgs := by unfold State.focus; split <;> rfl
@[simp] theorem setThread_pkgs (s : State) (k : Nat) (t : Thread) : (s.setThread k t).pkgs = s.pkgs := by unfold State.setThread; split <;> rfl
@[simp] theorem focus_agenda (s : State) (k : Nat) : (s.focus k).agenda = s.agenda := by unfold State.focus; split <;> rfl
@[simp] theorem setThread_agenda (s : State) (k : Nat) (t : Thread) : (s.setThread k t).agenda = s.agenda := by unfold State.setThread; split <;> rfl
@[simp] theorem focus_turn (s : State) (k : Nat) : (s.focus k).turn = s.turn := by unfold State.focus; split <;> rfl
@[simp] theorem setThread_turn (s : State) (k : Nat) (t : Thread) : (s.setThread k t).turn = s.turn := by unfold State.setThread; split <;> rfl
@[simp] theorem focus_round (s : State) (k : Nat) : (s.focus k).round = s.round := by unfold State.focus; split <;> rfl
@[simp] theorem setThread_round (s : State) (k : Nat) (t : Thread) : (s.setThread k t).round = s.round := by unfold State.setThread; split <;> rfl
@[simp] theorem focus_ahead (s : State) (k : Nat) : (s.focus k).ahead = s.ahead := by unfold State.focus; split <;> rfl
@[simp] theorem setThread_ahead (s : State) (k : Nat) (t : Thread) : (s.setThread k t).ahead = s.ahead := by unfold State.setThread; split <;> rfl
@[simp] theorem focus_caching (s : State) (k : Nat) : (s.focus k).caching = s.caching := by unfold State.focus; split <;> rfl
@[simp] theorem setThread_caching (s : State) (k : Nat) (t : Thread) : (s.setThread k t).caching = s.caching := by unfold State.setThread; split <;> rfl
@[simp] theorem focus_translating (s : State) (k : Nat) : (s.focus k).translating = s.translating := by unfold State.focus; split <;> rfl
@[simp] theorem setThread_translating (s : State) (k : Nat) (t : Thread) : (s.setThread k t).translating = s.translating := by unfold State.setThread; split <;> rfl
@[simp] theorem focus_free (s : State) (k : Nat) : (s.focus k).free = s.free := by unfold State.focus; split <;> rfl
@[simp] theorem setThread_free (s : State) (k : Nat) (t : Thread) : (s.setThread k t).free = s.free := by unfold State.setThread; split <;> rfl
@[simp] theorem setThread_cur (s : State) (k : Nat) (t : Thread) : (s.setThread k t).cur = s.cur := by unfold State.setThread; split <;> rfl

/-! ## A scalar register, a handle, and a commit -/

@[simp] theorem wx_cur (s : State) (d : BitVec 5) (v : Word) : (s.wx d v).cur = s.cur := rfl
@[simp] theorem setHandle_cur (s : State) (d : BitVec 4) (h : BitVec 256) : (s.setHandle d h).cur = s.cur := rfl
@[simp] theorem advance_cur (s : State) : s.advance.cur = s.cur := rfl
@[simp] theorem ret_cur (s : State) (d : BitVec 5) (v : Word) : (s.ret d v).cur = s.cur := rfl
@[simp] theorem wx_parked (s : State) (d : BitVec 5) (v : Word) : (s.wx d v).parked = s.parked := rfl
@[simp] theorem setHandle_parked (s : State) (d : BitVec 4) (h : BitVec 256) : (s.setHandle d h).parked = s.parked := rfl
@[simp] theorem advance_parked (s : State) : s.advance.parked = s.parked := rfl
@[simp] theorem ret_parked (s : State) (d : BitVec 5) (v : Word) : (s.ret d v).parked = s.parked := rfl
@[simp] theorem wx_mem (s : State) (d : BitVec 5) (v : Word) : (s.wx d v).mem = s.mem := rfl
@[simp] theorem setHandle_mem (s : State) (d : BitVec 4) (h : BitVec 256) : (s.setHandle d h).mem = s.mem := rfl
@[simp] theorem advance_mem (s : State) : s.advance.mem = s.mem := rfl
@[simp] theorem ret_mem (s : State) (d : BitVec 5) (v : Word) : (s.ret d v).mem = s.mem := rfl
@[simp] theorem wx_poison (s : State) (d : BitVec 5) (v : Word) : (s.wx d v).poison = s.poison := rfl
@[simp] theorem setHandle_poison (s : State) (d : BitVec 4) (h : BitVec 256) : (s.setHandle d h).poison = s.poison := rfl
@[simp] theorem advance_poison (s : State) : s.advance.poison = s.poison := rfl
@[simp] theorem ret_poison (s : State) (d : BitVec 5) (v : Word) : (s.ret d v).poison = s.poison := rfl
@[simp] theorem wx_soft (s : State) (d : BitVec 5) (v : Word) : (s.wx d v).soft = s.soft := rfl
@[simp] theorem setHandle_soft (s : State) (d : BitVec 4) (h : BitVec 256) : (s.setHandle d h).soft = s.soft := rfl
@[simp] theorem advance_soft (s : State) : s.advance.soft = s.soft := rfl
@[simp] theorem ret_soft (s : State) (d : BitVec 5) (v : Word) : (s.ret d v).soft = s.soft := rfl
@[simp] theorem wx_framePoison (s : State) (d : BitVec 5) (v : Word) : (s.wx d v).framePoison = s.framePoison := rfl
@[simp] theorem setHandle_framePoison (s : State) (d : BitVec 4) (h : BitVec 256) : (s.setHandle d h).framePoison = s.framePoison := rfl
@[simp] theorem advance_framePoison (s : State) : s.advance.framePoison = s.framePoison := rfl
@[simp] theorem ret_framePoison (s : State) (d : BitVec 5) (v : Word) : (s.ret d v).framePoison = s.framePoison := rfl
@[simp] theorem wx_code (s : State) (d : BitVec 5) (v : Word) : (s.wx d v).code = s.code := rfl
@[simp] theorem setHandle_code (s : State) (d : BitVec 4) (h : BitVec 256) : (s.setHandle d h).code = s.code := rfl
@[simp] theorem advance_code (s : State) : s.advance.code = s.code := rfl
@[simp] theorem ret_code (s : State) (d : BitVec 5) (v : Word) : (s.ret d v).code = s.code := rfl
@[simp] theorem wx_cores (s : State) (d : BitVec 5) (v : Word) : (s.wx d v).cores = s.cores := rfl
@[simp] theorem setHandle_cores (s : State) (d : BitVec 4) (h : BitVec 256) : (s.setHandle d h).cores = s.cores := rfl
@[simp] theorem advance_cores (s : State) : s.advance.cores = s.cores := rfl
@[simp] theorem ret_cores (s : State) (d : BitVec 5) (v : Word) : (s.ret d v).cores = s.cores := rfl
@[simp] theorem wx_clusters (s : State) (d : BitVec 5) (v : Word) : (s.wx d v).clusters = s.clusters := rfl
@[simp] theorem setHandle_clusters (s : State) (d : BitVec 4) (h : BitVec 256) : (s.setHandle d h).clusters = s.clusters := rfl
@[simp] theorem advance_clusters (s : State) : s.advance.clusters = s.clusters := rfl
@[simp] theorem ret_clusters (s : State) (d : BitVec 5) (v : Word) : (s.ret d v).clusters = s.clusters := rfl
@[simp] theorem wx_dies (s : State) (d : BitVec 5) (v : Word) : (s.wx d v).dies = s.dies := rfl
@[simp] theorem setHandle_dies (s : State) (d : BitVec 4) (h : BitVec 256) : (s.setHandle d h).dies = s.dies := rfl
@[simp] theorem advance_dies (s : State) : s.advance.dies = s.dies := rfl
@[simp] theorem ret_dies (s : State) (d : BitVec 5) (v : Word) : (s.ret d v).dies = s.dies := rfl
@[simp] theorem wx_pkgs (s : State) (d : BitVec 5) (v : Word) : (s.wx d v).pkgs = s.pkgs := rfl
@[simp] theorem setHandle_pkgs (s : State) (d : BitVec 4) (h : BitVec 256) : (s.setHandle d h).pkgs = s.pkgs := rfl
@[simp] theorem advance_pkgs (s : State) : s.advance.pkgs = s.pkgs := rfl
@[simp] theorem ret_pkgs (s : State) (d : BitVec 5) (v : Word) : (s.ret d v).pkgs = s.pkgs := rfl
@[simp] theorem wx_agenda (s : State) (d : BitVec 5) (v : Word) : (s.wx d v).agenda = s.agenda := rfl
@[simp] theorem setHandle_agenda (s : State) (d : BitVec 4) (h : BitVec 256) : (s.setHandle d h).agenda = s.agenda := rfl
@[simp] theorem advance_agenda (s : State) : s.advance.agenda = s.agenda := rfl
@[simp] theorem ret_agenda (s : State) (d : BitVec 5) (v : Word) : (s.ret d v).agenda = s.agenda := rfl
@[simp] theorem wx_turn (s : State) (d : BitVec 5) (v : Word) : (s.wx d v).turn = s.turn := rfl
@[simp] theorem setHandle_turn (s : State) (d : BitVec 4) (h : BitVec 256) : (s.setHandle d h).turn = s.turn := rfl
@[simp] theorem advance_turn (s : State) : s.advance.turn = s.turn := rfl
@[simp] theorem ret_turn (s : State) (d : BitVec 5) (v : Word) : (s.ret d v).turn = s.turn := rfl
@[simp] theorem wx_round (s : State) (d : BitVec 5) (v : Word) : (s.wx d v).round = s.round := rfl
@[simp] theorem setHandle_round (s : State) (d : BitVec 4) (h : BitVec 256) : (s.setHandle d h).round = s.round := rfl
@[simp] theorem advance_round (s : State) : s.advance.round = s.round := rfl
@[simp] theorem ret_round (s : State) (d : BitVec 5) (v : Word) : (s.ret d v).round = s.round := rfl
@[simp] theorem wx_ahead (s : State) (d : BitVec 5) (v : Word) : (s.wx d v).ahead = s.ahead := rfl
@[simp] theorem setHandle_ahead (s : State) (d : BitVec 4) (h : BitVec 256) : (s.setHandle d h).ahead = s.ahead := rfl
@[simp] theorem advance_ahead (s : State) : s.advance.ahead = s.ahead := rfl
@[simp] theorem ret_ahead (s : State) (d : BitVec 5) (v : Word) : (s.ret d v).ahead = s.ahead := rfl
@[simp] theorem wx_caching (s : State) (d : BitVec 5) (v : Word) : (s.wx d v).caching = s.caching := rfl
@[simp] theorem setHandle_caching (s : State) (d : BitVec 4) (h : BitVec 256) : (s.setHandle d h).caching = s.caching := rfl
@[simp] theorem advance_caching (s : State) : s.advance.caching = s.caching := rfl
@[simp] theorem ret_caching (s : State) (d : BitVec 5) (v : Word) : (s.ret d v).caching = s.caching := rfl
@[simp] theorem wx_translating (s : State) (d : BitVec 5) (v : Word) : (s.wx d v).translating = s.translating := rfl
@[simp] theorem setHandle_translating (s : State) (d : BitVec 4) (h : BitVec 256) : (s.setHandle d h).translating = s.translating := rfl
@[simp] theorem advance_translating (s : State) : s.advance.translating = s.translating := rfl
@[simp] theorem ret_translating (s : State) (d : BitVec 5) (v : Word) : (s.ret d v).translating = s.translating := rfl
@[simp] theorem wx_free (s : State) (d : BitVec 5) (v : Word) : (s.wx d v).free = s.free := rfl
@[simp] theorem setHandle_free (s : State) (d : BitVec 4) (h : BitVec 256) : (s.setHandle d h).free = s.free := rfl
@[simp] theorem advance_free (s : State) : s.advance.free = s.free := rfl
@[simp] theorem ret_free (s : State) (d : BitVec 5) (v : Word) : (s.ret d v).free = s.free := rfl
@[simp] theorem advance_th (s : State) : s.advance.th = s.th.advance := rfl
@[simp] theorem ret_th (s : State) (d : BitVec 5) (v : Word) : (s.ret d v).th = (s.th.wx d v).advance := rfl

/-- The loop-end check changes the iteration counts and LDEPTH only. -/
theorem loopEnd_frame (t : Thread) (a : Word) (n : Nat) :
    ∃ lc ld, (loopEnd t a n).2 = { t with lc := lc, ldepth := ld } := by
  induction n generalizing t with
  | zero => exact ⟨_, _, rfl⟩
  | succ n ih =>
    simp only [loopEnd]
    split
    · exact ⟨_, _, rfl⟩
    · split
      · exact ⟨_, _, rfl⟩
      · obtain ⟨lc, ld, h⟩ := ih { t with lc := vwrite t.lc n 0, ldepth := BitVec.ofNat 2 n }
        exact ⟨lc, ld, by rw [h]⟩

/-- The bookkeeping of a commit changes the resume point, the wait, and the copies of feeds, tile slots and the queue only. -/
theorem settle_frame (t : Thread) :
    ∃ fa ta vq, t.settle = { t with gsuf := 0, gv := false, wait := none, feedsArch := fa, tilesArch := ta, vq := vq } := by
  unfold Thread.settle
  split
  · next h => exact ⟨_, _, t.vq, rfl⟩
  · exact ⟨t.feedsArch, t.tilesArch, _, rfl⟩

/-- Everything a commit can change of a thread (R110, R111). -/
theorem advance_frame (t : Thread) : ∃ pc lc ld fa ta vq, t.advance
    = { t with pc := pc, lc := lc, ldepth := ld, gsuf := 0, gv := false, wait := none, feedsArch := fa, tilesArch := ta, vq := vq } := by
  obtain ⟨lc, ld, h⟩ := loopEnd_frame t t.pc t.ldepth.toNat
  obtain ⟨fa, ta, vq, h'⟩ := settle_frame { (loopEnd t t.pc t.ldepth.toNat).2 with pc := (loopEnd t t.pc t.ldepth.toNat).1 }
  exact ⟨_, lc, ld, fa, ta, vq, by
    show Thread.settle { (loopEnd t t.pc t.ldepth.toNat).2 with pc := (loopEnd t t.pc t.ldepth.toNat).1 } = _
    rw [h', h]⟩

@[simp] theorem thread_advance_slot (t : Thread) : t.advance.slot = t.slot := by obtain ⟨_, _, _, _, _, _, h⟩ := advance_frame t; rw [h]
@[simp] theorem thread_advance_sys (t : Thread) : t.advance.sys = t.sys := by obtain ⟨_, _, _, _, _, _, h⟩ := advance_frame t; rw [h]
@[simp] theorem thread_advance_asid (t : Thread) : t.advance.asid = t.asid := by obtain ⟨_, _, _, _, _, _, h⟩ := advance_frame t; rw [h]
@[simp] theorem thread_advance_pbase (t : Thread) : t.advance.pbase = t.pbase := by obtain ⟨_, _, _, _, _, _, h⟩ := advance_frame t; rw [h]
@[simp] theorem thread_advance_psize (t : Thread) : t.advance.psize = t.psize := by obtain ⟨_, _, _, _, _, _, h⟩ := advance_frame t; rw [h]
@[simp] theorem thread_advance_gang (t : Thread) : t.advance.gang = t.gang := by obtain ⟨_, _, _, _, _, _, h⟩ := advance_frame t; rw [h]
@[simp] theorem thread_advance_gangHigh (t : Thread) : t.advance.gangHigh = t.gangHigh := by obtain ⟨_, _, _, _, _, _, h⟩ := advance_frame t; rw [h]
@[simp] theorem thread_advance_grp (t : Thread) : t.advance.grp = t.grp := by obtain ⟨_, _, _, _, _, _, h⟩ := advance_frame t; rw [h]
@[simp] theorem thread_advance_frame (t : Thread) : t.advance.frame = t.frame := by obtain ⟨_, _, _, _, _, _, h⟩ := advance_frame t; rw [h]
@[simp] theorem thread_advance_x (t : Thread) : t.advance.x = t.x := by obtain ⟨_, _, _, _, _, _, h⟩ := advance_frame t; rw [h]
@[simp] theorem thread_advance_gsuf (t : Thread) : t.advance.gsuf = 0 := by obtain ⟨_, _, _, _, _, _, h⟩ := advance_frame t; rw [h]
@[simp] theorem thread_advance_gv (t : Thread) : t.advance.gv = false := by obtain ⟨_, _, _, _, _, _, h⟩ := advance_frame t; rw [h]
@[simp] theorem thread_advance_v (t : Thread) : t.advance.v = t.v := by obtain ⟨_, _, _, _, _, _, h⟩ := advance_frame t; rw [h]
@[simp] theorem thread_advance_prog (t : Thread) : t.advance.prog = t.prog := by obtain ⟨_, _, _, _, _, _, h⟩ := advance_frame t; rw [h]
@[simp] theorem thread_advance_m (t : Thread) : t.advance.m = t.m := by obtain ⟨_, _, _, _, _, _, h⟩ := advance_frame t; rw [h]
@[simp] theorem thread_advance_ms (t : Thread) : t.advance.ms = t.ms := by obtain ⟨_, _, _, _, _, _, h⟩ := advance_frame t; rw [h]
@[simp] theorem thread_advance_msdepth (t : Thread) : t.advance.msdepth = t.msdepth := by obtain ⟨_, _, _, _, _, _, h⟩ := advance_frame t; rw [h]
@[simp] theorem thread_advance_ic (t : Thread) : t.advance.ic = t.ic := by obtain ⟨_, _, _, _, _, _, h⟩ := advance_frame t; rw [h]
@[simp] theorem thread_advance_cc (t : Thread) : t.advance.cc = t.cc := by obtain ⟨_, _, _, _, _, _, h⟩ := advance_frame t; rw [h]
@[simp] theorem thread_advance_ops (t : Thread) : t.advance.ops = t.ops := by obtain ⟨_, _, _, _, _, _, h⟩ := advance_frame t; rw [h]
@[simp] theorem thread_advance_nextOp (t : Thread) : t.advance.nextOp = t.nextOp := by obtain ⟨_, _, _, _, _, _, h⟩ := advance_frame t; rw [h]
@[simp] theorem thread_advance_pend (t : Thread) : t.advance.pend = t.pend := by obtain ⟨_, _, _, _, _, _, h⟩ := advance_frame t; rw [h]
@[simp] theorem thread_advance_e (t : Thread) : t.advance.e = t.e := by obtain ⟨_, _, _, _, _, _, h⟩ := advance_frame t; rw [h]
@[simp] theorem thread_advance_h (t : Thread) : t.advance.h = t.h := by obtain ⟨_, _, _, _, _, _, h⟩ := advance_frame t; rw [h]
@[simp] theorem thread_advance_feeds (t : Thread) : t.advance.feeds = t.feeds := by obtain ⟨_, _, _, _, _, _, h⟩ := advance_frame t; rw [h]
@[simp] theorem thread_advance_tiles (t : Thread) : t.advance.tiles = t.tiles := by obtain ⟨_, _, _, _, _, _, h⟩ := advance_frame t; rw [h]
@[simp] theorem thread_advance_acc (t : Thread) : t.advance.acc = t.acc := by obtain ⟨_, _, _, _, _, _, h⟩ := advance_frame t; rw [h]
@[simp] theorem thread_advance_rows (t : Thread) : t.advance.rows = t.rows := by obtain ⟨_, _, _, _, _, _, h⟩ := advance_frame t; rw [h]
@[simp] theorem thread_advance_ls (t : Thread) : t.advance.ls = t.ls := by obtain ⟨_, _, _, _, _, _, h⟩ := advance_frame t; rw [h]
@[simp] theorem thread_advance_le (t : Thread) : t.advance.le = t.le := by obtain ⟨_, _, _, _, _, _, h⟩ := advance_frame t; rw [h]
@[simp] theorem thread_advance_vl (t : Thread) : t.advance.vl = t.vl := by obtain ⟨_, _, _, _, _, _, h⟩ := advance_frame t; rw [h]
@[simp] theorem thread_advance_vtype (t : Thread) : t.advance.vtype = t.vtype := by obtain ⟨_, _, _, _, _, _, h⟩ := advance_frame t; rw [h]
@[simp] theorem thread_advance_cols (t : Thread) : t.advance.cols = t.cols := by obtain ⟨_, _, _, _, _, _, h⟩ := advance_frame t; rw [h]
@[simp] theorem thread_advance_window (t : Thread) : t.advance.window = t.window := by obtain ⟨_, _, _, _, _, _, h⟩ := advance_frame t; rw [h]
@[simp] theorem thread_advance_fcs (t : Thread) : t.advance.fcs = t.fcs := by obtain ⟨_, _, _, _, _, _, h⟩ := advance_frame t; rw [h]
@[simp] theorem thread_advance_srnd (t : Thread) : t.advance.srnd = t.srnd := by obtain ⟨_, _, _, _, _, _, h⟩ := advance_frame t; rw [h]
@[simp] theorem thread_advance_priv (t : Thread) : t.advance.priv = t.priv := by obtain ⟨_, _, _, _, _, _, h⟩ := advance_frame t; rw [h]
@[simp] theorem thread_advance_inh (t : Thread) : t.advance.inh = t.inh := by obtain ⟨_, _, _, _, _, _, h⟩ := advance_frame t; rw [h]
@[simp] theorem thread_advance_ppend (t : Thread) : t.advance.ppend = t.ppend := by obtain ⟨_, _, _, _, _, _, h⟩ := advance_frame t; rw [h]
@[simp] theorem thread_advance_tvec (t : Thread) : t.advance.tvec = t.tvec := by obtain ⟨_, _, _, _, _, _, h⟩ := advance_frame t; rw [h]
@[simp] theorem thread_advance_troute0 (t : Thread) : t.advance.troute0 = t.troute0 := by obtain ⟨_, _, _, _, _, _, h⟩ := advance_frame t; rw [h]
@[simp] theorem thread_advance_troute1 (t : Thread) : t.advance.troute1 = t.troute1 := by obtain ⟨_, _, _, _, _, _, h⟩ := advance_frame t; rw [h]
@[simp] theorem thread_advance_framep (t : Thread) : t.advance.framep = t.framep := by obtain ⟨_, _, _, _, _, _, h⟩ := advance_frame t; rw [h]
@[simp] theorem thread_advance_reports (t : Thread) : t.advance.reports = t.reports := by obtain ⟨_, _, _, _, _, _, h⟩ := advance_frame t; rw [h]
@[simp] theorem thread_advance_alost (t : Thread) : t.advance.alost = t.alost := by obtain ⟨_, _, _, _, _, _, h⟩ := advance_frame t; rw [h]
@[simp] theorem thread_advance_tph (t : Thread) : t.advance.tph = t.tph := by obtain ⟨_, _, _, _, _, _, h⟩ := advance_frame t; rw [h]
@[simp] theorem thread_advance_energy (t : Thread) : t.advance.energy = t.energy := by obtain ⟨_, _, _, _, _, _, h⟩ := advance_frame t; rw [h]
@[simp] theorem thread_advance_charged (t : Thread) : t.advance.charged = t.charged := by obtain ⟨_, _, _, _, _, _, h⟩ := advance_frame t; rw [h]
@[simp] theorem thread_advance_toLoad (t : Thread) : t.advance.toLoad = t.toLoad := by obtain ⟨_, _, _, _, _, _, h⟩ := advance_frame t; rw [h]
@[simp] theorem thread_advance_leaving (t : Thread) : t.advance.leaving = t.leaving := by obtain ⟨_, _, _, _, _, _, h⟩ := advance_frame t; rw [h]
@[simp] theorem thread_advance_badRegs (t : Thread) : t.advance.badRegs = t.badRegs := by obtain ⟨_, _, _, _, _, _, h⟩ := advance_frame t; rw [h]
@[simp] theorem thread_advance_softRegs (t : Thread) : t.advance.softRegs = t.softRegs := by obtain ⟨_, _, _, _, _, _, h⟩ := advance_frame t; rw [h]
@[simp] theorem thread_advance_wait (t : Thread) : t.advance.wait = none := by obtain ⟨_, _, _, _, _, _, h⟩ := advance_frame t; rw [h]
@[simp] theorem thread_advance_stalled (t : Thread) : t.advance.stalled = t.stalled := by obtain ⟨_, _, _, _, _, _, h⟩ := advance_frame t; rw [h]
@[simp] theorem thread_advance_drain (t : Thread) : t.advance.drain = t.drain := by obtain ⟨_, _, _, _, _, _, h⟩ := advance_frame t; rw [h]
@[simp] theorem thread_advance_exh (t : Thread) : t.advance.exh = t.exh := by obtain ⟨_, _, _, _, _, _, h⟩ := advance_frame t; rw [h]
@[simp] theorem thread_advance_overrun (t : Thread) : t.advance.overrun = t.overrun := by obtain ⟨_, _, _, _, _, _, h⟩ := advance_frame t; rw [h]
@[simp] theorem thread_advance_preload (t : Thread) : t.advance.preload = t.preload := by obtain ⟨_, _, _, _, _, _, h⟩ := advance_frame t; rw [h]
@[simp] theorem thread_advance_stalls (t : Thread) : t.advance.stalls = t.stalls := by obtain ⟨_, _, _, _, _, _, h⟩ := advance_frame t; rw [h]

end Sys2Proof.Machine
end

