-- ==== Sys2Proof/Laws/Translate.lean ====
section
/-! SUPPORT. Translations (13_die_memory.md R303-R305): the addresses of one page are walked alike, and a translation that a die caches when
it takes a request says what the tables say. -/

namespace Sys2Proof.Machine

theorem walkTables_setDie (s : State) (k : Nat) (d : Die) (h : d.asidtab = (s.die k).asidtab) (die : Nat) (asid : BitVec 12) (a : Word) :
    walkTables (s.setDie k d) die asid a = walkTables s die asid a := by
  have ht : ((s.setDie k d).die die).asidtab = (s.die die).asidtab := by
    by_cases e : die = k
    · subst e; simp [h]
    · rw [die_setDie_ne _ _ _ _ e]
  simp only [walkTables, walkEntry, ht]
  rfl

theorem walkLeaf_page {w a b : Word} {n f : Nat} {wr u : Bool} {size : Nat} (h : walkLeaf w a n = .leaf f wr u size)
    (hc : chanOf b = chanOf a) : size = 2 ^ n ∧ walkLeaf w b n = .leaf (f - offOf a % size + offOf b % size) wr u size := by
  simp only [walkLeaf, hc] at h ⊢
  by_cases hn : ((bits w 8 29).toNat * 256 % 2 ^ n != 0 || (bits w 8 29).toNat * 256 / 2 ^ 31 != (chanOf a).toNat) = true
  · rw [if_pos hn] at h; cases h
  · rw [if_neg hn] at h ⊢
    injection h with h1 h2 h3 h4
    subst h1 h2 h3 h4
    exact ⟨rfl, by rw [Nat.add_sub_cancel]⟩

/-- How a walk ends, read off its two ways to end. -/
def Walk.of (x : Except Walk Walk) : Walk := match x with
  | .ok r => r
  | .error r => r

/-- An entry on the way to a leaf has been read. -/
theorem Walk.of_bind {s : State} {die p : Nat} {g : Word → Except Walk Walk} {f size : Nat} {wr u : Bool}
    (h : Walk.of (walkEntry s die p >>= g) = .leaf f wr u size) :
    ∃ w, walkEntry s die p = .ok w ∧ Walk.of (g w) = .leaf f wr u size := by
  unfold walkEntry at h ⊢
  split at h
  · cases h
  · next hp => exact ⟨_, by rw [if_neg hp], h⟩

/-- A test on the way to a leaf has not ended the walk. -/
theorem Walk.of_ite {c : Prop} [Decidable c] {r : Walk} {g : Except Walk Walk} {f size : Nat} {wr u : Bool}
    (h : Walk.of (if c then .ok r else g) = .leaf f wr u size) (hr : ∀ f wr u size, r ≠ .leaf f wr u size) :
    ¬ c ∧ Walk.of g = .leaf f wr u size := by
  split at h
  · exact absurd h (hr _ _ _ _)
  · next hc => exact ⟨hc, h⟩

theorem walkTables_page {s : State} {die : Nat} {asid : BitVec 12} {a b : Word} {f size : Nat} {wr u : Bool}
    (h : walkTables s die asid a = .leaf f wr u size) (hc : chanOf b = chanOf a) (ho : offOf b / size = offOf a / size) :
    walkTables s die asid b = .leaf (f - offOf a % size + offOf b % size) wr u size := by
  change Walk.of _ = _ at h ⊢
  obtain ⟨w0, e0, h⟩ := Walk.of_bind h
  obtain ⟨w1, e1, h⟩ := Walk.of_bind h
  obtain ⟨c1, h⟩ := Walk.of_ite h (by simp)
  obtain ⟨c2, h⟩ := Walk.of_ite h (by simp)
  obtain ⟨wa, ea, h⟩ := Walk.of_bind h
  obtain ⟨c3, h⟩ := Walk.of_ite h (by simp)
  obtain ⟨c4, h⟩ := Walk.of_ite h (by simp)
  obtain ⟨c5, h⟩ := Walk.of_ite h (by simp)
  obtain ⟨wb, eb, h⟩ := Walk.of_bind h
  obtain ⟨c6, h⟩ := Walk.of_ite h (by simp)
  obtain ⟨c7, h⟩ := Walk.of_ite h (by simp)
  obtain ⟨c8, h⟩ := Walk.of_ite h (by simp)
  obtain ⟨wc, ec, h⟩ := Walk.of_bind h
  obtain ⟨c9, h⟩ := Walk.of_ite h (by simp)
  obtain ⟨c10, h⟩ := Walk.of_ite h (by simp)
  have up (m n : Nat) (e : size = 2 ^ m) (hmn : m ≤ n) : offOf b / 2 ^ n = offOf a / 2 ^ n := by
    obtain ⟨k, rfl⟩ := Nat.exists_eq_add_of_le hmn
    rw [pow_add, ← e, ← Nat.div_div_eq_div_mul, ← Nat.div_div_eq_div_mul, ho]
  by_cases hl : bit wc 1 = true
  · rw [if_pos hl] at h
    obtain ⟨e, hb⟩ := walkLeaf_page h hc
    simp only [Walk.of, hc, up 21 31 e (by decide), up 21 21 e (by decide), e0, e1, ea, eb, ec, c1, c2, c3, c4, c5, c6, c7, c8, c9, c10, hl,
      bind, Except.bind, pure, Except.pure, if_true, if_false, Bool.false_eq_true, hb]
  · rw [if_neg hl] at h
    obtain ⟨c11, h⟩ := Walk.of_ite h (by simp)
    obtain ⟨wd, ed, h⟩ := Walk.of_bind h
    obtain ⟨c12, h⟩ := Walk.of_ite h (by simp)
    obtain ⟨c13, h⟩ := Walk.of_ite h (by simp)
    obtain ⟨c14, h⟩ := Walk.of_ite h (by simp)
    obtain ⟨e, hb⟩ := walkLeaf_page h hc
    simp only [Walk.of, hc, up 16 31 e (by decide), up 16 21 e (by decide), up 16 16 e (by decide), e0, e1, ea, eb, ec, ed, c1, c2, c3, c4, c5,
      c6, c7, c8, c9, c10, c11, c12, c13, c14, hl, bind, Except.bind, pure, Except.pure, if_false, Bool.false_eq_true, hb]

theorem walk_setDie (s : State) (k : Nat) (d : Die) (h : d.asidtab = (s.die k).asidtab) (hx : d.xlats = (s.die k).xlats) (die : Nat)
    (asid : BitVec 12) (a : Word) : walk (s.setDie k d) die asid a = walk s die asid a := by
  have e : ((s.setDie k d).die die).xlats = (s.die die).xlats := by
    by_cases e : die = k
    · subst e; simp [hx]
    · rw [die_setDie_ne _ _ _ _ e]
  simp only [walk, e, walkTables_setDie s k d h]

/-- A corrected error changes no translation. -/
theorem walk_countCorrected (s : State) (w : Nat × Bool) (die : Nat) (asid : BitVec 12) (a : Word) :
    walk (countCorrected s w) die asid a = walk s die asid a := by
  unfold countCorrected
  dsimp only
  split
  · exact walk_setDie _ _ _ (by split <;> rfl) (by split <;> rfl) _ _ _
  · split <;> rfl

theorem walk_foldl {α : Type} (f : State → α → State) (die : Nat) (asid : BitVec 12) (a : Word)
    (h : ∀ s x, walk (f s x) die asid a = walk s die asid a) (l : List α) (s : State) :
    walk (l.foldl f s) die asid a = walk s die asid a := by
  induction l generalizing s with
  | nil => rfl
  | cons x r ih => rw [List.foldl_cons, ih, h]

theorem walk_correct (s : State) (key n : Nat) (die : Nat) (asid : BitVec 12) (a : Word) :
    walk (s.correct key n) die asid a = walk s die asid a := by
  unfold State.correct
  dsimp only
  split
  · rfl
  · exact walk_foldl _ _ _ _ (fun s w => walk_countCorrected s w die asid a) _ _

/-- A translation that a home caches says what its tables say. -/
theorem walk_learn (s : State) (asid asid' : BitVec 12) (home die : Nat) (a b : Word) {dpa size : Nat} {wr user : Bool}
    (hw : walkTables s home asid a = .leaf dpa wr user size) :
    walk (s.setDie home { s.die home with xlats := (s.die home).xlats ++ [⟨asid, chanOf a, offOf a / size, dpa - offOf a % size, wr, user, size⟩] })
      die asid' b = walk s die asid' b := by
  by_cases e : die = home
  · subst e
    simp only [walk, die_setDie_same, List.find?_append]
    cases hf : (s.die die).xlats.find? (fun x => x.covers asid' b) with
    | some x => rfl
    | none =>
      simp only [Option.none_or, List.find?_cons, List.find?_nil]
      have tab (l : List Xlat) := walkTables_setDie s die { s.die die with xlats := l } rfl die asid' b
      rw [tab]
      by_cases hcov : Xlat.covers ⟨asid, chanOf a, offOf a / size, dpa - offOf a % size, wr, user, size⟩ asid' b = true
      · simp only [hcov]
        simp only [Xlat.covers, Bool.and_eq_true, beq_iff_eq] at hcov
        obtain ⟨⟨rfl, hc⟩, ho⟩ := hcov
        exact (walkTables_page hw hc.symm ho).symm
      · simp only [hcov]
  · simp only [walk, die_setDie_ne _ _ _ _ e]
    have tab (l : List Xlat) := walkTables_setDie s home { s.die home with xlats := l } rfl die asid' b
    rw [tab]

theorem walk_cacheWalk (s : State) (asid asid' : BitVec 12) (home die : Nat) (a b : Word) :
    walk (cacheWalk s asid home a) die asid' b = walk s die asid' b := by
  unfold cacheWalk
  split
  · rfl
  dsimp only
  split
  · rfl
  refine Eq.trans ?_ (walk_foldl _ die asid' b (fun s k => walk_correct s k 8 die asid' b) (walkPath s home asid a) s)
  split
  · rfl
  split
  · next hw => exact walk_learn _ asid asid' home die a b hw
  · rfl

@[simp] theorem peak_asidtab (d : Die) (sl n : Nat) : (d.peak sl n).asidtab = d.asidtab := by unfold Die.peak; dsimp only; split <;> rfl

@[simp] theorem peak_xlats (d : Die) (sl n : Nat) : (d.peak sl n).xlats = d.xlats := by unfold Die.peak; dsimp only; split <;> rfl

/-- Counting a request changes no translation. -/
theorem walk_countRequest (s : State) (asid asid' : BitVec 12) (d die key : Nat) (a b : Word) :
    walk (countRequest s asid d a key) die asid' b = walk s die asid' b := by
  unfold countRequest
  split
  · rfl
  · dsimp only
    refine (walk_setDie _ _ _ ?_ ?_ _ _ _).trans (walk_cacheWalk ..)
    · rw [peak_asidtab]
    · rw [peak_xlats]

end Sys2Proof.Machine
end

