-- ==== Sys2Proof/Laws/Vector.lean ====
section
/-! SUPPORT. What a vector instruction does, once for all of them: an instruction whose granules keep a property and never stop ends in its
commit, and what the writes of elements and mask bits leave alone. -/

namespace Sys2Proof.Machine

open Host (Outcome)

theorem withSoft_none {s : State} (h : s.th.softRegs = []) (f : State → Except Stop State) : withSoft f s = f s := by simp [withSoft, h]

/-- Granules that never stop and keep a property lead to the commit of a state that has it. -/
theorem runGranules_next (p : VPlan) (commit : State → State) (P : State → Prop)
    (hq : ∀ s, P s → s.th.softRegs = [])
    (hg : ∀ g s, P s → ∃ s', p.gran g s = .ok s' ∧ ∀ k, P { s' with th := s'.th.land p k }) :
    ∀ n g s, P s → ∃ t, runGranules p commit n g s = .next (commit t) ∧ P t := by
  intro n
  induction n with
  | zero => intro g s hs; exact ⟨s, rfl, hs⟩
  | succ n ih =>
    intro g s hs
    obtain ⟨s', he, hk⟩ := hg g s hs
    obtain ⟨t, ht, hp⟩ := ih (g + 1) _ (hk (if p.steps ≤ g + 1 then p.live else g + 1))
    exact ⟨t, by simp only [runGranules, withSoft_none (hq _ hs), he]; exact ht, hp⟩

theorem idle_runsAhead {s : State} (h : s.idle) : s.runsAhead = false := by
  obtain ⟨h1, h2, -, -, -, h6, -⟩ := h
  simp [State.runsAhead, h1, h2]
  simpa using h6

theorem idle_trapAt {s : State} (h : s.idle) (c : BitVec 7) (v : Word) : trapAt s c v none = takeTrap s c v s.th.pc none false := by
  simp [trapAt, Thread.front, h.1]

theorem dispatchVec_idle {s : State} (h : s.th.pend = []) (p : VPlan) : dispatchVec s p = { s with th := s.th.land p 0 } := by
  have hw : ∀ d n, writeReturnedTo s s.cur d n = s := fun d n => performWhere_none h _
  have hf : p.dsts.foldl (fun s d => writeReturnedTo s s.cur d.base d.n) s = s := by
    generalize p.dsts = l
    induction l with
    | nil => rfl
    | cons a r ih => rw [List.foldl_cons, hw, ih]
  unfold dispatchVec
  simp only [hf]

/-- Landing writes progress indices only. -/
theorem land_prog (t : Thread) (p : VPlan) (k : Nat) : ∃ prog, t.land p k = { t with prog := prog } := by
  unfold Thread.land
  generalize p.dsts = l
  induction l generalizing t with
  | nil => exact ⟨t.prog, rfl⟩
  | cons d r ih =>
    obtain ⟨q, hq⟩ := ih (t.landDst p k d)
    exact ⟨q, by rw [List.foldl_cons, hq]; rfl⟩

theorem awaits_none {t : Thread} (h : t.pend = []) (p : VPlan) : p.awaits t = false := by simp [VPlan.awaits, Thread.returning, h]

/-- A vector instruction of a thread with nothing on its way runs its granules from the first and commits. -/
theorem runVec_idle {s : State} (h : s.idle) (op : VOp) (p : VPlan) :
    runVec s op p = runGranules p State.advance p.steps 0 { s with th := s.th.land p 0 } := by
  have h2 : s.th.gv = false := h.2.1
  have h3 : p.awaits (s.th.land p 0) = false := by
    obtain ⟨q, hq⟩ := land_prog s.th p 0
    rw [hq]; exact awaits_none h.2.2.2.1 p
  simp [runVec, idle_runsAhead h, startVec, h2, dispatchVec_idle h.2.2.2.1, h3]

/-- The state that differs from s0 as the granules of a vector instruction make it differ. -/
def Near (s0 : State) (vs ms : List Nat) (t : State) : Prop :=
  ∃ v m prog fcs srnd, t = { s0 with th := { s0.th with v := v, m := m, prog := prog, fcs := fcs, srnd := srnd } }
    ∧ s0.th.fcs &&& fcs = s0.th.fcs ∧ (∀ r, r < 32 → r ∉ vs → vread v r = vread s0.th.v r)
    ∧ ∀ r, r < 16 → r ∉ ms → vread m r = vread s0.th.m r

theorem near_refl (s : State) (vs ms : List Nat) : Near s vs ms s := ⟨_, _, _, _, _, rfl, by simp, fun _ _ _ => rfl, fun _ _ _ => rfl⟩

theorem near_done {s0 u : State} {vs ms : List Nat} (h : Near s0 vs ms u) : VecDone s0 u.advance vs ms := by
  obtain ⟨v, m, prog, fcs, srnd, rfl, h⟩ := h
  exact ⟨v, m, prog, fcs, srnd, rfl, h⟩

theorem near_land {s0 s : State} {vs ms : List Nat} (h : Near s0 vs ms s) (p : VPlan) (k : Nat) :
    Near s0 vs ms { s with th := s.th.land p k } := by
  obtain ⟨v, m, prog, fcs, srnd, rfl, h⟩ := h
  obtain ⟨q, hq⟩ := land_prog { s0.th with v := v, m := m, prog := prog, fcs := fcs, srnd := srnd } p k
  exact ⟨v, m, q, fcs, srnd, by rw [hq], h⟩

/-- A plan whose granules keep a thread near where it was completes so. -/
theorem runVec_near {s : State} (h : s.idle) (op : VOp) (p : VPlan) (vs ms : List Nat)
    (hg : ∀ g u, Near s vs ms u → ∃ t, p.gran g u = .ok { u with th := t } ∧ Near s vs ms { u with th := t }) :
    ∃ t, runVec s op p = .next t ∧ VecDone s t vs ms := by
  rw [runVec_idle h]
  obtain ⟨t, ht, hn⟩ := runGranules_next p State.advance (Near s vs ms)
    (fun u hu => by obtain ⟨v, m, prog, fcs, srnd, rfl, -⟩ := hu; exact h.2.2.2.2.2.2.2.1)
    (fun g u hu => by
      obtain ⟨t, he, hn⟩ := hg g u hu
      exact ⟨_, he, fun k => near_land hn p k⟩) p.steps 0 _ (near_land (near_refl s vs ms) p 0)
  exact ⟨_, ht, near_done hn⟩

/-! ## Writes of elements, mask bits and flags -/

theorem vread_vwrite {α : Type} {n : Nat} (v : Vector α (n + 1)) (i j : Nat) (a : α) (hj : j < n + 1) :
    vread (vwrite v i a) j = if i = j then a else vread v j := by
  unfold vread vwrite
  simp [hj, Vector.getElem_setIfInBounds]

/-- What the writes of one granule may change of a thread. -/
def Touches (vs ms : List Nat) (t t' : Thread) : Prop :=
  ∃ v m prog fcs srnd, t' = { t with v := v, m := m, prog := prog, fcs := fcs, srnd := srnd }
    ∧ t.fcs &&& fcs = t.fcs ∧ (∀ r, r < 32 → r ∉ vs → vread v r = vread t.v r) ∧ ∀ r, r < 16 → r ∉ ms → vread m r = vread t.m r

theorem touches_refl (vs ms : List Nat) (t : Thread) : Touches vs ms t t :=
  ⟨_, _, _, _, _, rfl, by simp, fun _ _ _ => rfl, fun _ _ _ => rfl⟩

theorem touches_trans {vs ms : List Nat} {a b c : Thread} (h1 : Touches vs ms a b) (h2 : Touches vs ms b c) : Touches vs ms a c := by
  obtain ⟨v, m, p, f, r, rfl, hf, hv, hm⟩ := h1
  obtain ⟨v', m', p', f', r', rfl, hf', hv', hm'⟩ := h2
  refine ⟨v', m', p', f', r', rfl, ?_, fun i hi hn => (hv' i hi hn).trans (hv i hi hn), fun i hi hn => (hm' i hi hn).trans (hm i hi hn)⟩
  simp only at hf'
  have : a.fcs &&& (f &&& f') = a.fcs := by rw [hf', hf]
  rw [← BitVec.and_assoc, hf] at this
  exact this

theorem touches_near {s0 : State} {vs ms : List Nat} {u : State} {t : Thread} (h : Near s0 vs ms u) (ht : Touches vs ms u.th t) :
    Near s0 vs ms { u with th := t } := by
  obtain ⟨v, m, prog, fcs, srnd, rfl, hf, hv, hm⟩ := h
  have h0 : Touches vs ms s0.th { s0.th with v := v, m := m, prog := prog, fcs := fcs, srnd := srnd } := ⟨v, m, prog, fcs, srnd, rfl, hf, hv, hm⟩
  obtain ⟨v', m', p', f', r', rfl, h⟩ := touches_trans h0 ht
  exact ⟨v', m', p', f', r', rfl, h⟩

theorem touches_foldl {α : Type} {vs ms : List Nat} (f : Thread → α → Thread) (l : List α) (P : α → Prop)
    (hf : ∀ t x, P x → Touches vs ms t (f t x)) (hl : ∀ x ∈ l, P x) (t : Thread) : Touches vs ms t (l.foldl f t) := by
  induction l generalizing t with
  | nil => exact touches_refl vs ms t
  | cons a r ih =>
    rw [List.foldl_cons]
    exact touches_trans (hf t a (hl a (by simp))) (ih (fun x hx => hl x (by simp [hx])) _)

theorem touches_raise (vs ms : List Nat) (t : Thread) (fl : Word) : Touches vs ms t (t.raise fl) := by
  refine ⟨t.v, t.m, t.prog, _, t.srnd, rfl, ?_, fun _ _ _ => rfl, fun _ _ _ => rfl⟩
  apply BitVec.eq_of_getLsbD_eq
  intro i hi
  simp [BitVec.getLsbD_or]
  cases t.fcs.getLsbD i <;> simp

theorem touches_setElem {vs ms : List Nat} (t : Thread) (b w i x : Nat) (h : b + i * w / t.rb ∈ vs) : Touches vs ms t (t.setElem b w i x) := by
  refine ⟨_, t.m, t.prog, t.fcs, t.srnd, rfl, by simp, ?_, fun _ _ _ => rfl⟩
  intro r hr hn
  rw [vread_vwrite _ _ _ _ hr]
  split
  · next hc => exact absurd (hc ▸ h) hn
  · rfl

theorem touches_setMaskBit {vs ms : List Nat} (t : Thread) (m i : Nat) (b : Bool) (h : m ∈ ms) : Touches vs ms t (t.setMaskBit m i b) := by
  refine ⟨t.v, _, t.prog, t.fcs, t.srnd, rfl, by simp, fun _ _ _ => rfl, ?_⟩
  intro r hr hn
  rw [vread_vwrite _ _ _ _ hr]
  split
  · next hc => exact absurd (hc ▸ h) hn
  · rfl

theorem touches_srnd (vs ms : List Nat) (t : Thread) (r : BitVec 32) : Touches vs ms t { t with srnd := r } :=
  ⟨t.v, t.m, t.prog, t.fcs, r, rfl, by simp, fun _ _ _ => rfl, fun _ _ _ => rfl⟩

/-- The gang state and the bad words of a thread that a granule touches stand. -/
theorem touches_rb {vs ms : List Nat} {t t' : Thread} (h : Touches vs ms t t') : t'.rb = t.rb ∧ t'.badRegs = t.badRegs := by
  obtain ⟨v, m, p, f, r, rfl, -⟩ := h
  exact ⟨rfl, rfl⟩

theorem near_th {s0 : State} {vs ms : List Nat} {u : State} (h : Near s0 vs ms u) : u.th.badRegs = s0.th.badRegs ∧ u.th.rb = s0.th.rb := by
  obtain ⟨v, m, prog, fcs, srnd, rfl, -⟩ := h
  exact ⟨rfl, rfl⟩

/-- The elements of a granule lie below VL. -/
theorem granuleElems_lt {w vl g i : Nat} (h : i ∈ granuleElems w vl g) : i < vl := by
  simp only [granuleElems, List.mem_map, List.mem_range] at h
  obtain ⟨a, ha, rfl⟩ := h
  omega

/-- With VL at most VLMAX, the elements of a group of G registers lie in it. -/
theorem elem_in_group {g rb w vl i : Nat} (hw : 0 < w) (hvl : vl ≤ g * rb / w) (hi : i < vl) (hrb : 0 < rb) : i * w / rb < g := by
  have h1 : i + 1 ≤ g * rb / w := by omega
  have h2 : (i + 1) * w ≤ g * rb := (Nat.le_div_iff_mul_le hw).1 h1
  rw [Nat.div_lt_iff_lt_mul hrb]
  have h3 : (i + 1) * w = i * w + w := by rw [Nat.add_mul, one_mul]
  omega

theorem vlmax_le (w : Word) (t : Thread) : vlmax w t.gang ≤ vtG w * t.rb / vtBits w := by
  unfold vlmax Thread.rb
  cases t.gang <;> simp

/-- Elements below VL lie in the destination group. -/
theorem shaped_in {s : State} (h : s.th.shaped) {i : Nat} (hi : i < s.th.vl.toNat) : i * vtBits s.th.vtype / s.th.rb < vtG s.th.vtype := by
  refine elem_in_group (vl := s.th.vl.toNat) ?_ (le_trans h.2 (vlmax_le _ _)) hi ?_
  · unfold vtBits; positivity
  · unfold Thread.rb; split <;> decide

theorem badRead_nil {t : Thread} (h : t.badRegs = []) (k : Bool) (srcs : List Grp) (es : List Nat) : t.badRead k srcs es = none := by
  simp [Thread.badRead, h]

theorem mendWritten_nil {t : Thread} (h : t.badRegs = []) (d : Grp) (f : Nat → Bool) : t.mendWritten d f = t := by
  simp [Thread.mendWritten, h]

theorem mendMask_nil {t : Thread} (h : t.badRegs = []) (r : Nat) (f : Nat → Bool) : t.mendMask r f = t := by
  simp [Thread.mendMask, h]

/-- An element-wise instruction whose destination elements lie in vs completes and touches nothing else. -/
theorem elemGranule_near {s : State} (hb : s.th.badRegs = []) (op : VOp) (cw : Nat) (d : Grp) (srcs : List Grp) (rsr : Bool) (f : ElemFn)
    (vs ms : List Nat) (hd : ∀ i, i < op.n_ → d.base + i * d.w / s.th.rb ∈ vs) (g : Nat) (u : State) (hu : Near s vs ms u) :
    ∃ t, elemGranule op cw d srcs rsr f g u = .ok { u with th := t } ∧ Near s vs ms { u with th := t } := by
  obtain ⟨hbu, hrb⟩ := near_th hu
  rw [hb] at hbu
  unfold elemGranule granuleWith
  simp only [badRead_nil hbu]
  refine ⟨_, rfl, ?_⟩
  apply touches_near hu
  have key : Touches vs ms u.th (((granuleElems cw op.n_ g).filter (u.th.active op.k)).foldl (fun t i =>
      let (m, r) := if rsr then roundOf op.rm t.srnd else (roundNoRsr op.rm, t.srnd)
      let (v, fl) := f u.th m i
      ({ t with srnd := r }.setElem d.base d.w i v).raise fl) u.th) := by
    have : ∀ (l : List Nat) (t : Thread), t.rb = s.th.rb → (∀ i ∈ l, i < op.n_) → Touches vs ms t (l.foldl (fun t i =>
      let (m, r) := if rsr then roundOf op.rm t.srnd else (roundNoRsr op.rm, t.srnd)
      let (v, fl) := f u.th m i
      ({ t with srnd := r }.setElem d.base d.w i v).raise fl) t) := by
      intro l
      induction l with
      | nil => intro t _ _; exact touches_refl vs ms t
      | cons a r ih =>
        intro t ht hl
        rw [List.foldl_cons]
        have h1 : Touches vs ms t (let (m, r) := if rsr then roundOf op.rm t.srnd else (roundNoRsr op.rm, t.srnd)
            let (v, fl) := f u.th m a
            ({ t with srnd := r }.setElem d.base d.w a v).raise fl) :=
          touches_trans (touches_srnd vs ms t _) (touches_trans (touches_setElem _ _ _ _ _ (by
            have := hd a (hl a (by simp)); rw [← ht] at this; exact this)) (touches_raise vs ms _ _))
        exact touches_trans h1 (ih _ ((touches_rb h1).1.trans ht) fun i hi => hl i (by simp [hi]))
    exact this _ _ hrb fun i hi => granuleElems_lt (List.mem_of_mem_filter hi)
  rw [mendWritten_nil ((touches_rb key).2.trans hbu)]
  exact key

end Sys2Proof.Machine
end

