-- ==== Sys2Proof/Tests/Slice0.lean ====
section
/-! SUPPORT. The model's own tests: decoding, well-formedness, single steps, and for every statement a state that meets its hypotheses. -/

set_option Elab.async false

namespace Sys2Proof.Tests

open Sys2Proof.Machine

/-! ## Decoding: one word for each encoded instruction, its fields placed as the tables of 02_encoding.md R55-R59 give them -/

theorem test_decode_major_01 :
    decode 0x06AA6800 = .ok (.add 21 10 13)
    ∧ decode 0x06AA6801 = .ok (.sub 21 10 13)
    ∧ decode 0x06AA6802 = .ok (.and 21 10 13)
    ∧ decode 0x06AA6803 = .ok (.or 21 10 13)
    ∧ decode 0x06AA6804 = .ok (.xor 21 10 13)
    ∧ decode 0x06AA6805 = .ok (.andn 21 10 13)
    ∧ decode 0x06AA6986 = .ok (.shadd 21 10 13 6) := by
  decide +kernel

theorem test_decode_major_02 :
    decode 0x0AAA6800 = .ok (.sll 21 10 13)
    ∧ decode 0x0AAA6801 = .ok (.srl 21 10 13)
    ∧ decode 0x0AAA6802 = .ok (.sra 21 10 13)
    ∧ decode 0x0AAA6803 = .ok (.ror 21 10 13)
    ∧ decode 0x0AAA0004 = .ok (.clz 21 10)
    ∧ decode 0x0AAA0005 = .ok (.ctz 21 10)
    ∧ decode 0x0AAA0006 = .ok (.popc 21 10)
    ∧ decode 0x0AAA6987 = .ok (.bext 21 10 13 6) := by
  decide +kernel

theorem test_decode_major_03 :
    decode 0x0EAA6800 = .ok (.seq 21 10 13)
    ∧ decode 0x0EAA6801 = .ok (.sne 21 10 13)
    ∧ decode 0x0EAA6802 = .ok (.slt 21 10 13)
    ∧ decode 0x0EAA6803 = .ok (.sltn 21 10 13)
    ∧ decode 0x0EAA6804 = .ok (.min 21 10 13)
    ∧ decode 0x0EAA6805 = .ok (.max 21 10 13) := by
  decide +kernel

theorem test_decode_major_04 :
    decode 0x12AA6800 = .ok (.mul 21 10 13)
    ∧ decode 0x12AA6801 = .ok (.mulh 21 10 13)
    ∧ decode 0x12AA6802 = .ok (.mulhn 21 10 13)
    ∧ decode 0x12AA6803 = .ok (.div 21 10 13)
    ∧ decode 0x12AA6804 = .ok (.divn 21 10 13)
    ∧ decode 0x12AA6805 = .ok (.rem 21 10 13)
    ∧ decode 0x12AA6806 = .ok (.remn 21 10 13)
    ∧ decode 0x12AA6987 = .ok (.madd 21 10 13 6) := by
  decide +kernel

theorem test_decode_major_05 :
    decode 0x16AA1234 = .ok (.addi 21 10 4660) := by
  decide +kernel

theorem test_decode_major_06 :
    decode 0x1AAA1234 = .ok (.andi 21 10 4660) := by
  decide +kernel

theorem test_decode_major_07 :
    decode 0x1EAA1234 = .ok (.ori 21 10 4660) := by
  decide +kernel

theorem test_decode_major_08 :
    decode 0x22AA1234 = .ok (.xori 21 10 4660) := by
  decide +kernel

theorem test_decode_major_09 :
    decode 0x26AA1234 = .ok (.shori 21 10 4660) := by
  decide +kernel

theorem test_decode_major_0A :
    decode 0x2AAA002B = .ok (.slli 21 10 43)
    ∧ decode 0x2AAA102B = .ok (.srli 21 10 43)
    ∧ decode 0x2AAA202B = .ok (.srai 21 10 43)
    ∧ decode 0x2AAA3567 = .ok (.slti 21 10 1383) := by
  decide +kernel

theorem test_decode_major_0B :
    decode 0x2EA01234 = .ok (.addpc 21 4660) := by
  decide +kernel

theorem test_decode_major_0C :
    decode 0x32A01234 = .ok (.beqz 21 4660)
    ∧ decode 0x32A11234 = .ok (.bnez 21 4660)
    ∧ decode 0x32A21234 = .ok (.bltz 21 4660)
    ∧ decode 0x32A31234 = .ok (.bgez 21 4660)
    ∧ decode 0x32A41234 = .ok (.bgtz 21 4660)
    ∧ decode 0x32A51234 = .ok (.blez 21 4660)
    ∧ decode 0x30061234 = .ok (.bempty 4660) := by
  decide +kernel

theorem test_decode_major_0D :
    decode 0x34123456 = .ok (.jmp 1193046) := by
  decide +kernel

theorem test_decode_major_0E :
    decode 0x38123456 = .ok (.call 1193046) := by
  decide +kernel

theorem test_decode_major_0F :
    decode 0x3C150000 = .ok (.jr 21)
    ∧ decode 0x3EAA1000 = .ok (.callr 21 10)
    ∧ decode 0x3EAA2567 = .ok (.jtab 21 10 1383)
    ∧ decode 0x3C1530A7 = .ok (.loop 21 167)
    ∧ decode 0x3EA04009 = .ok (.mfls 21 9)
    ∧ decode 0x3C155009 = .ok (.mtls 21 9) := by
  decide +kernel

theorem test_decode_major_10 :
    decode 0x42AA6C0B = .ok (.vadd 21 10 13 true 2 true true)
    ∧ decode 0x42AA6C1B = .ok (.vsub 21 10 13 true 2 true true)
    ∧ decode 0x42AA6C2B = .ok (.vrsub 21 10 13 true 2 true true)
    ∧ decode 0x42AA6C3B = .ok (.vmin 21 10 13 true 2 true true)
    ∧ decode 0x42AA6C4B = .ok (.vmax 21 10 13 true 2 true true)
    ∧ decode 0x42AA005B = .ok (.vabs 21 10 2 true true)
    ∧ decode 0x42AA6C6B = .ok (.vabsd 21 10 13 true 2 true true)
    ∧ decode 0x42A0547B = .ok (.vmov 21 10 true 2 true true) := by
  decide +kernel

theorem test_decode_major_11 :
    decode 0x46AA6C0B = .ok (.vmul 21 10 13 true 2 true true)
    ∧ decode 0x46AA6C1B = .ok (.vmulh 21 10 13 true 2 true true)
    ∧ decode 0x46AA6C2B = .ok (.vmacc 21 10 13 true 2 true true)
    ∧ decode 0x46AA6C3B = .ok (.vdot4 21 10 13 true 2 true true)
    ∧ decode 0x46AA6C4B = .ok (.vdiv 21 10 13 true 2 true true) := by
  decide +kernel

theorem test_decode_major_12 :
    decode 0x4AAA6C03 = .ok (.vand 21 10 13 true true true)
    ∧ decode 0x4AAA6C13 = .ok (.vor 21 10 13 true true true)
    ∧ decode 0x4AAA6C23 = .ok (.vxor 21 10 13 true true true)
    ∧ decode 0x4AAA6C33 = .ok (.vandn 21 10 13 true true true)
    ∧ decode 0x4AAA6C43 = .ok (.vsll 21 10 13 true true true)
    ∧ decode 0x4AAA6C53 = .ok (.vsrl 21 10 13 true true true)
    ∧ decode 0x4AAA6C63 = .ok (.vsra 21 10 13 true true true)
    ∧ decode 0x4AAA0073 = .ok (.vpopc 21 10 true true) := by
  decide +kernel

theorem test_decode_major_13 :
    decode 0x4D355403 = .ok (.vceq 9 21 10 true true true)
    ∧ decode 0x4D355413 = .ok (.vcne 9 21 10 true true true)
    ∧ decode 0x4D355423 = .ok (.vclt 9 21 10 true true true)
    ∧ decode 0x4D355433 = .ok (.vcle 9 21 10 true true true)
    ∧ decode 0x4D355443 = .ok (.vcgt 9 21 10 true true true)
    ∧ decode 0x4D355453 = .ok (.vcge 9 21 10 true true true) := by
  decide +kernel

theorem test_decode_major_14 :
    decode 0x52AA6C0A = .ok (.vfadd 21 10 13 true 2 true)
    ∧ decode 0x52AA6C1A = .ok (.vfsub 21 10 13 true 2 true)
    ∧ decode 0x52AA6C2A = .ok (.vfmul 21 10 13 true 2 true)
    ∧ decode 0x52AA6C3A = .ok (.vfdiv 21 10 13 true 2 true)
    ∧ decode 0x52AA004A = .ok (.vfsqrt 21 10 2 true)
    ∧ decode 0x52AA6C5A = .ok (.vfmin 21 10 13 true 2 true)
    ∧ decode 0x52AA6C6A = .ok (.vfmax 21 10 13 true 2 true)
    ∧ decode 0x52AA007A = .ok (.vfabs 21 10 2 true)
    ∧ decode 0x52AA008A = .ok (.vfneg 21 10 2 true) := by
  decide +kernel

theorem test_decode_major_15 :
    decode 0x56AA6C0A = .ok (.vfmacc 21 10 13 true 2 true)
    ∧ decode 0x56AA6C1A = .ok (.vfnmacc 21 10 13 true 2 true)
    ∧ decode 0x56AA6C2A = .ok (.vfmadd 21 10 13 true 2 true) := by
  decide +kernel

theorem test_decode_major_16 :
    decode 0x5AAA0393 = .ok (.vcvt 21 10 3 9 true true) := by
  decide +kernel

theorem test_decode_major_17 :
    decode 0x5C090000 = .ok (.mpush 9)
    ∧ decode 0x5C000010 = .ok (.minv)
    ∧ decode 0x5C000020 = .ok (.mpop)
    ∧ decode 0x5D264832 = .ok (.mand 9 6 9 true)
    ∧ decode 0x5D264842 = .ok (.mor 9 6 9 true)
    ∧ decode 0x5D264852 = .ok (.mxor 9 6 9 true)
    ∧ decode 0x5D260062 = .ok (.mmov 9 6 true)
    ∧ decode 0x5EA90072 = .ok (.mcnt 21 9 true)
    ∧ decode 0x5EA90082 = .ok (.many 21 9 true)
    ∧ decode 0x5EA90092 = .ok (.mfirst 21 9 true) := by
  decide +kernel

theorem test_decode_major_18 :
    decode 0x62AA6802 = .ok (.vslideup 21 10 13 true)
    ∧ decode 0x62AA6812 = .ok (.vslidedn 21 10 13 true)
    ∧ decode 0x62AA6822 = .ok (.vslide1up 21 10 13 true)
    ∧ decode 0x62AA6832 = .ok (.vslide1dn 21 10 13 true)
    ∧ decode 0x62AA6842 = .ok (.vperm 21 10 13 true)
    ∧ decode 0x62AA4852 = .ok (.vcompress 21 10 9 true)
    ∧ decode 0x62AA6862 = .ok (.vbcast 21 10 13 true)
    ∧ decode 0x62AA0071 = .ok (.vmvxs 21 10 true)
    ∧ decode 0x62AA0082 = .ok (.vmvsx 21 10 true) := by
  decide +kernel

theorem test_decode_major_19 :
    decode 0x66AA0003 = .ok (.vrsum 21 10 true true)
    ∧ decode 0x66AA0013 = .ok (.vrmin 21 10 true true)
    ∧ decode 0x66AA0023 = .ok (.vrmax 21 10 true true)
    ∧ decode 0x66AA0033 = .ok (.vrmini 21 10 true true)
    ∧ decode 0x66AA0043 = .ok (.vrmaxi 21 10 true true)
    ∧ decode 0x66AA0053 = .ok (.vscan 21 10 true true)
    ∧ decode 0x66AA0063 = .ok (.vscanx 21 10 true true) := by
  decide +kernel

theorem test_decode_major_1A :
    decode 0x6AAA4803 = .ok (.vsegsum 21 10 9 true true)
    ∧ decode 0x6AAA4813 = .ok (.vsegmin 21 10 9 true true)
    ∧ decode 0x6AAA4823 = .ok (.vsegmax 21 10 9 true true)
    ∧ decode 0x6AAA4833 = .ok (.vsegscan 21 10 9 true true) := by
  decide +kernel

theorem test_decode_major_1B :
    decode 0x6EAA6801 = .ok (.vmerge 21 10 13 true)
    ∧ decode 0x6EAA6811 = .ok (.vtopk 21 10 13 true)
    ∧ decode 0x6EAA6821 = .ok (.vmrgk 21 10 13 true)
    ∧ decode 0x6EAA6831 = .ok (.vsortstep 21 10 13 true) := by
  decide +kernel

theorem test_decode_major_1C :
    decode 0x7015000A = .ok (.vbmax 21 2 true)
    ∧ decode 0x72AA001A = .ok (.vscale 21 10 2 true)
    ∧ decode 0x72AA002A = .ok (.vquant 21 10 2 true)
    ∧ decode 0x72AA003A = .ok (.vdeq 21 10 2 true)
    ∧ decode 0x72AA684A = .ok (.vsfma 21 10 13 2 true) := by
  decide +kernel

theorem test_decode_major_1D :
    decode 0x76AA02A5 = .ok (.vseti 21 10 677)
    ∧ decode 0x76AA1000 = .ok (.vsetvl 21 10)
    ∧ decode 0x76AA2000 = .ok (.vsett 21 10)
    ∧ decode 0x74153000 = .ok (.vshape 21)
    ∧ decode 0x74004567 = .ok (.vshapei 1383) := by
  decide +kernel

theorem test_decode_major_20 :
    decode 0x82AA6D60 = .ok (.lds8 21 10 13 5 3)
    ∧ decode 0x82AA6D64 = .ok (.ldn8 21 10 13 5 3)
    ∧ decode 0x82AA6D68 = .ok (.lds16 21 10 13 5 3)
    ∧ decode 0x82AA6D6C = .ok (.ldn16 21 10 13 5 3)
    ∧ decode 0x82AA6D70 = .ok (.lds32 21 10 13 5 3)
    ∧ decode 0x82AA6D74 = .ok (.ldn32 21 10 13 5 3)
    ∧ decode 0x82AA6D78 = .ok (.ld64 21 10 13 5 3) := by
  decide +kernel

theorem test_decode_major_21 :
    decode 0x86AA6D61 = .ok (.st8 21 10 13 5 3 true)
    ∧ decode 0x86AA6D65 = .ok (.st16 21 10 13 5 3 true)
    ∧ decode 0x86AA6D69 = .ok (.st32 21 10 13 5 3 true)
    ∧ decode 0x86AA6D6D = .ok (.st64 21 10 13 5 3 true)
    ∧ decode 0x86AA6D70 = .ok (.saadd 21 10 13 5 3)
    ∧ decode 0x86AA6D74 = .ok (.samax 21 10 13 5 3)
    ∧ decode 0x86AA6D78 = .ok (.saswap 21 10 13 5 3)
    ∧ decode 0x86AA6D7C = .ok (.sacas 21 10 13 5 3) := by
  decide +kernel

theorem test_decode_major_22 :
    decode 0x8AAA0563 = .ok (.vld 21 10 5 3 true true)
    ∧ decode 0x8AAA6D67 = .ok (.vlds 21 10 13 5 3 true true)
    ∧ decode 0x8AAA6D6B = .ok (.vld2d 21 10 13 5 3 true true) := by
  decide +kernel

theorem test_decode_major_23 :
    decode 0x8EAA0563 = .ok (.vst 21 10 5 3 true true)
    ∧ decode 0x8EAA6D67 = .ok (.vsts 21 10 13 5 3 true true)
    ∧ decode 0x8EAA6D6B = .ok (.vst2d 21 10 13 5 3 true true) := by
  decide +kernel

theorem test_decode_major_24 :
    decode 0x92AA6D63 = .ok (.vgath 21 10 13 5 3 true true)
    ∧ decode 0x92A05567 = .ok (.vgatha 21 10 5 3 true true)
    ∧ decode 0x92AA156B = .ok (.vgathf 21 10 2 5 3 true true) := by
  decide +kernel

theorem test_decode_major_25 :
    decode 0x96AA6D63 = .ok (.vscat 21 10 13 5 3 true true)
    ∧ decode 0x96A05567 = .ok (.vscata 21 10 5 3 true true)
    ∧ decode 0x96AA156B = .ok (.vscatf 21 10 2 5 3 true true) := by
  decide +kernel

theorem test_decode_major_26 :
    decode 0x9AAA6D63 = .ok (.vaadd 21 10 13 5 3 true true)
    ∧ decode 0x9AAA6D67 = .ok (.vamin 21 10 13 5 3 true true)
    ∧ decode 0x9AAA6D6B = .ok (.vamax 21 10 13 5 3 true true)
    ∧ decode 0x9AAA6D6F = .ok (.vaor 21 10 13 5 3 true true)
    ∧ decode 0x9AAA6D73 = .ok (.vaswap 21 10 13 5 3 true true)
    ∧ decode 0x9AAA6D77 = .ok (.vacas 21 10 13 5 3 true true) := by
  decide +kernel

theorem test_decode_major_27 :
    decode 0x9EAA6D63 = .ok (.vcadd 21 10 13 5 3 true true)
    ∧ decode 0x9EAA6D67 = .ok (.vcmin 21 10 13 5 3 true true)
    ∧ decode 0x9EAA6D6B = .ok (.vcmax 21 10 13 5 3 true true)
    ∧ decode 0x9EAA6D6F = .ok (.vcfadd 21 10 13 5 3 true true)
    ∧ decode 0x9EAA6D73 = .ok (.vcfmax 21 10 13 5 3 true true) := by
  decide +kernel

theorem test_decode_major_28 :
    decode 0xA1350560 = .ok (.hld 9 21 5 3)
    ∧ decode 0xA1350564 = .ok (.hst 9 21 5 3)
    ∧ decode 0xA2A9556B = .ok (.cld 21 9 10 5 3 true true)
    ∧ decode 0xA2A9556F = .ok (.cst 21 9 10 5 3 true true)
    ∧ decode 0xA2A95010 = .ok (.hget 21 9 10)
    ∧ decode 0xA1355014 = .ok (.hset 9 21 10) := by
  decide +kernel

theorem test_decode_major_29 :
    decode 0xA4555000 = .ok (.fbind 2 21 10)
    ∧ decode 0xA6A20567 = .ok (.fpop 21 2 5 3 true true)
    ∧ decode 0xA4550008 = .ok (.ftrim 2 21)
    ∧ decode 0xA440000C = .ok (.ffree 2) := by
  decide +kernel

theorem test_decode_major_2A :
    decode 0xAAAA0563 = .ok (.pld 21 10 5 3 true true)
    ∧ decode 0xAAAA0567 = .ok (.pst 21 10 5 3 true true)
    ∧ decode 0xAAAA6D6B = .ok (.pldx 21 10 13 5 3 true true)
    ∧ decode 0xAAAA6D6F = .ok (.pstx 21 10 13 5 3 true true) := by
  decide +kernel

theorem test_decode_major_2B :
    decode 0xAC150500 = .ok (.waitc 21 5)
    ∧ decode 0xAEA00504 = .ok (.mfic 21 5)
    ∧ decode 0xAEA00508 = .ok (.mfcc 21 5)
    ∧ decode 0xAEA000AC = .ok (.mfe 21 5)
    ∧ decode 0xAC1500B0 = .ok (.mte 21 5)
    ∧ decode 0xAC150514 = .ok (.mtss 21 5) := by
  decide +kernel

theorem test_decode_major_2C :
    decode 0xB2A95000 = .ok (.viewreg 21 9 10)
    ∧ decode 0xB0150001 = .ok (.viewdrop 21)
    ∧ decode 0xB2AA6802 = .ok (.viewq 21 10 13)
    ∧ decode 0xB0150043 = .ok (.viewsync 21 true) := by
  decide +kernel

theorem test_decode_major_2D :
    decode 0xB5350000 = .ok (.relayout 9 21) := by
  decide +kernel

theorem test_decode_major_2E :
    decode 0xB8155000 = .ok (.sealOp 21 10)
    ∧ decode 0xB8155001 = .ok (.unsealOp 21 10)
    ∧ decode 0xBAAA6802 = .ok (.dormer 21 10 13)
    ∧ decode 0xB8150003 = .ok (.dormrel 21) := by
  decide +kernel

theorem test_decode_major_30 :
    decode 0xC0555009 = .ok (.tldp 2 21 10 9)
    ∧ decode 0xC0555019 = .ok (.tldl 2 21 10 9) := by
  decide +kernel

theorem test_decode_major_31 :
    decode 0xC4550509 = .ok (.mrow 2 21 5 9)
    ∧ decode 0xC4550519 = .ok (.mrowz 2 21 5 9) := by
  decide +kernel

theorem test_decode_major_32 :
    decode 0xCAA05500 = .ok (.accrd 21 10 5)
    ∧ decode 0xC8150510 = .ok (.accwr 21 5)
    ∧ decode 0xC8000520 = .ok (.accclr 5) := by
  decide +kernel

theorem test_decode_major_33 :
    decode 0xCC400000 = .ok (.tfree 2) := by
  decide +kernel

theorem test_decode_major_38 :
    decode 0xE0000000 = .ok (.gang)
    ∧ decode 0xE0000001 = .ok (.ungang) := by
  decide +kernel

theorem test_decode_major_39 :
    decode 0xE415000A = .ok (.evcfg 21 10)
    ∧ decode 0xE4001015 = .ok (.evpulse 21)
    ∧ decode 0xE6A02009 = .ok (.evwait 21 9)
    ∧ decode 0xE4153000 = .ok (.macroOp 21) := by
  decide +kernel

theorem test_decode_major_3A :
    decode 0xEAAA0563 = .ok (.ldw 21 10 5 3 true true)
    ∧ decode 0xEAAA0567 = .ok (.ldc 21 10 5 3 true true)
    ∧ decode 0xEAAA056B = .ok (.stfl 21 10 5 3 true true)
    ∧ decode 0xE815556D = .ok (.lclr 21 10 5 3 true)
    ∧ decode 0xEAAA6D71 = .ok (.copy 21 10 13 5 3 true) := by
  decide +kernel

theorem test_decode_major_3B :
    decode 0xEC000000 = .ok (.phase)
    ∧ decode 0xEC001009 = .ok (.leadset 9) := by
  decide +kernel

theorem test_decode_major_3C :
    decode 0xF2AA6D63 = .ok (.tsend 21 10 13 5 3 true true)
    ∧ decode 0xF2AA6D65 = .ok (.coll 21 10 13 5 3 true)
    ∧ decode 0xF2A00008 = .ok (.collq 21) := by
  decide +kernel

theorem test_decode_major_3D :
    decode 0xF6AA0000 = .ok (.run 21 10)
    ∧ decode 0xF6AA1000 = .ok (.grow 21 10)
    ∧ decode 0xF4002000 = .ok (.exit) := by
  decide +kernel

theorem test_decode_major_3E :
    decode 0xF800002A = .ok (.trap 42)
    ∧ decode 0xF8001000 = .ok (.eret)
    ∧ decode 0xFAA02567 = .ok (.mfs 21 1383)
    ∧ decode 0xF8153567 = .ok (.mts 21 1383)
    ∧ decode 0xF8004000 = .ok (.yield)
    ∧ decode 0xFAA05002 = .ok (.erd 21 2) := by
  decide +kernel

/-! ## Well-formedness: an ill-formed term for each check, which the check refuses -/

theorem test_ill_formed_fields : ∀ i ∈ ([.mfls 1 3, .mfls 1 7, .mtls 1 11, .mtls 1 13, .vcvt 0 0 5 0 false false, .tldp 0 1 2 0, .tldl 0 1 2 0, .leadset 0, .erd 1 5] : List Instr), ¬ WellFormed i := by
  decide +kernel

theorem test_ill_formed_events_1 : ∀ i ∈ (
  [.vectorDispatch 262144, .granuleLanding 262144, .vectorCommit 262144, .scalarCommit 262144, .streamExhaustionEnd 262144 0,
   .elementComplete 262144 0, .returnedValue 262144 0, .checkRequest 262144 0 8 true 0, .checkRequest 0 0 3 true 0,
   .writeBufferSend 65536 0, .lineWrite 1024 0, .mergeAgeExpiry 65536 0, .waitcSatisfied 262144, .evwaitSatisfied 262144,
   .larderGranuleAction 262144, .fullEmptyTimeout 262144] : List Instr), ¬ WellFormed i := by
  decide +kernel

theorem test_ill_formed_events_2 : ∀ i ∈ (
  [.phaseRelease 262144, .phaseTimeout 262144, .macroStart 16384, .macroStep 16384, .copyComplete 262144 0, .matrixStep 262144,
   .trapTaken 262144 0 0, .asyncReport 262144 0 0 0 0 0, .asyncReportTrap 262144, .preemptionRequest 262144, .preemption 262144,
   .contextSave 262144, .contextRestore 262144 0, .pantryScrub 65536, .coreWithdrawal 65536, .tileStateQuery 65536 0 0 0] : List Instr), ¬ WellFormed i := by
  decide +kernel

theorem test_ill_formed_events_3 : ∀ i ∈ (
  [.tileStateQuery 0 1024 0 0, .tileStateQuery 0 0 256 0, .tileConversionStart 1024 0, .tileConversionStart 0 256,
   .tileConverted 1024 0 0, .tileConverted 0 256 0, .conversionAbandon 1024 0 0, .conversionAbandon 0 256 0, .relayoutSettled 262144,
   .viewCapture 1024 0, .viewCapture 0 1024, .viewCaptureEnd 1024 0, .viewCaptureEnd 0 1024, .stallReadRelease 262144,
   .unsealComplete 262144, .dormerDead 1024 0] : List Instr), ¬ WellFormed i := by
  decide +kernel

theorem test_ill_formed_events_4 : ∀ i ∈ (
  [.registrationRelease 1024 0, .faultServiceTimeout 1024 0, .fsreqRead 1024, .fsansRetry 1024 0, .fsansRefuse 1024 0,
   .invalidation 1024, .invalidationComplete 1024, .migration 1024, .migrationComplete 1024, .prefetchFill 1024 true,
   .rlctlResume 1024 0, .rlctlResume 0 256, .evctlClear 16384, .icinv 65536 0 true, .distributorDecision 128, .groupStart 262144] : List Instr), ¬ WellFormed i := by
  decide +kernel

theorem test_ill_formed_events_5 : ∀ i ∈ (
  [.preloadPromotion 65536, .exitTakesEffect 262144, .groupFault 128 0 0 0 0 0, .groupFault 0 0 0 256 0 0, .groupFault 0 0 0 0 8 0,
   .energyOverrun 262144 0, .runEntryFree 262144, .runComplete 128 0, .runComplete 0 256, .runPacket 128 0, .runPacket 0 256,
   .copyPacket 128 0, .copyPacket 0 256, .resumePacket 128 0, .resumePacket 0 256, .budgetPeriodStart 128] : List Instr), ¬ WellFormed i := by
  decide +kernel

theorem test_ill_formed_events_6 : ∀ i ∈ (
  [.budgetTick 128 0 0, .budgetTick 0 32 0, .lightReclaim 128 0 true, .lightReclaim 0 72 true, .clpartWrite 128 0 0,
   .clpartWrite 0 128 0, .asidmapWrite 128 0 0, .asidmapWrite 0 4096 0, .pbudWrite 128 0 0, .pbudWrite 0 32 0, .hans 128 0,
   .bootStep 128 true 0, .bootctlGo 128 0, .bootctlSkip 128 0, .reset 128, .standbyPowerLoss 128] : List Instr), ¬ WellFormed i := by
  decide +kernel

theorem test_ill_formed_events_7 : ∀ i ∈ (
  [.srselWrite 128 0, .srdataRead 128, .attestation 128, .fitiaRequest 128 0 0 8 true 0, .fitiaRequest 0 0 0 3 true 0,
   .routeCommit 128, .planeDrain 128 0, .planeEnable 128 0, .planeIdle 128 0, .portStateChange 128 0 0, .portStateChange 0 72 0,
   .portStateChange 0 0 3,
   .flitReceive 1024 { dphys := 0, src := 0, ctl := false, copy := false, kind := 0, seq := 0, port := none } true,
   .flitReceive 0 { dphys := 0, src := 1024, ctl := false, copy := false, kind := 0, seq := 0, port := none } true,
   .flitReceive 0 { dphys := 0, src := 0, ctl := false, copy := false, kind := 0, seq := 0, port := some 72 } true,
   .replayRequest 1024 0] : List Instr), ¬ WellFormed i := by
  decide +kernel

theorem test_ill_formed_events_8 : ∀ i ∈ (
  [.replayRequest 0 1024, .replay 1024 0 0, .replay 0 1024 0, .notice 1024 0, .fabricTimeout 262144, .contribution 1024 0,
   .combinerTimeout 1024 0, .colltoAnswerTimeout 1024 0, .cbansExtend 1024 0 0, .cbansPartial 1024 0 0, .combinerSlotFree 1024 0,
   .collComplete 262144, .tokenRowFanout 1024 0, .sendQueueEntry 128 0, .sendQueueEntry 0 4096, .rdmaInbound 128 0 0 0 0 true []] : List Instr), ¬ WellFormed i := by
  decide +kernel

theorem test_ill_formed_events_9 : ∀ i ∈ (
  [.rdmaInbound 0 4096 0 0 0 true [], .standbyPowerOn 128, .hrctlWrite 128 0, .quoteReady 128, .reservedPacket 128 0,
   .reservedPacket 0 256, .workEntryCompletion 128 0 true 0 0, .workEntryCompletion 0 4096 true 0 0, .errorMonitorRequest 128 0,
   .errorMonitorRequest 0 72] : List Instr), ¬ WellFormed i := by
  decide +kernel

theorem test_well_formed : ∀ i ∈ ([.vcvt 0 0 4 0 false false, .erd 1 4, .leadset 1, .tldp 0 1 2 1, .mfls 1 12, .vectorDispatch 262143,
    .replay 1023 1023 0, .clpartWrite 127 127 0, .fitiaRequest 0 0 0 4 true 0] : List Instr), WellFormed i := by
  decide +kernel

/-! ## Words that no instruction has (02_encoding.md R52, R53, R59) -/

/-- An encoding fault of a word: the cause that decoding it gives. -/
def refusal (w : BitVec 32) : Option Nat :=
  match decode w with
  | .error e => some e.cause
  | .ok _ => none

/-- The all-zero word and an unassigned function take cause 0x01. -/
theorem test_decode_refuses_unassigned : refusal 0 = some 1 ∧ refusal 0x0400003F = some 1 ∧ refusal 0xFC000000 = some 1 := by
  decide +kernel

/-- A reserved bit takes cause 0x02. -/
theorem test_decode_refuses_reserved : refusal 0x04000040 = some 2 := by
  decide +kernel

/-! ## Small states, and what a step leaves in them -/

/-- A state with some scalar registers set. -/
def withX (xs : List (Nat × Word)) (s : State := State.reset) : State :=
  { s with th := { s.th with x := xs.foldl (fun v p => vwrite v p.1 p.2) s.th.x } }

/-- A state with a vector type, a length, and the first elements of some groups. -/
def vec (vt : Word) (vl : Nat) (gs : List (Nat × List Nat)) (s : State := State.reset) : State :=
  let t := { s.th with vtype := vt, vl := BitVec.ofNat 15 vl }
  { s with th := gs.foldl (fun t g => g.2.zipIdx.foldl (fun t e => t.setElem g.1 (vtBits vt) e.2 e.1) t) t }

/-- A state with some masks. -/
def withM (ms : List (Nat × BitVec 16384)) (s : State) : State :=
  { s with th := { s.th with m := ms.foldl (fun v p => vwrite v p.1 p.2) s.th.m } }

/-- A state with some words of memory. -/
def withWords (ws : List (Nat × Word)) (s : State := State.reset) : State :=
  { s with mem := ws.foldl (fun m p => memPut m p.1 (leBytes 8 p.2.toNat)) s.mem }

/-- What a step of one instruction leaves, seen through a function; none where it does not answer a next state. -/
def after {α : Type} (i : Instr) (s : State) (f : State → α) : Option α :=
  match exec i s with
  | .next t => some (f t)
  | _ => none

/-- A register after an instruction on some registers. -/
def gives (i : Instr) (xs : List (Nat × Word)) (r : BitVec 5) : Option Word := after i (withX xs) (fun t => t.x r)

/-- The first elements of a group after an instruction. -/
def elems (i : Instr) (s : State) (base n : Nat) : Option (List Nat) :=
  after i s (fun t => (List.range n).map (t.th.elem base (vtBits s.th.vtype)))

/-- A pod whose tables map the first 2 MiB of channel 0 to the DPAs from 0x200000 on, one page behind them to 0x400000, and a page that
neither a write nor user privilege may reach to 0x410000. -/
def pod (s : State := State.reset) : State :=
  withWords [(0, 0x201), (0x200, 0x8001), (0x8000, 0x10001), (0x10000, 0x20000F), (0x10008, 0x401), (0x400, 0x40000F), (0x408, 0x410003)] s

/-- A thread of that pod with a trap frame at 0x1000. -/
def framed (s : State := State.reset) : State := pod { s with th := { s.th with framep := 0x1000, tvec := 0x2000 } }

/-- ECAUSE and EVAL of the head that an instruction on such a thread writes. -/
def caught (i : Instr) (s : State) : Option (Word × Word) :=
  after i s (fun t => (memWord t.mem 0x201008, memWord t.mem 0x201010))

/-- Whether an instruction takes a cause with an EVAL. -/
def traps (i : Instr) (s : State) (c v : Word) : Bool := caught i (framed s) == some (c, v)

/-! ## Scalar instructions (04_scalar_control.md R96-R107) -/

/-- R96: addition wraps, and x0 stays 0. -/
theorem test_add_wraps : gives (.add 3 1 2) [(1, 0xFFFFFFFFFFFFFFFF), (2, 2)] 3 = some 1 ∧ gives (.add 0 1 2) [(1, 5)] 0 = some 0 := by
  decide +kernel

/-- R96: xa - xb, not the other way round. -/
theorem test_sub : gives (.sub 3 1 2) [(1, 3), (2, 5)] 3 = some 0xFFFFFFFFFFFFFFFE := by
  decide +kernel

/-- R96: logic; ANDN complements xb. -/
theorem test_logic :
    gives (.and 3 1 2) [(1, 0xC), (2, 0xA)] 3 = some 8 ∧ gives (.or 3 1 2) [(1, 0xC), (2, 0xA)] 3 = some 0xE
    ∧ gives (.xor 3 1 2) [(1, 0xC), (2, 0xA)] 3 = some 6 ∧ gives (.andn 3 1 2) [(1, 0xC), (2, 0xA)] 3 = some 4 := by
  decide +kernel

/-- R96: SHADD shifts xa; shift amounts are taken modulo 64. -/
theorem test_shifts :
    gives (.shadd 3 1 2 3) [(1, 2), (2, 5)] 3 = some 21 ∧ gives (.sll 3 1 2) [(1, 3), (2, 65)] 3 = some 6
    ∧ gives (.srl 3 1 2) [(1, 0x8000000000000000), (2, 63)] 3 = some 1
    ∧ gives (.sra 3 1 2) [(1, 0x8000000000000000), (2, 63)] 3 = some 0xFFFFFFFFFFFFFFFF
    ∧ gives (.ror 3 1 2) [(1, 1), (2, 1)] 3 = some 0x8000000000000000 := by
  decide +kernel

/-- R96: counts of 0 are 64; BEXT takes aux + 1 bits. -/
theorem test_bit_counts :
    gives (.clz 3 1) [(1, 0)] 3 = some 64 ∧ gives (.clz 3 1) [(1, 1)] 3 = some 63 ∧ gives (.ctz 3 1) [(1, 8)] 3 = some 3
    ∧ gives (.popc 3 1) [(1, 0xF0F)] 3 = some 8 ∧ gives (.bext 3 1 2 3) [(1, 0xABCD), (2, 4)] 3 = some 0xC := by
  decide +kernel

/-- R96: comparisons; -1 is below 1 signed and above it natural. -/
theorem test_compares :
    gives (.seq 3 1 2) [(1, 4), (2, 4)] 3 = some 1 ∧ gives (.sne 3 1 2) [(1, 4), (2, 4)] 3 = some 0
    ∧ gives (.slt 3 1 2) [(1, 0xFFFFFFFFFFFFFFFF), (2, 1)] 3 = some 1 ∧ gives (.sltn 3 1 2) [(1, 0xFFFFFFFFFFFFFFFF), (2, 1)] 3 = some 0
    ∧ gives (.min 3 1 2) [(1, 0xFFFFFFFFFFFFFFFF), (2, 1)] 3 = some 0xFFFFFFFFFFFFFFFF
    ∧ gives (.max 3 1 2) [(1, 0xFFFFFFFFFFFFFFFF), (2, 1)] 3 = some 1 := by
  decide +kernel

/-- R96: products; the high half of (-1) * (-1) is 0 signed and all but one natural. -/
theorem test_products :
    gives (.mul 3 1 2) [(1, 0x100000000), (2, 0x100000001)] 3 = some 0x100000000
    ∧ gives (.mulh 3 1 2) [(1, 0xFFFFFFFFFFFFFFFF), (2, 0xFFFFFFFFFFFFFFFF)] 3 = some 0
    ∧ gives (.mulhn 3 1 2) [(1, 0xFFFFFFFFFFFFFFFF), (2, 0xFFFFFFFFFFFFFFFF)] 3 = some 0xFFFFFFFFFFFFFFFE
    ∧ gives (.madd 3 1 2 4) [(1, 3), (2, 5), (4, 7)] 3 = some 22 := by
  decide +kernel

/-- R73, R96: -7 / 2 truncates towards zero; division by zero; the smallest value by -1. -/
theorem test_divisions :
    gives (.div 3 1 2) [(1, 0xFFFFFFFFFFFFFFF9), (2, 2)] 3 = some 0xFFFFFFFFFFFFFFFD
    ∧ gives (.rem 3 1 2) [(1, 0xFFFFFFFFFFFFFFF9), (2, 2)] 3 = some 0xFFFFFFFFFFFFFFFF
    ∧ gives (.divn 3 1 2) [(1, 7), (2, 0)] 3 = some 0xFFFFFFFFFFFFFFFF ∧ gives (.remn 3 1 2) [(1, 7), (2, 0)] 3 = some 7
    ∧ gives (.div 3 1 2) [(1, 0x8000000000000000), (2, 0xFFFFFFFFFFFFFFFF)] 3 = some 0x8000000000000000
    ∧ gives (.rem 3 1 2) [(1, 0x8000000000000000), (2, 0xFFFFFFFFFFFFFFFF)] 3 = some 0 := by
  decide +kernel

/-- R97, R98: immediates; ADDI and SLTI extend their sign, the logical ones do not. -/
theorem test_immediates :
    gives (.addi 3 1 0xFFFF) [(1, 5)] 3 = some 4 ∧ gives (.andi 3 1 0xFFFF) [(1, 0xFFFFFFFFFFFFFFFF)] 3 = some 0xFFFF
    ∧ gives (.ori 3 1 0x8000) [(1, 1)] 3 = some 0x8001 ∧ gives (.xori 3 1 1) [(1, 3)] 3 = some 2
    ∧ gives (.shori 3 1 0x1234) [(1, 0xABCD)] 3 = some 0xABCD1234 ∧ gives (.addpc 3 0xFFFF) [] 3 = some 0xFFFFFFFFFFFFFFFC
    ∧ gives (.slli 3 1 63) [(1, 3)] 3 = some 0x8000000000000000 ∧ gives (.srli 3 1 4) [(1, 0xF0)] 3 = some 15
    ∧ gives (.srai 3 1 63) [(1, 0x8000000000000000)] 3 = some 0xFFFFFFFFFFFFFFFF ∧ gives (.slti 3 1 0x800) [(1, 0)] 3 = some 0 := by
  decide +kernel

/-- Where the thread goes on after an instruction at pc 0x100. -/
def goes (i : Instr) (xs : List (Nat × Word)) : Option Word :=
  let s := withX xs
  after i { s with th := { s.th with pc := 0x100 } } (fun t => t.th.pc)

/-- R102: branches, taken and not taken, backwards too. -/
theorem test_branches :
    goes (.beqz 1 4) [] = some 0x110 ∧ goes (.beqz 1 4) [(1, 1)] = some 0x104 ∧ goes (.bnez 1 0xFFFF) [(1, 1)] = some 0xFC
    ∧ goes (.bltz 1 4) [(1, 0x8000000000000000)] = some 0x110 ∧ goes (.bgez 1 4) [] = some 0x110 ∧ goes (.bgtz 1 4) [] = some 0x104
    ∧ goes (.blez 1 4) [] = some 0x110 ∧ goes (.bempty 4) [] = some 0x104 := by
  decide +kernel

/-- R104, R106: jumps; CALL links x30, CALLR its own register. -/
theorem test_jumps :
    goes (.jmp 6) [] = some 0x118 ∧ goes (.call 0x3FFFFFF) [] = some 0xFC ∧ gives (.call 1) [] 30 = some 4
    ∧ goes (.jr 1) [(1, 0x40)] = some 0x40 ∧ gives (.callr 5 1) [(1, 0x40)] 5 = some 4 := by
  decide +kernel

/-- R106: a target that is not a multiple of 4 takes cause 0x08. -/
theorem test_jump_misaligned : traps (.jr 1) (withX [(1, 0x42)]) 0x08 0x42 = true := by
  decide +kernel

/-- R109: a loop of two words with five passes; a count of 0 skips it. -/
theorem test_loop :
    after (.loop 1 1) (withX [(1, 5)]) (fun t => (t.th.pc, t.th.ldepth, vread t.th.lc 0, vread t.th.ls 0, vread t.th.le 0)) = some (4, 1, 5, 4, 8)
    ∧ after (.loop 1 1) (withX []) (fun t => (t.th.pc, t.th.ldepth)) = some (12, 0) := by
  decide +kernel

/-- R110: the last word of a loop goes back while passes are left, and ends the level at the last one. -/
theorem test_loop_end :
    (let s (n : BitVec 32) : State := { State.reset with th := { State.reset.th with
        pc := 8, ldepth := 1, lc := #v[n, 0, 0], ls := #v[4, 0, 0], le := #v[8, 0, 0] } }
     after (.addi 1 1 1) (s 2) (fun t => (t.th.pc, t.th.ldepth, vread t.th.lc 0)) = some (4, 1, 1)
     ∧ after (.addi 1 1 1) (s 1) (fun t => (t.th.pc, t.th.ldepth, vread t.th.lc 0)) = some (12, 0, 0)) := by
  decide +kernel

/-- R113: MTLS stores addresses with their low bits 0, and LDEPTH above 3 takes cause 0x0A. -/
theorem test_loop_moves :
    after (.mtls 1 5) (withX [(1, 0x103)]) (fun t => vread t.th.ls 1) = some 0x100 ∧ gives (.mfls 3 12) [] 3 = some 0
    ∧ traps (.mtls 1 12) (withX [(1, 4)]) 0x0A 4 = true := by
  decide +kernel

/-! ## Vector instructions (05_vector_ops.md) -/

/-- R123 in s8: sums wrap without .sat and clamp with it; elements at and above VL stand. -/
theorem test_vadd :
    (let s := vec 0x001 3 [(1, [100, 0x80, 5, 9]), (2, [100, 0xFF, 250, 9]), (3, [1, 2, 3, 4])]
     elems (.vadd 3 1 2 false 0 false false) s 3 4 = some [0xC8, 0x7F, 0xFF, 4]
     ∧ elems (.vadd 3 1 2 false 0 false true) s 3 4 = some [0x7F, 0x80, 0xFF, 4]) := by
  decide +kernel

/-- R123 in s8: the other functions of majors 0x10 and 0x11, on -6 and 5 into 7. -/
theorem test_integer_functions :
    (let s := vec 0x001 1 [(1, [0xFA]), (2, [5]), (3, [7])]
     [elems (.vsub 3 1 2 false 0 false false) s 3 1, elems (.vrsub 3 1 2 false 0 false false) s 3 1,
      elems (.vmin 3 1 2 false 0 false false) s 3 1, elems (.vmax 3 1 2 false 0 false false) s 3 1,
      elems (.vabs 3 1 0 false false) s 3 1, elems (.vabsd 3 1 2 false 0 false false) s 3 1,
      elems (.vmov 3 2 false 0 false false) s 3 1, elems (.vmul 3 1 2 false 0 false false) s 3 1,
      elems (.vmulh 3 1 2 false 0 false false) s 3 1, elems (.vmacc 3 1 2 false 0 false false) s 3 1,
      elems (.vdiv 3 1 2 false 0 false false) s 3 1]
     = [[0xF5], [11], [0xFA], [5], [6], [11], [5], [0xE2], [0xFF], [0xE9], [0xFF]].map some) := by
  decide +kernel

/-- R125 in n8: logic and shifts; the amount is taken modulo SEW, and VSRA copies the sign. -/
theorem test_logic_functions :
    (let s := vec 0x011 1 [(1, [0x96]), (2, [0x0C]), (3, [7])]
     [elems (.vand 3 1 2 false false false) s 3 1, elems (.vor 3 1 2 false false false) s 3 1,
      elems (.vxor 3 1 2 false false false) s 3 1, elems (.vandn 3 1 2 false false false) s 3 1,
      elems (.vsll 3 1 2 false false false) s 3 1, elems (.vsrl 3 1 2 false false false) s 3 1,
      elems (.vsra 3 1 2 false false false) s 3 1, elems (.vpopc 3 1 false false) s 3 1]
     = [[4], [0x9E], [0x9A], [0x92], [0x60], [9], [0xF9], [4]].map some) := by
  decide +kernel

/-- R124 in s32: 1 + 1*5 + 2*6 + 3*7 + (-1)*8 = 31. -/
theorem test_vdot4 : elems (.vdot4 3 1 2 false 0 false false) (vec 0x003 1 [(1, [0xFF030201]), (2, [0x08070605]), (3, [1])]) 3 1
    = some [31] := by
  decide +kernel

/-- A mask register after an instruction, its low bits. -/
def maskAfter (i : Instr) (s : State) (r n : Nat) : Option Nat := after i s (fun t => (vread t.th.m r).toNat % 2 ^ n)

/-- R126 in s8: the six relations on (-1, 1), (1, 1), (2, 1); bits at and above VL stand. -/
theorem test_comparisons :
    (let s := withM [(5, 0x8)] (vec 0x001 3 [(1, [0xFF, 1, 2]), (2, [1, 1, 1])])
     [maskAfter (.vceq 5 1 2 false false false) s 5 4, maskAfter (.vcne 5 1 2 false false false) s 5 4,
      maskAfter (.vclt 5 1 2 false false false) s 5 4, maskAfter (.vcle 5 1 2 false false false) s 5 4,
      maskAfter (.vcgt 5 1 2 false false false) s 5 4, maskAfter (.vcge 5 1 2 false false false) s 5 4]
     = [0xA, 0xD, 0x9, 0xB, 0xC, 0xE].map some) := by
  decide +kernel

/-- R76, R127 in FP32 on 6 and 2 into 1, and on -0 and 4 alone. -/
theorem test_float_functions :
    (let s := vec 0x023 1 [(1, [0x40C00000]), (2, [0x40000000]), (3, [0x3F800000]), (4, [0x40800000]), (5, [0xC0800000])]
     [elems (.vfadd 3 1 2 false 0 false) s 3 1, elems (.vfsub 3 1 2 false 0 false) s 3 1, elems (.vfmul 3 1 2 false 0 false) s 3 1,
      elems (.vfdiv 3 1 2 false 0 false) s 3 1, elems (.vfsqrt 3 4 0 false) s 3 1, elems (.vfmin 3 1 2 false 0 false) s 3 1,
      elems (.vfmax 3 1 2 false 0 false) s 3 1, elems (.vfabs 3 5 0 false) s 3 1, elems (.vfneg 3 4 0 false) s 3 1,
      elems (.vfmacc 3 1 2 false 0 false) s 3 1, elems (.vfnmacc 3 1 2 false 0 false) s 3 1, elems (.vfmadd 3 1 2 false 0 false) s 3 1]
     = [[0x41000000], [0x40800000], [0x41400000], [0x40400000], [0x40000000], [0x40000000], [0x40C00000], [0x40800000], [0xC0800000],
        [0x41500000], [0xC1300000], [0x41000000]].map some) := by
  decide +kernel

/-- 03_numbers.md R79-R81, the worked example of stochastic rounding: VCVT from FP32 to BF16 under RSR. -/
theorem test_stochastic_rounding :
    (let s := vec 0x032 2 []
     let s := { s with th := { (s.th.setElem 4 32 0 0x3F808000).setElem 4 32 1 0x3F80E000 with fcs := 4 } }
     after (.vcvt 8 4 3 2 false false) s (fun t => (t.th.elem 8 16 0, t.th.elem 8 16 1, t.th.srnd)) = some (0x3F80, 0x3F81, 0xC0300002)) := by
  decide +kernel

/-- R87, its worked example: 300, 500 and 0.001 to E4M3 under SAT, and 500 under OVF. -/
theorem test_vcvt :
    (let s := vec 0x041 3 []
     let s := { s with th := s.th.setElems 4 32 [(0, 0x43960000), (1, 0x43FA0000), (2, 0x3A83126F)] }
     elems (.vcvt 8 4 3 2 false false) s 8 3 = some [0x79, 0x7E, 0x01] ∧ elems (.vcvt 8 4 3 2 false true) s 8 3 = some [0x79, 0x7F, 0x01]) := by
  decide +kernel

/-- R130, its worked example: MPUSH m3, MINV and MPOP on eight elements. -/
theorem test_mask_stack :
    (let s := withM [(3, 0xB2)] (vec 0x023 8 [])
     let top (t : State) := (t.th.msdepth, t.th.maskTop.toNat % 256)
     after (.mpush 3) s top = some (1, 0xB2)
     ∧ after .minv { s with th := { s.th with ms := vwrite s.th.ms 0 0xB2, msdepth := 1 } } top = some (1, 0x4D)
     ∧ after .mpop { s with th := { s.th with ms := vwrite s.th.ms 0 0xB2, msdepth := 1 } } top = some (0, 0xFF)
     ∧ traps .mpop s 0x06 0 = true) := by
  decide +kernel

/-- R131, R115: mask logic and the scalar reads of a mask, for VL = 4. -/
theorem test_masks :
    (let s := withM [(1, 0x6), (2, 0xC), (3, 0x10)] (vec 0x023 4 [])
     [maskAfter (.mand 3 1 2 false) s 3 5, maskAfter (.mor 3 1 2 false) s 3 5, maskAfter (.mxor 3 1 2 false) s 3 5, maskAfter (.mmov 3 2 false) s 3 5]
       = [0x14, 0x1E, 0x1A, 0x1C].map some
     ∧ after (.mcnt 5 1 false) s (·.x 5) = some 2 ∧ after (.many 5 3 false) s (·.x 5) = some 0
     ∧ after (.mfirst 5 2 false) s (·.x 5) = some 2) := by
  decide +kernel

/-- R132 on a row of four. -/
theorem test_permutes :
    (let s := withX [(9, 1)] (withM [(1, 0xA)] (vec 0x013 4 [(1, [10, 11, 12, 13]), (2, [3, 0, 9, 1]), (3, [5, 6, 7, 8])]))
     [elems (.vslideup 3 1 9 false) s 3 4, elems (.vslidedn 3 1 9 false) s 3 4, elems (.vslide1up 3 1 9 false) s 3 4,
      elems (.vslide1dn 3 1 9 false) s 3 4, elems (.vperm 3 1 2 false) s 3 4, elems (.vcompress 3 1 1 false) s 3 4,
      elems (.vbcast 3 1 9 false) s 3 4, elems (.vmvsx 3 9 false) s 3 4]
     = [[5, 10, 11, 12], [11, 12, 13, 0], [1, 10, 11, 12], [11, 12, 13, 1], [13, 10, 0, 11], [11, 13, 7, 8], [11, 11, 11, 11],
        [1, 6, 7, 8]].map some
     ∧ after (.vmvxs 5 1 false) s (·.x 5) = some 10) := by
  decide +kernel

/-- R133: the exact prefix sums 100, 200, 100 in s8 are clamped each on its own (log 14); R135: VSCANX is exclusive. -/
theorem test_scans :
    (let s := vec 0x001 3 [(1, [100, 100, 0x9C])]
     elems (.vscan 3 1 false true) s 3 3 = some [100, 127, 100] ∧ elems (.vscanx 3 1 false false) s 3 3 = some [0, 100, 200]) := by
  decide +kernel

/-- R134 on two rows of two in s8, ties to the lowest index. -/
theorem test_reductions :
    (let s := vec 0x001 4 [(1, [5, 0xFF, 7, 7]), (3, [9, 9, 9, 9])]
     let s := { s with th := { s.th with cols := 2 } }
     [elems (.vrsum 3 1 false false) s 3 4, elems (.vrmin 3 1 false false) s 3 4, elems (.vrmax 3 1 false false) s 3 4,
      elems (.vrmini 3 1 false false) s 3 4, elems (.vrmaxi 3 1 false false) s 3 4]
     = [[4, 14, 9, 9], [0xFF, 7, 9, 9], [5, 7, 9, 9], [0xFF, 1, 7, 0], [5, 0, 7, 0]].map some) := by
  decide +kernel

/-- R89, R90, their worked example: 2^24, 1, 1, -2^24 in FP32 sum to 1 by the tree, and to 0 by the scan. -/
theorem test_summation_order :
    (let s := vec 0x023 4 [(1, [0x4B800000, 0x3F800000, 0x3F800000, 0xCB800000])]
     elems (.vrsum 3 1 false false) s 3 1 = some [0x3F800000] ∧ elems (.vscan 3 1 false false) s 3 4
       = some [0x4B800000, 0x4B800000, 0x4B800000, 0]) := by
  decide +kernel

/-- R136: segments that begin at 0 and 2. -/
theorem test_segments :
    (let s := withM [(1, 0x4)] (vec 0x001 4 [(1, [5, 0xFF, 7, 1]), (3, [9, 9, 9, 9])])
     [elems (.vsegsum 3 1 1 false false) s 3 4, elems (.vsegmin 3 1 1 false false) s 3 4, elems (.vsegmax 3 1 1 false false) s 3 4,
      elems (.vsegscan 3 1 1 false false) s 3 4]
     = [[4, 9, 8, 9], [0xFF, 9, 1, 9], [5, 9, 7, 9], [5, 4, 7, 8]].map some) := by
  decide +kernel

/-- R138, R139, R142: merging, one stage of a bitonic network with distance 1 and block 2, and two lists of one pair each. -/
theorem test_sorts :
    (let s := withX [(9, 0x20001)] (vec 0x003 4 [(1, [1, 5, 9, 9]), (2, [2, 5, 6, 8])])
     elems (.vmerge 3 1 2 false) s 3 8 = some [1, 2, 5, 5, 6, 8, 9, 9]
     ∧ elems (.vsortstep 3 1 9 false) (vec 0x003 4 [(1, [5, 1, 1, 5])] (withX [(9, 0x20001)])) 3 4 = some [1, 5, 5, 1]
     ∧ (let r := vec 0x003 2 [(1, [7, 3]), (2, [8, 4])]
        elems (.vmrgk 3 1 2 false) { r with th := { r.th with cols := 2 } } 3 2 = some [8, 4])) := by
  decide +kernel

/-- R140, R141, their worked example: two tokens of eight experts, K = 2, groups of two. -/
theorem test_vtopk :
    (let s := vec 0x023 16 [(0, [0x3DCCCCCD, 0x3ECCCCCD, 0x3D4CCCCD, 0x3F666666, 0x3E99999A, 0x3EB33333, 0x3E4CCCCD, 0x3E800000,
        0x7FC00000, 0x7FC00000, 0x3F000000, 0x3DCCCCCD, 0x7FC00000, 0x7FC00000, 0x7FC00000, 0x7FC00000])]
     let s := withX [(9, 0x21020202)] (withM [(1, 8)] { s with th := { s.th with cols := 8 } })
     elems (.vtopk 8 0 9 false) s 8 9 = some [0x3ECCCCCD, 1, 0x3EB33333, 5, 0x3F000000, 2, 0xFF800000, 0xFFFF, 0]
     ∧ maskAfter (.vtopk 8 0 9 false) s 2 4 = some 7) := by
  decide +kernel

/-- R84, R145, the worked example of NQ4: with S = 8 and c = 95 the block scale is 3, and 3, -1.2, 0.5 and 0 are levels 15, 3, 9 and 7. -/
theorem test_vquant :
    (let s := vec 0x060 4 []
     let t := { s.th with v := vwrite s.th.v 31 (BitVec.ofNat 16384 (0x41000000 * 2 ^ 8160 + 0x5F)) }
     elems (.vquant 8 16 0 false) { s with th := t.setElems 16 32 [(0, 0x40400000), (1, 0xBF99999A), (2, 0x3F000000), (3, 0)] } 8 4
       = some [15, 3, 9, 7]) := by
  decide +kernel

/-- R144, R145 in s8: the largest value 254 gives scale 2; dequantised 3 is 6, scaled 1 is 2, and 1 + 2 * (3 * 2) is 13. -/
theorem test_scales :
    (let s := vec 0x001 1 [(8, [3])]
     let two := { s.th with v := vwrite s.th.v 31 0x4000 }
     after (.vbmax 16 0 false) { s with th := s.th.setElem 16 32 0 0x437E0000 } (fun t => (vread t.th.v 31).toNat) = some 0x4000
     ∧ after (.vdeq 16 8 0 false) { s with th := two } (fun t => t.th.elem 16 32 0) = some 0x40C00000
     ∧ after (.vscale 16 20 0 false) { s with th := two.setElem 20 32 0 0x3F800000 } (fun t => t.th.elem 16 32 0) = some 0x40000000
     ∧ after (.vsfma 16 20 8 0 false) { s with th := (two.setElem 16 32 0 0x3F800000).setElem 20 32 0 0x40000000 } (fun t => t.th.elem 16 32 0)
       = some 0x41500000) := by
  decide +kernel

/-- R15, R16, R146: VSETI to BF16 with G = 1 caps VL at 512; an illegal pair takes cause 0x03; a length, a type and the columns. -/
theorem test_configuration :
    after (.vseti 6 5 0x32) (withX [(5, 1000)]) (fun t => (t.th.vtype, t.th.vl, t.x 6)) = some (0x32, 512, 512)
    ∧ traps (.vseti 6 5 0x30) (withX [(5, 1000)]) 0x03 0x74C50030 = true
    ∧ after (.vsetvl 6 5) (withX [(5, 1000)]) (fun t => t.th.vl) = some 256
    ∧ after (.vsett 6 5) (withX [(5, 4)]) (fun t => (t.th.vtype, t.th.vl)) = some (4, 128)
    ∧ after (.vshape 5) (withX [(5, 16384)]) (fun t => t.th.cols) = some 16384
    ∧ traps (.vshape 5) (withX [(5, 16385)]) 0x03 16385 = true
    ∧ after (.vshapei 8) State.reset (fun t => t.th.cols) = some 8 := by
  decide +kernel

/-! ## Memory instructions (06_memory_isa.md); the Larder of the cluster begins at place 2^60 -/

/-- A thread with x1 at the start of the Larder and two words there. -/
def larder (xs : List (Nat × Word) := []) : State :=
  withWords [(2 ^ 60, 0xFEDCBA9876543210), (2 ^ 60 + 8, 0x8877665544332211)] (withX ((1, 0x8000000000000000) :: xs))

/-- A word of memory after an instruction. -/
def wordAt (i : Instr) (s : State) (key : Nat) : Option Word := after i s (fun t => memWord t.mem key)

/-- R157: loads extend their sign or zeros. -/
theorem test_scalar_loads :
    after (.lds8 3 1 2 0 7) (larder [(2, 7)]) (·.x 3) = some 0xFFFFFFFFFFFFFFFE ∧ after (.ldn8 3 1 2 0 7) (larder [(2, 7)]) (·.x 3) = some 0xFE
    ∧ after (.lds16 3 1 2 0 7) (larder [(2, 6)]) (·.x 3) = some 0xFFFFFFFFFFFFFEDC
    ∧ after (.ldn16 3 1 2 0 7) (larder [(2, 6)]) (·.x 3) = some 0xFEDC
    ∧ after (.lds32 3 1 2 0 7) (larder [(2, 12)]) (·.x 3) = some 0xFFFFFFFF88776655
    ∧ after (.ldn32 3 1 2 0 7) (larder [(2, 12)]) (·.x 3) = some 0x88776655
    ∧ after (.ld64 3 1 2 0 7) (larder [(2, 8)]) (·.x 3) = some 0x8877665544332211 := by
  decide +kernel

/-- R157, R151: stores write their low bytes alone; a misaligned address takes cause 0x25; a non-blocking store leaves memory for now. -/
theorem test_scalar_stores :
    wordAt (.st8 3 1 2 0 7 false) (larder [(2, 1), (3, 0x1FF)]) (2 ^ 60) = some 0xFEDCBA987654FF10
    ∧ wordAt (.st16 3 1 2 0 7 false) (larder [(2, 2), (3, 0x10000)]) (2 ^ 60) = some 0xFEDCBA9800003210
    ∧ wordAt (.st32 3 1 2 0 7 false) (larder [(2, 4), (3, 1)]) (2 ^ 60) = some 0x0000000176543210
    ∧ wordAt (.st64 3 1 2 0 7 false) (larder [(3, 1)]) (2 ^ 60) = some 1
    ∧ wordAt (.st64 3 1 2 0 7 true) (larder [(3, 1)]) (2 ^ 60) = some 0xFEDCBA9876543210
    ∧ traps (.st32 3 1 2 0 7 false) (withX [(1, 0x8000000000000000), (2, 2)]) 0x25 0x8000000000000002 = true := by
  decide +kernel

/-- R157: atomics return the old word; SACAS swaps only where it finds its comparand. -/
theorem test_scalar_atomics :
    (let see (i : Instr) (s : State) := after i s (fun t => (t.x 3, memWord t.mem (2 ^ 60)))
     see (.saadd 3 1 0 0 7) (larder [(3, 1)]) = some (0xFEDCBA9876543210, 0xFEDCBA9876543211)
     ∧ see (.samax 3 1 0 0 7) (larder [(3, 5)]) = some (0xFEDCBA9876543210, 5)
     ∧ see (.saswap 3 1 0 0 7) (larder [(3, 5)]) = some (0xFEDCBA9876543210, 5)
     ∧ see (.sacas 3 1 4 0 7) (larder [(3, 5), (4, 6)]) = some (0xFEDCBA9876543210, 0xFEDCBA9876543210)
     ∧ see (.sacas 3 1 4 0 7) (larder [(3, 5), (4, 0xFEDCBA9876543210)]) = some (0xFEDCBA9876543210, 5)) := by
  decide +kernel

/-- R107: JTAB goes to the entry that its index names, and falls through at its length. -/
theorem test_jtab :
    (let s := withWords [(2 ^ 60 + 8, 0x40)] (withX [(1, 0x8000000000000000), (2, 1)])
     after (.jtab 1 2 2) s (·.th.pc) = some 0x40 ∧ after (.jtab 1 2 1) s (·.th.pc) = some 4) := by
  decide +kernel

/-- A pod thread of eight n32 elements whose words at 0x40000 are 100 to 107, as the worked example of R161 has it. -/
def gatherState : State :=
  let s := vec 0x013 8 [(4, [5, 5, 5, 5, 5, 5, 5, 5]), (8, [3, 3, 0, 0xFFFFFFFF, 7, 1, 3, 2]), (20, [10, 11, 12, 13, 14, 15, 16, 17])]
  withWords [(0x240000, 0x6500000064), (0x240008, 0x6700000066), (0x240010, 0x6900000068), (0x240018, 0x6B0000006A)]
    (pod (withX [(10, 0x40000), (11, 0x40000)] s))

/-- R161, its worked example: the gather. -/
theorem test_vgath : elems (.vgath 4 10 8 2 0 false false) gatherState 4 8 = some [103, 103, 100, 5, 107, 101, 103, 102] := by
  decide +kernel

/-- R161, its worked example: the scatter, of which the last element of a place remains. -/
theorem test_vscat :
    after (.vscat 20 11 8 2 7 false false) gatherState
      (fun t => ([0, 8, 16, 24].map (fun o => (memWord t.mem (0x240000 + o)).toNat), (vread t.th.cc 2).toNat))
      = some ([0x0000000F0000000C, 0x0000001000000011, 0x0000006900000068, 0x0000000E0000006A], 8) := by
  decide +kernel

/-- R151, R161, the variant of the worked example: an index past the channel takes cause 0x23 with the element and its index. -/
theorem test_index_range :
    (let s := withX [(10, 0x7FFFFFFF000)] (withWords [(0xFFF8, 0x12001), (0x13FF8, 0x60000F)] gatherState)
     let s := { s with th := { (s.th.setElem 8 32 4 2048) with framep := 0x1000, tvec := 0x2000 } }
     caught (.vgath 4 10 8 2 0 false false) s = some (0x23, 0x400000800)) := by
  decide +kernel

/-- Two n32 elements 7 and 9 in group 4, indices 1 and 0 in group 8, address words in group 12. -/
def pair : State :=
  vec 0x013 2 [(4, [7, 9]), (5, [1, 2]), (8, [1, 0]), (12, [0, 0x80000000, 4, 0x80000000])] (larder [(2, 8)])

/-- R158: the loads, each on the two words of the Larder. -/
theorem test_vector_loads :
    elems (.vld 4 1 0 7 false false) pair 4 2 = some [0x76543210, 0xFEDCBA98]
    ∧ elems (.vlds 4 1 2 0 7 false false) pair 4 2 = some [0x76543210, 0x44332211]
    ∧ elems (.vld2d 4 1 2 0 7 false false) { pair with th := { pair.th with cols := 1 } } 4 2 = some [0x76543210, 0x44332211]
    ∧ elems (.vgatha 4 12 0 7 false false) pair 4 2 = some [0x76543210, 0xFEDCBA98] := by
  decide +kernel

/-- R158: the stores. -/
theorem test_vector_stores :
    wordAt (.vst 4 1 0 7 false false) pair (2 ^ 60) = some 0x900000007
    ∧ wordAt (.vsts 4 1 2 0 7 false false) pair (2 ^ 60 + 8) = some 0x8877665500000009
    ∧ wordAt (.vst2d 4 1 2 0 7 false false) { pair with th := { pair.th with cols := 1 } } (2 ^ 60 + 8) = some 0x8877665500000009
    ∧ wordAt (.vscata 4 12 0 7 false false) pair (2 ^ 60) = some 0x900000007 := by
  decide +kernel

/-- R163, R164 in the Larder, where element 0 acts on 0xFEDCBA98 and element 1 on 0x76543210. -/
theorem test_vector_atomics :
    (let see (i : Instr) := after i pair (fun t => (t.th.elem 4 32 0, memWord t.mem (2 ^ 60)))
     see (.vaadd 4 1 8 0 7 false false) = some (0xFEDCBA98, 0xFEDCBA9F76543219)
     ∧ see (.vamin 4 1 8 0 7 false false) = some (0xFEDCBA98, 0x700000009)
     ∧ see (.vamax 4 1 8 0 7 false false) = some (0xFEDCBA98, 0xFEDCBA9876543210)
     ∧ see (.vaor 4 1 8 0 7 false false) = some (0xFEDCBA98, 0xFEDCBA9F76543219)
     ∧ see (.vaswap 4 1 8 0 7 false false) = some (0xFEDCBA98, 0x700000009)
     ∧ see (.vacas 4 1 8 0 7 false false) = some (0xFEDCBA98, 0xFEDCBA9876543210)) := by
  decide +kernel

/-- R163, R192: a reduce of the Larder acts at once. -/
theorem test_vector_reduces :
    wordAt (.vcadd 4 1 8 0 7 false false) pair (2 ^ 60) = some 0xFEDCBA9F76543219
    ∧ wordAt (.vcmin 4 1 8 0 7 false false) pair (2 ^ 60) = some 0x700000009
    ∧ wordAt (.vcmax 4 1 8 0 7 false false) pair (2 ^ 60) = some 0xFEDCBA9876543210 := by
  decide +kernel

/-- R163 in FP32: 1 + 2 and the larger of 1 and 2. -/
theorem test_float_reduces :
    (let s := withWords [(2 ^ 60, 0x3F800000)] (vec 0x023 1 [(4, [0x40000000]), (8, [0])] (withX [(1, 0x8000000000000000)]))
     wordAt (.vcfadd 4 1 8 0 7 false false) s (2 ^ 60) = some 0x40400000 ∧ wordAt (.vcfmax 4 1 8 0 7 false false) s (2 ^ 60) = some 0x40000000) := by
  decide +kernel

/-- R165, R167: a handle from memory and back, its words read and written; a selector above 3 takes cause 0x26. -/
theorem test_handles :
    after (.hld 3 1 0 7) (larder []) (fun t => (vread t.th.h 3).extractLsb' 64 64) = some 0x8877665544332211
    ∧ (let s := withX [(1, 0x8000000000000000), (2, 1), (4, 5)] { State.reset with th := { State.reset.th with h := vwrite State.reset.th.h 3 7 } }
       wordAt (.hst 3 1 0 7) s (2 ^ 60) = some 7 ∧ after (.hget 5 3 0) s (·.x 5) = some 7
       ∧ after (.hset 3 1 2) s (fun t => (vread t.th.h 3).extractLsb' 64 64) = some 0x8000000000000000)
    ∧ traps (.hget 5 3 4) (withX [(4, 5)]) 0x26 5 = true := by
  decide +kernel

/-- The thread of the worked example of R169: 70 rows of 100 FP32 columns under TILE, from (98, 33). -/
def tiled : State :=
  let h : BitVec 256 := (0x100000 : BitVec 256) ||| (0x450063 <<< 64) ||| (0x1000232 <<< 128)
  let s := vec 0x023 4 [(4, [1, 2, 3, 4])] (withX [(4, 0x210062)])
  withWords [(0x307088, 0x200000001), (0x304100, 0x400000003)] (pod { s with th := { s.th with h := vwrite s.th.h 3 h } })

/-- R166, R169, the worked example: the four places of CLD. -/
theorem test_cld : elems (.cld 0 3 4 0 0 false false) tiled 0 4 = some [1, 2, 3, 4] := by
  decide +kernel

/-- R166, R169: CST at the same places. -/
theorem test_cst : after (.cst 4 3 4 0 7 false false) { tiled with mem := (pod State.reset).mem }
    (fun t => (memWord t.mem 0x307088, memWord t.mem 0x304100)) = some (0x200000001, 0x400000003) := by
  decide +kernel

/-- R170-R173: binding, trimming, freeing; a pop takes the next elements and moves POS. -/
theorem test_feeds :
    (let s := larder [(2, 16)]
     let bound := { s with th := { s.th with feeds := vwrite s.th.feeds 1 ⟨0x8000000000000000, 0x8000000000000010, 0x8000000000000000, true⟩ } }
     after (.fbind 1 1 2) s (fun t => vread t.th.feeds 1) = some ⟨0x8000000000000000, 0x8000000000000010, 0x8000000000000000, true⟩
     ∧ after (.ftrim 1 2) (withX [(2, 4)] bound) (fun t => (vread t.th.feeds 1).last) = some 0x8000000000000004
     ∧ after (.ffree 1) bound (fun t => (vread t.th.feeds 1).bound) = some false
     ∧ after (.fpop 4 1 5 7 false false) (vec 0x013 2 [] bound) (fun t => (t.th.elem 4 32 0, t.th.elem 4 32 1, (vread t.th.feeds 1).pos))
       = some (0x76543210, 0xFEDCBA98, 0x8000000000000008)) := by
  decide +kernel

/-- R171, R172: a gather and a scatter through the indices 1 and 0 that a feed holds. -/
theorem test_feed_indices :
    (let s := vec 0x013 2 [(4, [7, 9])] (withWords [(2 ^ 60 + 16, 1)] (larder []))
     let s := { s with th := { s.th with feeds := vwrite s.th.feeds 1 ⟨0x8000000000000010, 0x8000000000000018, 0x8000000000000010, true⟩ } }
     elems (.vgathf 4 1 1 0 7 false false) s 4 2 = some [0xFEDCBA98, 0x76543210]
     ∧ wordAt (.vscatf 4 1 1 0 7 false false) s (2 ^ 60) = some 0x700000009) := by
  decide +kernel

/-- R174, R175 with a window of 1 KiB: element 0 of lane 0 and element 2 of lane 1 under n32, in order and by index. -/
theorem test_pantry :
    (let s := withWords [(2 ^ 61 + 8, 5), (2 ^ 61 + 2 ^ 14, 6)] (vec 0x013 3 [(4, [1, 2, 3]), (8, [2, 2, 0])])
     let s := { s with th := { s.th with psize := 1 } }
     elems (.pldx 4 1 8 0 7 false false) s 4 3 = some [5, 5, 6]
     ∧ wordAt (.pst 4 1 0 7 false false) s (2 ^ 61) = some 0x200000001 ∧ wordAt (.pst 4 1 0 7 false false) s (2 ^ 61 + 2 ^ 14) = some 3
     ∧ wordAt (.pstx 4 1 8 0 7 false false) s (2 ^ 61 + 2 ^ 14) = some 3 ∧ elems (.pld 4 1 0 7 false false) s 4 3 = some [0, 0, 6]) := by
  decide +kernel

/-! ## Streams (07_streams.md R187-R189) -/

/-- The counters and edges; a target above the issued count takes cause 0x0B, and one that is not reached waits. -/
theorem test_streams :
    (let s := withX [(1, 5), (2, 4)] { State.reset with th := { State.reset.th with ic := vwrite State.reset.th.ic 1 5, cc := vwrite State.reset.th.cc 1 4 } }
     after (.waitc 2 1) s (·.th.pc) = some 4 ∧ after (.waitc 1 1) s (fun t => (t.th.pc, t.th.wait)) = some (0, some (.stream 1))
     ∧ after (.mfic 3 1) s (·.x 3) = some 5 ∧ after (.mfcc 3 1) s (·.x 3) = some 4
     ∧ after (.mte 1 3) s (fun t => vread t.th.e 3) = some 5 ∧ after (.mte 1 0) s (fun t => vread t.th.e 0) = some 0
     ∧ after (.mfe 3 7) s (·.x 3) = some 0xFF
     ∧ after (.mtss 1 2) { s with th := { s.th with priv := true } } (fun t => (vread t.th.ic 2, vread t.th.cc 2)) = some (5, 5))
    ∧ traps (.waitc 1 1) (withX [(1, 5)]) 0x0B 5 = true := by
  decide +kernel

/-! ## Matrices (10_matrix.md) -/

/-- The source and the descriptor of the worked example under R242: an E4M3 tile with K = 4 and N = 2. -/
def fp8Source : State :=
  vec 0x023 4 [(4, [0x3F800000, 0x40000000, 0x40800000, 0xC1000000])]
    (withWords [(2 ^ 60, 0x013CC42808B07E40)] (withX [(10, 0), (11, 0x0100000002140103)]))

/-- R231-R234: TLDL makes t0 READY and reserves 192 bytes. -/
theorem test_tldl :
    after (.tldl 0 10 11 8) fp8Source (fun t => ((vread t.th.tiles 0).ready, (t.cluster 0).regions.map (fun r => (r.off, r.size))))
      = some (true, [(0x8000, 192)]) := by
  decide +kernel

/-- The state after that load. -/
def fp8Tile : State :=
  match exec (.tldl 0 10 11 8) fp8Source with
  | .next t => t
  | _ => fp8Source

/-- R237, the worked example: the row through all planes gives -10 and 432. -/
theorem test_mrowz : after (.mrowz 0 4 1 0) fp8Tile (fun t => (accCol (vread t.th.acc 1) 0, accCol (vread t.th.acc 1) 1))
    = some (0xC1200000, 0x43D80000) := by
  decide +kernel

/-- R237, the worked example: the row through four planes gives -11 and 192. -/
theorem test_mrowz_planes : after (.mrowz 0 4 2 4) fp8Tile (fun t => (accCol (vread t.th.acc 2) 0, accCol (vread t.th.acc 2) 1))
    = some (0xC1300000, 0x43400000) := by
  decide +kernel

/-- R235, R236: MROW adds to the accumulator; an EMPTY slot takes cause 0x30. -/
theorem test_mrow :
    after (.mrow 0 4 1 0) { fp8Tile with th := { fp8Tile.th with acc := vwrite fp8Tile.th.acc 1 0x41200000 } } (fun t => accCol (vread t.th.acc 1) 0)
      = some 0
    ∧ traps (.mrow 2 4 1 0) fp8Source 0x30 2 = true := by
  decide +kernel

/-- R231: TLDP of the same bytes from pod memory. -/
theorem test_tldp :
    after (.tldp 0 10 11 8) (withX [(10, 0x40000)] (withWords [(0x240000, 0x013CC42808B07E40)] (pod fp8Source)))
      (fun t => ((vread t.th.tiles 0).ready, memWord t.mem (2 ^ 60 + 0x8000))) = some (true, memWord fp8Tile.mem (2 ^ 60 + 0x8000)) := by
  decide +kernel

/-- R240-R243: the accumulators, and the release of a slot. -/
theorem test_accumulators :
    (let s := vec 0x023 2 [(8, [5, 6])]
     after (.accwr 8 3) s (fun t => (accCol (vread t.th.acc 3) 0, accCol (vread t.th.acc 3) 1, accCol (vread t.th.acc 3) 2)) = some (5, 6, 0)
     ∧ (let s := { s with th := { s.th with acc := vwrite s.th.acc 3 0x700000009 } }
        after (.accrd 4 9 3) s (fun t => (t.th.elem 4 32 0, t.th.elem 4 32 1, t.x 9)) = some (9, 7, 0xFFFFFFFF)
        ∧ after (.accclr 3) s (fun t => vread t.th.acc 3) = some 0))
    ∧ after (.tfree 0) fp8Tile (fun t => ((vread t.th.tiles 0).ready, (t.cluster 0).regions)) = some (false, []) := by
  decide +kernel

/-! ## The cluster (12_cluster.md) -/

/-- R266, R267: a gang keeps the low halves of its registers and holds its slot on the next core; UNGANG gives that back. -/
theorem test_gang :
    (let s := { State.reset with th := { State.reset.th with slot := .running } }
     let g := { s with th := { s.th with gang := true }, parked := [(4, upperSlot { s.th with gang := true })] }
     after .gang s (fun t => (t.th.gang, (t.thread 4).gangHigh)) = some (true, true)
     ∧ after .ungang g (fun t => (t.th.gang, (t.thread 4).gangHigh)) = some (false, false)) := by
  decide +kernel

/-- R272, R273 on the line at Larder offset 128: LDW and LDC take a FULL line, LDC empties it, STFL fills an EMPTY one. -/
theorem test_full_empty :
    (let s := vec 0x003 1 [(4, [3])] (withWords [(2 ^ 60 + 128, 9)] (withX [(1, 0x8000000000000080)]))
     let f := s.setCluster 0 { s.cluster 0 with full := [1] }
     let see (i : Instr) (u : State) := after i u (fun t => (t.th.elem 4 32 0, (t.cluster 0).full, t.th.pc))
     see (.ldw 4 1 0 7 false false) f = some (9, [1], 4) ∧ see (.ldc 4 1 0 7 false false) f = some (9, [], 4)
     ∧ see (.ldw 4 1 0 7 false false) s = some (3, [], 0) ∧ see (.stfl 4 1 0 7 false false) s = some (3, [1], 4)
     ∧ wordAt (.stfl 4 1 0 7 false false) s (2 ^ 60 + 128) = some 3) := by
  decide +kernel

/-- R272: LCLR empties every line with a byte of its range. -/
theorem test_lclr :
    (let s := withX [(1, 0x8000000000000080), (2, 129)]
     after (.lclr 1 2 0 7 false) (s.setCluster 0 { s.cluster 0 with full := [0, 1, 2, 3] }) (fun t => (t.cluster 0).full) = some [0, 3]) := by
  decide +kernel

/-- R276-R280: 3 bytes to an odd place. -/
theorem test_copy :
    wordAt (.copy 3 4 1 0 7 false) (larder [(3, 3), (4, 0x800000000000000D)]) (2 ^ 60 + 8) = some 0x5432105544332211 := by
  decide +kernel

/-- R277, check 1: a size word with a reserved bit takes cause 0x3A. -/
theorem test_copy_reserved :
    traps (.copy 3 4 1 0 7 false) (larder [(3, 0x800000000000), (4, 0x800000000000000D)]) 0x3A 0x800000000000 = true := by
  decide +kernel

/-- The cluster of an ASID 0 that counts source 2 in counter 1 with threshold 3. -/
def counting (n : BitVec 32) : State :=
  let c := State.reset.cluster 0
  State.reset.setCluster 0 { c with counters := vwrite c.counters 1 { owner := some 0, cnt := n, src := 2, thr := 3 } }

/-- R283, R286: a pulse of its source counts, EVWAIT takes the threshold off, and waits below it. -/
theorem test_events :
    after (.evpulse 2) (counting 1) (fun t => (vread (t.cluster 0).counters 1).cnt) = some 2
    ∧ after (.evpulse 3) (counting 1) (fun t => (vread (t.cluster 0).counters 1).cnt) = some 1
    ∧ after (.evwait 5 1) (counting 4) (fun t => (t.x 5, (vread (t.cluster 0).counters 1).cnt)) = some (4, 1)
    ∧ after (.evwait 5 1) (counting 2) (fun t => (t.th.pc, t.th.wait)) = some (0, some (.event 1)) := by
  decide +kernel

/-- R285: a record that defines counter 0 for source 5 with threshold 7, and target 3 without an action. -/
theorem test_evcfg :
    after (.evcfg 1 3) (withWords [(2 ^ 60 + 16, 0x10000), (2 ^ 60 + 56, 0x705)] (withX [(1, 0x8000000000000000)]))
      (fun t => let q := vread (t.cluster 0).counters 0
                (q.owner, q.src, q.thr, (vread (t.cluster 0).targets 3).owner)) = some (some 0, 5, 7, some 0) := by
  decide +kernel

/-- R288-R291: a program of one step that pulses source 2; word 1 of the descriptor is 0 at its end. -/
theorem test_macro :
    (let s := withWords [(2 ^ 60, 1), (2 ^ 60 + 32, 0x21)] { counting 1 with th := (withX [(1, 0x8000000000000000)]).th }
     after (.macroOp 1) s (fun t => (t.th.pc, (vread (t.cluster 0).counters 1).cnt, memWord t.mem (2 ^ 60 + 8))) = some (4, 2, 0)) := by
  decide +kernel

/-- R293, R294: the first PHASE of a pod without one is 1, the next 2; LEADSET is privileged. -/
theorem test_phases :
    after .phase State.reset (·.th.tph) = some (some 1)
    ∧ after .phase { State.reset with th := { State.reset.th with tph := some 1 } } (·.th.tph) = some (some 2)
    ∧ after (.leadset 3) { State.reset with th := { State.reset.th with priv := true } } (fun t => (t.cluster 0).lead) = some 3
    ∧ traps (.leadset 3) State.reset 0x04 0xEC001003 = true := by
  decide +kernel

/-! ## Seals, views and relayouts (13_die_memory.md, 14_views_layouts.md) -/

/-- R316-R318: a seal of 64 KiB; a second one onto it takes cause 0x40; UNSEAL of exactly its region takes it away. -/
theorem test_seals :
    (let s := withX [(1, 0x10000), (2, 0x10000)]
     let q : SealRec := ⟨0, 0, 0x10000, 0x10000, false⟩
     let t := s.setDie 0 { s.die 0 with seals := [q] }
     after (.sealOp 1 2) s (fun t => (t.die 0).seals) = some [q] ∧ traps (.sealOp 1 2) t 0x40 0x10000 = true
     ∧ after (.unsealOp 1 2) t (fun t => (t.die 0).seals) = some []) := by
  decide +kernel

/-- R319-R321: a Dormer of a page of that seal, and its release. -/
theorem test_dormers :
    (let s := withX [(1, 0x10000), (2, 0x1000)]
     let t := s.setDie 0 { s.die 0 with seals := [⟨0, 0, 0x10000, 0x10000, false⟩] }
     after (.dormer 5 1 2) t (fun t => ((t.die 0).registry.length, (t.die 0).dormers.map (fun e => (e.base, e.len)))) = some (1, [(0x10000, 0x1000)])
     ∧ (let d := t.setDie 0 { t.die 0 with dormers := [⟨0, 0, 0x10000, 0x1000, none, false⟩], registry := [⟨0, 0, 0x10000, 0x1000, 0, 0⟩] }
        after (.dormrel 3) (withX [(3, 0xC000000000000000)] d) (fun t => ((t.die 0).registry, (t.die 0).dormers)) = some ([], []))) := by
  decide +kernel

/-- A master of 16 by 16 FP32 elements under LIN at 0x200000, and a view descriptor for BF16 at 0x100000. -/
def master : State :=
  let h : BitVec 256 := (0x200000 : BitVec 256) ||| (0x000F000F <<< 64) ||| (0x1000032 <<< 128)
  let s := pod (withX [(1, 0x100000)])
  withWords [(0x300000, 0x23)] { s with th := { s.th with h := vwrite s.th.h 1 h } }

/-- R327, R336: VIEWREG of a handle that is not valid takes cause 0x52, reason 1. -/
theorem test_viewreg : traps (.viewreg 5 2 1) (withX [(1, 0x100000)]) 0x52 1 = true := by
  decide +kernel

/-- A live view of entry 3 with one fresh block, and its reference in x1. -/
def viewed : State :=
  let v : View := ⟨0, false, 0, none, vread master.th.h 1, 3, 2, 0, 0, 0x101000, 3, true, [{ stale := false }], 0⟩
  let t := master.setDie 0 { master.die 0 with views := [(3, v)] }
  withX [(1, viewRef 0x200000 3), (2, 0x8000000000000000)] t

/-- R338-R340: VIEWSYNC passes over a fresh block, VIEWDROP ends the view, VIEWQ of query 2 clears SRV. -/
theorem test_view_references :
    after (.viewsync 1 false) viewed (·.th.pc) = some 4 ∧ after (.viewdrop 1) viewed (fun t => (t.die 0).views) = some []
    ∧ after (.viewq 5 1 2) viewed (fun t => (t.die 0).views.map (·.2.srv)) = some [false] := by
  decide +kernel

/-- R341, R347: the settle form passes where RLP is 0; a handle that is not valid takes cause 0x53, reason 1. -/
theorem test_relayout :
    after (.relayout 1 1) (withX [(1, 0xFF)] master) (·.th.pc) = some 4
    ∧ traps (.relayout 2 1) (withX [(1, 0x400002)]) 0x53 1 = true := by
  decide +kernel

/-! ## Traps and special registers (11_traps.md) -/

/-- R261, R253: TRAP commits first: EPC is the next address, and the thread goes on at TVEC at system privilege with INH 1. -/
theorem test_trap :
    after (.trap 5) (framed State.reset) (fun t => (memWord t.mem 0x201000, memWord t.mem 0x201008, memWord t.mem 0x201010))
      = some (4, 0x0E, 5)
    ∧ after (.trap 5) (framed State.reset) (fun t => (t.th.pc, t.th.priv, t.th.inh)) = some (0x2000, true, true) := by
  decide +kernel

/-- R256: ERET from a head at FRAMEP with EPC 0x40, x1 = 9, VTYPE s8 and VL 8; a reserved bit of EPC takes cause 0x0D. -/
theorem test_eret :
    (let s := framed { State.reset with th := { State.reset.th with priv := true, inh := true } }
     let s := withWords [(0x201000, 0x40), (0x201020, 9), (0x201118, 8), (0x201120, 1)] s
     after .eret s (fun t => (t.th.pc, t.th.priv, t.th.inh, t.x 1, t.th.vl, t.th.vtype)) = some (0x40, false, false, 9, 8, 1)
     ∧ after .eret { s with th := { s.th with inh := false }, mem := memPut s.mem 0x201007 [0x80] } (fun t => memWord t.mem 0x201008) = some 0x0D) := by
  decide +kernel

/-- R262: reads and writes of special registers; a number outside the table takes cause 0x0C, a system register cause 0x04. -/
theorem test_special_registers :
    after (.mfs 5 1) State.reset (·.x 5) = some 0x23 ∧ after (.mfs 5 0) State.reset (·.x 5) = some 256
    ∧ after (.mts 1 0) (withX [(1, 300)]) (·.th.vl) = some 256 ∧ after (.mts 1 4) (withX [(1, 0)]) (·.th.srnd) = some 1
    ∧ traps (.mfs 5 0x0D) State.reset 0x0C 0x0D = true ∧ traps (.mfs 5 0x10) State.reset 0x04 0xF8A02010 = true
    ∧ traps (.mts 1 5) State.reset 0x0C 5 = true := by
  decide +kernel

/-- R263, R264: YIELD passes where nobody waits; ERD of selector 4 is the number of the period; selector 5 is reserved. -/
theorem test_yield_erd :
    after .yield State.reset (·.th.pc) = some 4 ∧ after (.erd 5 4) State.reset (·.x 5) = some 0
    ∧ traps (.erd 5 5) State.reset 0x02 0xF8A05005 = true := by
  decide +kernel

/-! ## Runs, collectives and token rows (16_package_scheduling.md, 18_fabric.md) -/

/-- A run of one stage whose single level C has three groups, described at 0x3000, its stage at 0x4000, in an ASID of partition 1. -/
def launch : State :=
  let s := withWords [(0x203000, 1), (0x203008, 0x4000), (0x204010, 4), (0x204020, 3)] (pod (withX [(1, 0x3000)]))
  s.setPkg 0 { s.pkg 0 with asidmap := [(0, 0x21)] }

/-- R356-R358, R375: the descriptor is accepted with its group count; one without a stage takes cause 0x68. -/
theorem test_run :
    (match readRun launch ⟨0, false, 0, []⟩ false 0 0x3000 3 with
      | .ok (some r, _) => r.stages.map (·.gc) == [3]
      | _ => false) = true
    ∧ traps (.run 5 1) (withX [(1, 0x5000)]) 0x68 0x5000 = true := by
  decide +kernel

/-- R376, R377: GROW by 0 outside a run gives 0, by 1 takes cause 0x69; EXIT makes the slot drain. -/
theorem test_grow_exit :
    after (.grow 5 1) State.reset (·.x 5) = some 0 ∧ traps (.grow 5 1) (withX [(1, 1)]) 0x69 1 = true
    ∧ after .exit State.reset (fun t => (t.th.slot, t.th.drain)) = some (.draining, some .exit) := by
  decide +kernel

/-- The contribution of an index to the collective of the worked example under R424, its home moved to die 0 of node 0. -/
def contrib (cidx : Nat) (v : Word) : Contrib :=
  ⟨0, 0, 3, none, 0, false, 0, 0x0000013000420000, BitVec.ofNat 64 (0x0003000000140001 + cidx * 2 ^ 32), 0, 0, 0, 0, [v], false⟩

/-- R418, R421: a non-blocking COLL leaves its contribution on the way, one element outstanding. -/
theorem test_coll :
    (let s := withWords [(2 ^ 60, 0x0000013000420000), (2 ^ 60 + 8, 0x0003000100140001), (2 ^ 60 + 64, 0x3F800000)]
       (withX [(1, 0x8000000000000000), (2, 0x8000000000000040)])
     after (.coll 1 2 0 3 7 true) s (fun t => ((t.die 0).contribs.map (·.data), vread t.th.ic 3, vread t.th.cc 3)) = some ([[0x3F800000]], 1, 0)) := by
  decide +kernel

/-- R419, R424, the worked example: the status of a PARTIAL slot with two of three contributions and one late one; a key without a slot. -/
theorem test_collq :
    (let s := withWords [(2 ^ 60, 0x0000013000420000), (2 ^ 60 + 8, 0x0003000000140001)] (withX [(1, 0x8000000000000000)])
     let slot : Combiner := { asid := 0, w0 := 0x0000013000420000, w1 := 0x0003000000140001, state := 3,
                              arrived := [contrib 0 0x4B800000, contrib 1 0x3F800000], disc := 1 }
     after (.collq 1) (s.setDie 0 { s.die 0 with combiners := [(0, slot)] }) (·.x 1) = some 0x0002000100000203
     ∧ after (.collq 1) s (·.x 1) = some 0x07FF000000000000) := by
  decide +kernel

/-- R425: a row without a used slot counts its 8 elements at once; one to an address of the Larder takes cause 0x62. -/
theorem test_tsend :
    (let s := vec 0x013 8 [(8, List.replicate 8 0xFFFF)] (withX [(1, 0x40)])
     after (.tsend 4 1 8 3 7 false false) s (fun t => (t.th.pc, vread t.th.cc 3)) = some (4, 8)
     ∧ traps (.tsend 4 2 8 3 7 false false) (withX [(2, 0x8000000000000000)] s) 0x62 0x8000000000000000 = true) := by
  decide +kernel

/-! ## Events -/

/-- 07_streams.md R185: a pending store performs, and its operation completes. -/
theorem test_element_complete :
    (let p : Pend := { kind := .store, op := 0, sn := 2, asid := 0, addr := 0x8000000000000000, key := 2 ^ 60, sew := 64, data := 7 }
     let s := { State.reset with th := { State.reset.th with pend := [p], ops := [⟨0, 2, 1⟩], ic := vwrite State.reset.th.ic 2 1 } }
     after (.elementComplete 0 0) s (fun t => (memWord t.mem (2 ^ 60), t.th.ops, vread t.th.cc 2)) = some (7, [], 1)) := by
  decide +kernel

/-- 18_fabric.md R406: a flit with a bad checksum is counted at its port. -/
theorem test_flit_crc :
    ∃ u, exec (.flitReceive 0 { dphys := 0, src := 8, ctl := false, copy := false, kind := 1, seq := 0, port := some 2 } false) State.reset
        = .next u ∧ ((u.pkg 0).ports.look {} 2).crcerr = 1 := by
  refine ⟨_, rfl, ?_⟩
  show (((countUncor (countCrc State.reset 0 (some 2)) 0 (some 2)).pkg 0).ports.look {} 2).crcerr = 1
  unfold countUncor
  dsimp only
  split <;> decide +kernel

/-- 17_package_system.md R390: a period starts: its number goes up and the written budgets take effect. -/
theorem test_budget_period :
    (let p : Partition := { budget := 5, used := 3 }
     after (.budgetPeriodStart 0) (State.reset.setPkg 0 { State.reset.pkg 0 with parts := [(0, p)] })
       (fun t => ((t.pkg 0).period, ((t.pkg 0).part 0).inBudget, ((t.pkg 0).part 0).used)) = some (1, 5, 0)) := by
  decide +kernel

/-! ## A step -/

/-- 02_encoding.md R45, log 11: the word of `add x3, x1, x2` is fetched and run. -/
theorem test_step_fetches :
    (let s := (withX [(1, 4), (2, 5)]).withFetchWord 32 0x04611000
     (match step s with
     | .next t => t.x 3 == 9 && t.th.pc == 4
     | _ => false) = true) := by
  decide +kernel

/-- 04_scalar_control.md R101: a pc in no page of code takes cause 0x09. -/
theorem test_step_unmapped :
    (match issueThread (framed State.reset) with
     | .next t => memWord t.mem 0x201008 == 9
     | _ => false) = true := by
  decide +kernel

/-! ## Witnesses: for each statement with hypotheses, a state and operands that meet them -/

/-- An instruction that answers a next state. -/
theorem runs {i : Instr} {s : State} (h : after i s (fun _ => true) = some true) : ∃ t, exec i s = .next t := by
  unfold after at h
  split at h
  · exact ⟨_, ‹_›⟩
  · cases h

/-- The state of test_step_fetches, at the word of `add x3, x1, x2`. -/
def placed : State := State.reset.withFetchWord 32 0x04611000

/-- A state at pc 0 of a mapped page of code that holds zeros. -/
def zeros : State := { State.reset with code := [⟨0, 0, none, 0, 0, false⟩] }

/-- R52: a well-formed instruction with its word, and a word that decodes. -/
theorem witness_decode :
    (WellFormed (.add 3 1 2))
    ∧ (encode (.add 3 1 2) = some 0x04611000)
    ∧ (decode 0x04611000 = .ok (.add 3 1 2)) := by
  and_intros <;> decide +kernel

/-- R45: nothing on the agenda, nothing landing, and a word at the pc that decodes. -/
theorem witness_step_runs :
    let g : State := { placed.focus 0 with th := { (placed.focus 0).th with window := 0 } }
    (placed.agenda = [])
    ∧ (due placed = .thread 0)
    ∧ (landNow (placed.focus 0) = none)
    ∧ (g.th.vq = [])
    ∧ (g.th.gv = false)
    ∧ (fetchPlace (cacheCode g) (cacheCode g).th = some 0)
    ∧ (decodeBytes (codeBytes (cacheCode g) 0) = .ok (.add 3 1 2))
    ∧ (placed.caching.contains (slotCore 0) = false)
    ∧ ((placed.core (slotCore 0)).icache = []) := by
  and_intros <;> decide +kernel

/-- R101: no page of code; a page whose word does not decode; an event that is due. -/
theorem witness_other_steps :
    (fetchPlace State.reset State.reset.th = none)
    ∧ (fetchPlace zeros zeros.th = some 0)
    ∧ (decodeBytes (codeBytes (cacheCode zeros) 0) = .error .illegalMajor)
    ∧ ({ State.reset with agenda := [(0, .pantryScrub 0)] }.agenda = [(0, .pantryScrub 0)]) := by
  and_intros <;> decide +kernel

/-- A state with canonical memory whose step answers a next state. -/
theorem witness_step_keeps_memory :
    (placed.memOk)
    ∧ ((match step placed with
      | .next _ => true
      | _ => false) = true) := by
  unfold State.memOk
  and_intros <;> decide +kernel

/-- The thread after reset has nothing on its way in a settled pod, and a legal type. -/
theorem witness_quiet :
    (State.reset.idle)
    ∧ (State.reset.settled)
    ∧ (State.reset.alone)
    ∧ (State.reset.th.shaped)
    ∧ (State.reset.poison = [])
    ∧ (State.reset.th.vq = [])
    ∧ (State.reset.th.badRegs = [])
    ∧ (State.reset.th.softRegs = [])
    ∧ (State.reset.th.wait = none) := by
  unfold State.idle State.settled State.alone Thread.shaped
  and_intros <;> decide +kernel

/-- R110: outside a loop; before the end of a level; at the end with passes left, and with the last one, at level 3. -/
theorem witness_loop_end :
    let t : Thread := { ldepth := 3, lc := #v[0, 0, 2], le := #v[0, 0, 8] }
    ((State.reset.th.ldepth = BitVec.ofNat 2 0))
    ∧ (t.ldepth = BitVec.ofNat 2 3)
    ∧ ((4 : Word).toNat ≠ (vread t.le 2).toNat)
    ∧ ((8 : Word).toNat = (vread t.le 2).toNat)
    ∧ (1 < (vread t.lc 2).toNat)
    ∧ ((vread { t with lc := #v[0, 0, 1] }.lc 2).toNat ≤ 1) := by
  and_intros <;> decide +kernel

/-- R99 to R106: targets inside and outside code space, conditions that hold and that do not. -/
theorem witness_transfers :
    ((0xFFFFFFFFFFFC : Word).extractLsb' 0 2 = 0)
    ∧ ((0xFFFFFFFFFFFC : Word).extractLsb' 48 16 = 0)
    ∧ ((2 : Word).extractLsb' 0 2 ≠ 0)
    ∧ ((0x1000000000000 : Word).extractLsb' 48 16 ≠ 0)
    ∧ ((State.reset.x 1).toInt = 0)
    ∧ (¬ 0 < (State.reset.x 1).toInt) := by
  and_intros <;> decide +kernel

/-- R109: at the end of a level; a count of 2^32; a body beyond code space; a count of 0; a fourth level; a free level. -/
theorem witness_loop :
    let t : Thread := { ldepth := 3, le := #v[0, 0, 8], pc := 8 }
    let u : Thread := { pc := 0xFFFFFFFFFFF8 }
    ((t.pc.toNat = (vread t.le 2).toNat))
    ∧ (¬ (0 < State.reset.th.ldepth.toNat))
    ∧ (0xFFFFFFFF < ((withX [(1, 0x100000000)]).x 1).toNat)
    ∧ (0xFFFFFFFFFFFC < u.pc.toNat + 4 * 2)
    ∧ (State.reset.x 1 = 0)
    ∧ (¬ 0xFFFFFFFFFFFC < State.reset.th.pc.toNat + 4 * 256)
    ∧ (t.ldepth.toNat = 3)
    ∧ ((withX [(1, 1)]).x 1 ≠ 0)
    ∧ (State.reset.th.ldepth.toNat < 3) := by
  and_intros <;> decide +kernel

/-- R113: LDEPTH takes 3 and not 4. -/
theorem witness_loop_moves :
    (((withX [(1, 3)]).x 1).toNat ≤ 3)
    ∧ (3 < ((withX [(1, 4)]).x 1).toNat) := by
  and_intros <;> decide +kernel

/-- R15, R22: a legal and an illegal type, and both sides of the limit of the columns. -/
theorem witness_configuration :
    (vtypeLegal ((0x23 : BitVec 10).zeroExtend 64) = true)
    ∧ (vtypeLegal ((0x30 : BitVec 10).zeroExtend 64) = false)
    ∧ (vtypeLegal ((withX [(5, 0x413)]).x 5) = false)
    ∧ (((withX [(5, 16384)]).x 5).toNat ≤ 16384)
    ∧ (16384 < ((withX [(5, 16385)]).x 5).toNat)
    ∧ (∃ t, exec (.vseti 6 5 0x23) State.reset = .next t)
    ∧ (∃ t, exec (.vsetvl 6 5) State.reset = .next t)
    ∧ (∃ t, exec (.vsett 6 5) (withX [(5, 4)]) = .next t)
    ∧ (∃ t, exec (.vshapei 8) State.reset = .next t) := by
  and_intros
  all_goals first | decide +kernel | exact runs (by decide +kernel)

/-- A thread of natural integers with G = 2. -/
def wide : State := vec 0x113 4 [(2, [1, 2, 3, 4]), (4, [5, 6, 7, 8])]

/-- R123, R125: groups that pass their checks and complete, a group that is not aligned, and elements in range. -/
theorem witness_vector_int :
    let op := intOp wide .add 6 2 4 false 0 false false
    (wide.idle)
    ∧ (wide.th.shaped)
    ∧ (groupChecks wide.th.gpr op (intW2Ok op) (intSources .add op) = .ok ())
    ∧ (groupChecks wide.th.gpr (intOp wide .add 3 2 4 false 0 false false) true (intSources .add (intOp wide .add 3 2 4 false 0 false false)) = .error 0x05)
    ∧ (∃ t, exec (intForm .add 6 2 4 false 0 false false) wide = .next t)
    ∧ (∀ g ∈ intSources .add op, g = op.groupD ∨ op.groupD.overlaps g = false)
    ∧ (3 < vtG wide.th.vtype * wide.th.rb / op.sew)
    ∧ (wide.th.active false 3 = true) := by
  unfold State.idle Thread.shaped
  and_intros
  all_goals first | decide +kernel | exact runs (by decide +kernel)

/-- R73: the bounds of the widths and of their values. -/
theorem witness_element_values :
    (4 ≤ 64 ∧ (2 ^ 64 - 1 < 2 ^ 64) ∧ (15 < 2 ^ 4))
    ∧ (intMin true 4 = -8)
    ∧ (intMax true 4 = 7) := by
  and_intros <;> decide +kernel

/-- R126: aligned groups, and one that is not. -/
theorem witness_vector_compare :
    let op := cmpOp wide .lt 5 2 4 false false false
    (2 % op.g = 0)
    ∧ (4 % op.g = 0)
    ∧ (¬ 3 % (cmpOp wide .lt 5 3 4 false false false).g = 0) := by
  and_intros <;> decide +kernel

/-- R127, R124, R128: operations whose checks pass, and one under an integer type. -/
theorem witness_vector_float :
    let s := vec 0x023 4 []
    (groupChecks s.th.gpr (fltOp s .add 3 1 2 false 0 false) true (fltSources .add (fltOp s .add 3 1 2 false 0 false)) = .ok ())
    ∧ (fltChecks s .add (fltOp s .add 3 1 2 false 0 false) = .ok ())
    ∧ (fltChecks wide .add (fltOp wide .add 6 2 4 false 0 false) = .error 0x03)
    ∧ (pairLegal 2 2 = true)
    ∧ ((fp32.decode 0x7FC00000).isNan = true)
    ∧ (0xFFFFFFFF < 2 ^ 32) := by
  and_intros <;> decide +kernel

/-- R130: an empty stack and a full one. -/
theorem witness_mask_stack :
    (State.reset.th.msdepth.toNat ≤ 8)
    ∧ (State.reset.th.msdepth.toNat = 0)
    ∧ ({ State.reset.th with msdepth := 8 }.msdepth.toNat = 8)
    ∧ (0 < { State.reset.th with msdepth := 1 }.msdepth.toNat) := by
  and_intros <;> decide +kernel

/-- R132: a slide into another group, and one into its own source. -/
theorem witness_permutes :
    (permChecks wide .slideUp (permOp wide .slideUp 6 2 9 false) = .ok ())
    ∧ (permChecks wide .slideUp (permOp wide .slideUp 2 2 9 false) = .error 0x05)
    ∧ (2 % (permOp wide .slideUp 6 2 9 false).g = 0) := by
  and_intros <;> decide +kernel

/-- R134: results that fit, and more results than VLMAX: 256 rows of one element, with their indices. -/
theorem witness_reductions :
    let s := vec 0x023 256 []
    let r := { s with th := { s.th with cols := 1 } }
    (groupChecks s.th.gpr (redOp s .sum 3 1 false false) true [(redOp s .sum 3 1 false false).groupA] = .ok ())
    ∧ ((rowsOf s.th.cols.toNat s.th.vl.toNat).length ≤ vlmax s.th.vtype s.th.gang)
    ∧ (vlmax r.th.vtype r.th.gang < 2 * (rowsOf r.th.cols.toNat r.th.vl.toNat).length)
    ∧ (groupChecks wide.th.gpr (redOp wide .sum 3 2 false false) true [(redOp wide .sum 3 2 false false).groupA] = .error 0x05)
    ∧ (groupChecks s.th.gpr (segOp s .sum 3 1 1 false false) true [(segOp s .sum 3 1 1 false false).groupA] = .ok ()) := by
  and_intros <;> decide +kernel

/-- R134: an integer sum of one row of four. -/
theorem witness_integer_sum :
    let s := vec 0x003 4 [(1, [1, 2, 3, 4])]
    (s.th.cols = 0)
    ∧ (0 < s.th.vl.toNat)
    ∧ (groupChecks s.th.gpr (redOp s .sum 3 1 false false) true [(redOp s .sum 3 1 false false).groupA] = .ok ())
    ∧ ((redOp s .sum 3 1 false false).fmt ≤ 1)
    ∧ (∃ t, exec (.vrsum 3 1 false false) s = .next t) := by
  and_intros
  all_goals first | decide +kernel | exact runs (by decide +kernel)

/-- R137 to R142: a stage with legal and with illegal parameters, and a destination on its source. -/
theorem witness_sorts :
    let s := withX [(9, 0x20001), (8, 0x30001)] (vec 0x003 4 [])
    (sortChecks .step (sortOp s .step 3 1 9 false) = .ok ())
    ∧ (sortBad .step (sortOp s .step 3 1 9 false) s.th.gang = none)
    ∧ (sortBad .step (sortOp s .step 3 1 8 false) s.th.gang = some 0x30001)
    ∧ (sortChecks .step (sortOp s .step 1 1 9 false) = .error 0x05) := by
  and_intros <;> decide +kernel

/-- R143 to R145: a scaled format, and one that is none. -/
theorem witness_scales :
    let s := vec 0x001 4 []
    (scaleChecks s .quant (scaleOp s .quant 8 16 0 0 false) = .ok ())
    ∧ (scaleChecks s .bmax (scaleOp s .bmax 0 16 0 0 false) = .ok ())
    ∧ (scaleChecks wide .quant (scaleOp wide .quant 8 16 0 0 false) = .error 0x03) := by
  and_intros <;> decide +kernel

/-- R149 to R151, each clause at its boundary: tags, nodes, fixed bits, ends of the Larder and of a window of 1 KiB, registers. -/
theorem witness_access_checks :
    let user : Agent := ⟨0, false, 0, []⟩
    let sys : Agent := ⟨0, true, 0, []⟩
    let s := { State.reset with th := { State.reset.th with psize := 1 } }
    (tagOf 0x1000000000000000 ∉ [0x0, 0x8, 0x9, 0xC, 0xF])
    ∧ (127 < nodeOf 0x0800000000000000)
    ∧ (nodeOf 0x07F0000000000000 ≤ 127)
    ∧ ((1 : Word).toNat % 8 ≠ 0)
    ∧ ((0x8000000000800000 : Word).extractLsb' 23 37 ≠ 0)
    ∧ ((0x80000000007FFFF8 : Word).extractLsb' 23 37 = 0)
    ∧ ((0x80000000007FFFF8 : Word).toNat % 2 ^ 23 + 8 ≤ 2 ^ 23)
    ∧ (checkAccess s user true 8 8 0 0x80000000007FFFF8 = .ok (.mem (2 ^ 60 + 0x7FFFF8)))
    ∧ (checkAccess s user true 8 8 0 0x80000000007FFFFC = .error (.trap 0x25 0x80000000007FFFFC))
    ∧ ((0x80000000007FFFF8 : Word).toNat % 8 = 0 ∧ 2 ^ 23 < (0x80000000007FFFF8 : Word).toNat % 2 ^ 23 + 16)
    ∧ (s.th.psize.toNat * 1024 < (0x9000000000000400 : Word).toNat % 2 ^ 14 + 1)
    ∧ ((0x90000000000003F8 : Word).toNat % 2 ^ 14 + 8 ≤ s.th.psize.toNat * 1024)
    ∧ (checkAccess s user true 8 8 0 0x90000000000003F8 = .ok (.mem (2 ^ 61 + 0x3F8)))
    ∧ (checkAccess s user true 8 8 0 0xF000000000000000 = .error (.trap 0x22 0xF000000000000000))
    ∧ (checkAccess s sys true 8 8 0 0xF7F0000000000000 = .ok (.reg 0xF7F0000000000000)) := by
  and_intros <;> decide +kernel

/-- The pod with a seal of its page 1, and an agent of ASID 0 at user privilege. -/
def sealed : State := pod (State.reset.setDie 0 { State.reset.die 0 with seals := [⟨0, 0, 0x200000, 0x10000, false⟩] })

/-- R303 to R305, R151: a page that may be written, one that may not, one that is sealed, and one that is absent. -/
theorem witness_translation :
    let user : Agent := ⟨0, false, 0, []⟩
    ((pod State.reset).reachable (slotDie 0) (nodeOf 0x200000) = true)
    ∧ ((pod State.reset).homeOf (slotNode 0) 0x200000 = 0)
    ∧ ((pod State.reset).migrating 0 0 0x200000 = false)
    ∧ (walk (pod State.reset) 0 0 0x200000 = .leaf 0x400000 true true 0x10000)
    ∧ (0x400000 % 2 ^ 31 < 0x60000000)
    ∧ (engineOwned (pod State.reset) (podKey 0 0x400000) = false)
    ∧ (checkAccess (pod State.reset) user true 8 8 0 0x200000 = .ok (.mem 0x400000))
    ∧ (sealedAt (sealed.die 0) 0 0x200000 8 = true)
    ∧ (walk sealed 0 0 0x200000 = .leaf 0x400000 true true 0x10000)
    ∧ (walk (pod State.reset) 0 0 0x210000 = .leaf 0x410000 false false 0x10000)
    ∧ (walk (pod State.reset) 0 0 0x220000 = .absent false)
    ∧ (walk (withWords [(0, 0x205)] (pod State.reset)) 0 0 0x200000 = .bad) := by
  and_intros <;> decide +kernel

/-- R304: the entries on the way to page 1 of the pod. -/
theorem witness_page_walk :
    (memWord (pod State.reset).mem 0 = 0x201)
    ∧ (memWord (pod State.reset).mem 8 = 0)
    ∧ (memWord (pod State.reset).mem 0x200 = 0x8001)
    ∧ (memWord (pod State.reset).mem 0x8000 = 0x10001)
    ∧ (memWord (pod State.reset).mem 0x10008 = 0x401)
    ∧ (memWord (pod State.reset).mem 0x400 = 0x40000F)
    ∧ ((0x40000F : Word).getLsbD 1 = true)
    ∧ (tableOf 0x40000F % 2 ^ 16 = 0)
    ∧ (tableOf 0x40000F / 2 ^ 31 = (chanOf 0x200000).toNat)
    ∧ (tableOf 0x401 % 2 ^ 8 = 0)
    ∧ (tableOf 0x10001 % 2 ^ 13 = 0)
    ∧ (tableOf 0x8001 % 2 ^ 15 = 0)
    ∧ (let x : Xlat := ⟨0, 0, 0x20, 0x900000, true, false, 0x10000⟩
      let s := (pod State.reset).setDie 0 { (pod State.reset).die 0 with xlats := [x] }
      x.covers 0 0x200004 = true ∧ x.covers 0 0x210000 = false ∧ walk s 0 0 0x200004 = .leaf 0x900004 true false 0x10000
        ∧ walk s 0 0 0x210000 = walkTables s 0 0 0x210000)
    ∧ (((cacheWalk { pod State.reset with translating := [0] } 0 0 0x20F004).die 0).xlats
        = [⟨0, 0, 0x20, 0x400000, true, true, 0x10000⟩]) := by
  and_intros <;> decide +kernel

/-- The thread of `larder` on the pod, x5 in page 0, and a mapped page of another die's home in x6. -/
def mixed : State := withX [(1, 0x8000000000000000), (5, 0x40000), (6, 0xF000000000000000)] (pod State.reset)

/-- R151, R157: places in the Larder and in pod memory, and a check that fails. -/
theorem witness_scalar_memory :
    ((larder []).idle)
    ∧ ((larder []).settled)
    ∧ (checkAccess (larder []) (larder []).agent false 8 8 0 0x8000000000000000 = .ok (.mem (2 ^ 60)))
    ∧ (checkAccess (larder []) (larder []).agent true 32 32 0 0x8000000000000000 = .ok (.mem (2 ^ 60)))
    ∧ (checkAccess mixed mixed.agent true 8 8 0 0x40000 = .ok (.mem 0x240000))
    ∧ (remoteKey mixed.cur 0x240000 = false)
    ∧ (remoteKey mixed.cur (2 ^ 37) = true)
    ∧ (checkAccess mixed mixed.agent true 8 8 0 0xF000000000000000 = .error (.trap 0x22 0xF000000000000000))
    ∧ ((3 : Word).toNat ≤ 3)
    ∧ (3 < (4 : Word).toNat) := by
  unfold State.idle State.settled
  and_intros <;> decide +kernel

/-- R216: a register that a thread at system privilege reads and writes. -/
theorem witness_register_access :
    let s := { State.reset with th := { State.reset.th with priv := true } }
    (checkAccess s s.agent false 8 8 0 0xF000000001000000 = .ok (.reg 0xF000000001000000))
    ∧ ((match regRead s s.cur 0xF000000001000000 with
      | .ok _ => true
      | .error _ => false) = true)
    ∧ ((match regWrite s s.cur 0xF000000001000010 2 with
      | .ok _ => true
      | .error _ => false) = true) := by
  and_intros <;> decide +kernel

/-- R107: an index inside the table with a good entry and with a bad one, and one at its end. -/
theorem witness_jump_table :
    let s := withWords [(2 ^ 60, 0x40)] (withX [(1, 0x8000000000000000)])
    (checkAccess s s.agent false 8 8 0 0x8000000000000000 = .ok (.mem (2 ^ 60)))
    ∧ ((memWord s.mem (2 ^ 60)).extractLsb' 0 2 = 0)
    ∧ ((memWord s.mem (2 ^ 60)).extractLsb' 48 16 = 0)
    ∧ ((memWord (larder []).mem (2 ^ 60)).extractLsb' 48 16 ≠ 0)
    ∧ ((s.x 2).toNat < 1)
    ∧ (checkAccess State.reset State.reset.agent false 8 8 0 0x1000000000000000 = .error (.trap 0x20 0x1000000000000000)) := by
  and_intros <;> decide +kernel

/-- R158, R161: the masking index, the last one inside the channel, and the first one beyond it. -/
theorem witness_element_addresses :
    ((0x7FFFFFFF000 : Word).toNat % 2 ^ 43 + 0x3FF * 4 < 2 ^ 43)
    ∧ (2 ^ 43 ≤ (0x7FFFFFFF000 : Word).toNat % 2 ^ 43 + 0x400 * 4)
    ∧ (0x3FF ≠ 0xFFFFFFFF)
    ∧ (8 ∈ [8, 16, 32, 64]) := by
  and_intros <;> decide +kernel

/-- A unit load, a store and a reduce among the forms of majors 0x22 to 0x2A. -/
def unitLoad : MemForm := ⟨.load .unit, fun t b _ sn e k n => .vld t b sn e k n⟩

/-- The place of element 0 of the Larder thread. -/
def hit : Hit := ⟨0, 0x8000000000000000, false, .mem (2 ^ 60)⟩

/-- A Larder thread of one n32 element. -/
def one : State := vec 0x013 1 [(4, [7])] (larder [])

/-- R153 to R158: a unit load of one element of the Larder passes its checks, and its element resolves there. -/
theorem witness_vector_memory :
    let op := memOp one unitLoad 4 1 0 0 7 false false
    (one.idle)
    ∧ (one.settled)
    ∧ (one.th.shaped)
    ∧ (one.th.vl = 1)
    ∧ (one.th.active false 0 = true)
    ∧ (8 ≤ vtBits one.th.vtype)
    ∧ (memChecks one.th op (memTypeOk one unitLoad) = .ok ())
    ∧ (memBad one unitLoad 1 0 = none)
    ∧ (resolve one op ((List.range op.n_).filter (one.th.active op.k)) 0 = .ok (some hit, one))
    ∧ (hit.i = 0)
    ∧ (2 ^ 60 ≤ 2 ^ 60)
    ∧ (remoteKey one.cur (2 ^ 60) = false)
    ∧ (∃ t, exec (.vld 4 1 0 7 false false) one = .next t) := by
  unfold State.idle State.settled Thread.shaped
  and_intros
  all_goals first | decide +kernel | exact runs (by decide +kernel)

/-- The forms by their names: for each family a thread with nothing on its way and operands that pass the family's checks. -/
theorem witness_named_forms :
    let f := vec 0x023 4 []
    let n := withX [(9, 0x20001)] (vec 0x003 4 [])
    let q := vec 0x001 4 []
    let dop : VOp := { n.vop .dot4 3 1 2 (wordOf (.vdot4 3 1 2 false 0 false false)) with x := false, w2 := 0, k := false, s := false }
    let cop : VOp := { f.vop (.cvt 3 0) 3 1 0 (wordOf (.vcvt 3 1 3 0 false false)) with k := false, s := false }
    (∀ s ∈ [f, n, q, one], s.idle ∧ s.th.shaped ∧ s.settled ∧ s.poison = [])
    ∧ (groupChecks n.th.gpr dop (16 ≤ dop.sew && (16 < dop.sew || dop.signed)) (dotSources dop) = .ok ())
    ∧ (1 % vtG n.th.vtype = 0 ∧ 2 % vtG n.th.vtype = 0)
    ∧ (fltChecks f .madd (fltOp f .madd 3 1 2 false 0 false) = .ok ())
    ∧ (groupChecks f.th.gpr cop (pairLegal 0 3 && (cvtSource cop 3).n ≤ 8) [cvtSource cop 3] = .ok ())
    ∧ (permChecks n .perm (permOp n .perm 3 1 2 false) = .ok () ∧ permChecks n .compress (permOp n .compress 3 1 1 false) = .ok ())
    ∧ (groupChecks n.th.gpr (redOp n .maxI 3 1 false false) true [(redOp n .maxI 3 1 false false).groupA] = .ok ())
    ∧ (2 * (rowsOf n.th.cols.toNat n.th.vl.toNat).length ≤ vlmax n.th.vtype n.th.gang)
    ∧ (groupChecks n.th.gpr (segOp n .sum 3 1 1 false false) true [(segOp n .sum 3 1 1 false false).groupA] = .ok ())
    ∧ (sortChecks .step (sortOp n .step 3 1 9 false) = .ok () ∧ sortBad .step (sortOp n .step 3 1 9 false) n.th.gang = none)
    ∧ (scaleChecks q .quant (scaleOp q .quant 8 16 0 0 false) = .ok ())
    ∧ (unitLoad ∈ memForms ∧ unitLoad.form 4 1 0 0 7 false false = .vld 4 1 0 7 false false)
    ∧ (checkAccess one one.agent false 8 8 0 (one.x 1 + one.x 0) = .ok (.mem (2 ^ 60)))
    ∧ (checkAccess one one.agent true 4 4 0 (one.x 1 + one.x 0) = .ok (.mem (2 ^ 60))) := by
  unfold State.idle State.settled Thread.shaped
  and_intros
  all_goals first | decide +kernel | exact ⟨List.Mem.head _, rfl⟩ | exact List.Mem.head _

/-- R53, R172: a group that is not aligned, a type that an atomic does not take, and a feed that is not bound. -/
theorem witness_vector_memory_traps :
    let pop : MemForm := ⟨.pop, fun t b _ sn e k n => .fpop t (b.setWidth 2) sn e k n⟩
    let add : MemForm := ⟨.atom .add, .vaadd⟩
    let s := vec 0x001 1 []
    (memChecks wide.th (memOp wide unitLoad 3 1 0 0 7 false false) true = .error 0x05)
    ∧ (memChecks s.th (memOp s add 4 1 8 0 7 false false) (memTypeOk s add) = .error 0x03)
    ∧ ((memBad one pop 1 0).isSome = true) := by
  and_intros <;> decide +kernel

/-- R170: a range that ends at 2^64 - 1 and one that wraps; a feed that is bound and one that is not. -/
theorem witness_feeds :
    (tagOf 0x8000000000000000 ∈ [0, 8, 0xC])
    ∧ ((0xC000000000000000 : Word).toNat + (0x3FFFFFFFFFFFFFFF : Word).toNat < 2 ^ 64)
    ∧ (¬ (0xC000000000000000 : Word).toNat + (0x4000000000000000 : Word).toNat < 2 ^ 64)
    ∧ ((vread State.reset.th.feeds 1).bound = false)
    ∧ ((vread (vwrite State.reset.th.feeds 1 ⟨0, 0, 0, true⟩) 1).bound = true) := by
  and_intros <;> decide +kernel

/-- R231 to R233: a load from the Larder that passes, and a descriptor of no format. -/
theorem witness_tile_loads :
    let s := fp8Source
    (tileFails true 0 (s.x 10) (s.x 11) 8 = none)
    ∧ (∀ r ∈ (s.cluster s.clusterKey).regions, s.ownsRegion 0 r = false → ¬ (r.off < dOff (s.x 11) + dSize (s.x 11) 8 ∧ dOff (s.x 11) < r.off + r.size))
    ∧ ((match sourcePlaces s true (s.x 10) (s.x 11) with
      | .ok _ => true
      | .error _ => false) = true)
    ∧ (tileFails true 0 0 0x170000 8 = some (0x31, 0x170000))
    ∧ (∃ t, exec (.tldl 0 10 11 8) s = .next t) := by
  and_intros
  all_goals first | decide +kernel | exact runs (by decide +kernel)

/-- R236: a READY tile with all its planes, an EMPTY slot, more planes than it holds, and types that are no A row. -/
theorem witness_matrix_rows :
    let tile := vread fp8Tile.th.tiles 0
    (fp8Tile.idle)
    ∧ (fp8Tile.soft = [])
    ∧ (aRowOk fp8Tile.th.vtype = true)
    ∧ (4 % vtG fp8Tile.th.vtype = 0)
    ∧ (tile.ready = true)
    ∧ (planeCount 8 ≤ tile.ph.toNat)
    ∧ (dNq4 tile.desc = false)
    ∧ (tile.ph.toNat < planeCount 9)
    ∧ ((vread fp8Tile.th.tiles 1).ready = false)
    ∧ (¬ aRowOk 0x60 = true)
    ∧ (¬ 3 % vtG 0x123 = 0)
    ∧ (dK tile.desc ≤ 32)
    ∧ (1 < dN tile.desc)
    ∧ (∃ t, exec (.mrowz 0 4 1 0) fp8Tile = .next t) := by
  unfold State.idle
  and_intros
  all_goals first | decide +kernel | exact runs (by decide +kernel)

/-- R240: FP32 and an aligned group. -/
theorem witness_accumulators :
    (vtFmt State.reset.th.vtype = 2)
    ∧ (vtSew State.reset.th.vtype = 3)
    ∧ (8 % vtG State.reset.th.vtype = 0) := by
  and_intros <;> decide +kernel

/-- R237: an instruction of the matrix pipe that is not complete. -/
theorem witness_matrix_step :
    let s := { State.reset with th := { State.reset.th with rows := [{ op := { kind := .accClear }, step := 0 }] } }
    (s.th.rows = { op := { kind := .accClear }, step := 0 } :: [])
    ∧ (∃ t, exec (.matrixStep s.cur) s = .next t) := by
  and_intros
  all_goals first | decide +kernel | exact runs (by decide +kernel)

/-- R185 to R189: a target that is reached, one that is issued and not complete, one beyond the issued count, and an operation of the stream. -/
theorem witness_streams :
    let s := withX [(1, 5), (2, 4), (3, 6)] { State.reset with th := { State.reset.th with ic := vwrite State.reset.th.ic 1 5, cc := vwrite State.reset.th.cc 1 4, priv := true } }
    let t := { s with th := { s.th with ops := [⟨0, 1, 1⟩] } }
    (¬ 0 < (s.x 2 - vread s.th.ic 1).toInt ∧ 0 ≤ (vread (forceStreams s s.cur (· == 1)).th.cc 1 - s.x 2).toInt)
    ∧ (¬ 0 < (s.x 1 - vread s.th.ic 1).toInt ∧ (vread (forceStreams s s.cur (· == 1)).th.cc 1 - s.x 1).toInt < 0)
    ∧ (0 < (s.x 3 - vread s.th.ic 1).toInt)
    ∧ (∀ o ∈ (forceStreams s s.cur (· == 1)).th.ops, o.sn ≠ 1)
    ∧ (∃ o ∈ (forceStreams t t.cur (· == 1)).th.ops, o.sn = 1) :=
  ⟨by decide +kernel,
   by decide +kernel,
   by decide +kernel,
   by decide +kernel,
   ⟨⟨0, 1, 1⟩, by decide +kernel⟩⟩

/-- R327 to R331: a master and a descriptor that pass, a handle that cannot be a master, and a descriptor whose view is none. -/
theorem witness_views :
    let h := vread master.th.h 1
    let m := masterForm h none
    (master.idle)
    ∧ (master.settled)
    ∧ (masterOk h = true)
    ∧ (masterOk 0 = false)
    ∧ (master.reachable master.dieKey (nodeOf (hBase h)) = true)
    ∧ (tagOf (master.x 1) = 0)
    ∧ (checkAccess master master.agent false 16 64 0 (master.x 1) = .ok (.mem 0x300000))
    ∧ (memWord master.mem 0x300008 = 0)
    ∧ (liveRecord master 0 h master.th.asid = none)
    ∧ (descFails 0x23 (hShape h) = none)
    ∧ ((descFails 0x30023 (hShape h)).isSome = true)
    ∧ ((master.x 1).toNat % 4096 = 0)
    ∧ (storageFails 0x23 0x101000 (hShape h) (storageSpans (hLayout m) (hBase m) (hShape h) ++ storageSpans (hLayout h) (hBase h) (hShape h)) = false)
    ∧ (0 ∉ (master.die 0).views.map (·.1))
    ∧ (((master.die 0).views.filter (fun p => p.2.asid == master.th.asid && hBase p.2.master == hBase m)).length < 8)
    ∧ (checkAccess master master.agent true 32 32 0 0x100020 = .ok (.mem 0x300020)) := by
  unfold State.idle State.settled
  and_intros <;> decide +kernel

/-- The view of `viewed`. -/
def aView : View := ⟨0, false, 0, none, vread master.th.h 1, 3, 2, 0, 0, 0x101000, 3, true, [{ stale := false }], 0⟩

/-- The same view with a stale block. -/
def staleView : View := { aView with blocks := [{}] }

/-- R336 to R340: a live view, a reference to none, a block that is fresh and one that VIEWSYNC captures, and the queries. -/
theorem witness_view_references :
    (viewed.idle)
    ∧ (viewed.settled)
    ∧ ((match refView viewed (viewed.x 1) with
      | .ok (d, i, v, _) => d == 0 && i == 3 && v == aView
      | _ => false) = true)
    ∧ ((match refView viewed 0x1000000000000000 with
      | .error st => st == .trap 0x52 6
      | _ => false) = true)
    ∧ (∀ x ∈ aView.blocks, x.capturing = false)
    ∧ (syncTargets aView false = [])
    ∧ (syncTargets staleView true ≠ [])
    ∧ ((0 : Word).extractLsb' 48 16 = 0)
    ∧ (((0 : Word).extractLsb' 0 48).toNat < aView.blocks.length)
    ∧ ((0x4000000000000000 : Word).extractLsb' 48 16 = 0x4000)
    ∧ ((0x8000000000000000 : Word).extractLsb' 48 16 = 0x8000)
    ∧ ((0xC000000000000000 : Word).extractLsb' 62 2 = 3) := by
  unfold State.idle State.settled
  and_intros <;> decide +kernel

/-- A record of `master`'s handle, in a state. -/
def aRecord (st : BitVec 2) : Relay := ⟨0, false, 0, none, relaidHandle (vread master.th.h 1) 2 0x400000 5, 0, 0x200000, [.waiting], [0], st, 0, 0, 0, []⟩

/-- `master` with that record in entry 5, and the handle that names it. -/
def relaid (st : BitVec 2) : State :=
  let s := master.setDie 0 { master.die 0 with relays := [(5, aRecord st)] }
  withX [(1, 0xFF)] { s with th := { s.th with h := vwrite s.th.h 1 (relaidHandle (vread master.th.h 1) 2 0x400000 5) } }

/-- R341, R347: a new place that passes and one that does not; the settle form with a record in each of its states, and with none. -/
theorem witness_relayouts :
    let h := vread master.th.h 1
    let r := vread (relaid 1).th.h 1
    ((master.x 1).extractLsb' 0 12 ≠ 0xFF)
    ∧ ((0x1FF : Word).extractLsb' 0 12 ≠ 0xFF)
    ∧ (relayoutFails h 0x400002 = none)
    ∧ (relayoutFails 0 0x400002 = some 1)
    ∧ (hRlp h = false)
    ∧ (0 ∉ (master.die 0).relays.map (·.1))
    ∧ (∀ p ∈ master.dies, ∀ v ∈ p.2.views, ¬ (v.2.asid = master.th.asid ∧ hBase v.2.master = hBase h))
    ∧ (((relaid 1).x 1).extractLsb' 0 12 = 0xFF)
    ∧ (hRlp r = true)
    ∧ ((relaid 1).reachable 0 (nodeOf (hBase r)) = true)
    ∧ ((relaid 1).homeOf 0 (hBase r) = 0)
    ∧ (recordOf (relaid 1) 0 r 0 = some (aRecord 1))
    ∧ (recordOf (relaid 2) 0 r 0 = some (aRecord 2))
    ∧ (recordOf (relaid 3) 0 r 0 = some (aRecord 3))
    ∧ (recordOf { relaid 1 with dies := [] } 0 r 0 = none) := by
  and_intros <;> decide +kernel

/-- A pod with a seal of the 64 KiB at 0x10000. -/
def oneSeal : State := withX [(1, 0x10000), (2, 0x10000), (3, 0x1000)] (State.reset.setDie 0 { State.reset.die 0 with seals := [⟨0, 0, 0x10000, 0x10000, false⟩] })

/-- R316 to R318: a region and the seal that meets it, with a registration onto it and without one; an offset that is no multiple of 64 KiB. -/
theorem witness_seals :
    let e : SealRec := ⟨0, 0, 0x10000, 0x10000, false⟩
    let s := withX [(1, 0x10000), (2, 0x10000)]
    (oneSeal.idle)
    ∧ (oneSeal.settled)
    ∧ (oneSeal.alone)
    ∧ (regionOk (s.x 1) (s.x 2) 0x10000 = true)
    ∧ (regionOk 0x8000 (s.x 2) 0x10000 = false)
    ∧ (s.reachable s.dieKey (nodeOf (s.x 1)) = true)
    ∧ (∀ e ∈ (s.die 0).seals, ¬ (e.asid = s.th.asid ∧ e.chan = chanOf (s.x 1) ∧ e.off < offOf (s.x 1) + 0x10000 ∧ offOf (s.x 1) < e.off + e.len))
    ∧ ((s.die 0).seals.length < 512)
    ∧ (e ∈ (oneSeal.die 0).seals)
    ∧ (e.off < offOf (s.x 1) + 0x10000 ∧ offOf (s.x 1) < e.off + e.len)
    ∧ ((oneSeal.die 0).seals.find? (fun e => e.asid == 0 && e.chan == 0 && e.off == 0x10000 && e.len == 0x10000) = some e)
    ∧ (Registration.onto ⟨0, 0, 0x10000, 0x1000, 0, 0⟩ e = true)
    ∧ (Registration.onto ⟨0, 0, 0x20000, 0x1000, 0, 0⟩ e = false) := by
  unfold State.idle State.settled State.alone
  and_intros <;> decide +kernel

/-- R319 to R321: a region inside the seal, a free entry and a live one; a Dormer address that names no entry. -/
theorem witness_dormers :
    let d : Dormer := ⟨0, 0, 0x10000, 0x1000, none, false⟩
    let s := oneSeal.setDie 0 { oneSeal.die 0 with dormers := [d] }
    (regionOk 0x10000 0x1000 0x1000 = true)
    ∧ (regionOk 0x10800 0x1000 0x1000 = false)
    ∧ (0 ∉ (oneSeal.die 0).dormers.map (·.didx))
    ∧ (Registration.onto ⟨0, 0, 0x10000, 0x1000, 0, 0⟩ ⟨0, 0, 0x10000, 0x10000, false⟩ = true)
    ∧ ((oneSeal.die 0).registry.length < 1024)
    ∧ (dormerOf (s.die 0) 0 0xC000000000000000 = some d)
    ∧ (dormerOf (s.die 0) 0 0xC001000000000000 = none)
    ∧ ((0xC000000000000000 : Word).extractLsb' 56 4 = 0)
    ∧ (d.dead = false)
    ∧ (s.reachable 0 (nodeOf d.base) = true)
    ∧ (∃ t, exec (.dormrel 4) (withX [(4, 0xC000000000000000)] s) = .next t) := by
  and_intros
  all_goals first | decide +kernel | exact runs (by decide +kernel)

/-- R266: a thread that may gang, a gang, and a thread of an odd core. -/
theorem witness_gangs :
    let s := { State.reset with th := { State.reset.th with slot := .running } }
    (gangRefused s.serial = none)
    ∧ (∃ r, gangRefused { s with cur := 4 }.serial = some r)
    ∧ (s.th.gang = false)
    ∧ ({ s.th with gang := true }.gang = true)
    ∧ (∃ t, exec .gang s = .next t) :=
  ⟨by decide +kernel,
   ⟨_, rfl⟩,
   by decide +kernel,
   by decide +kernel,
   runs (by decide +kernel)⟩

/-- Clusters 0 and 1 of a die, with threads of ASID 0 at phases. -/
def phased (mine other : Nat) : State :=
  let t : Thread := { slot := .running, tph := some (BitVec.ofNat 32 mine) }
  { State.reset with th := t, parked := [(16, { t with tph := some (BitVec.ofNat 32 other) })] }

/-- R293, R294: no phase yet, a neighbour that is near enough at the lead of 15, and one that is not. -/
theorem witness_phases :
    (State.reset.th.tph = none)
    ∧ ((phased 15 1).th.tph = some 15)
    ∧ (∀ n ∈ neighbours 0, ∀ c, cph (phased 15 1).serial n 0 = some c → 16 ≤ c + 15)
    ∧ (∃ n ∈ neighbours 0, cph (phased 16 1).serial n 0 = some 1)
    ∧ (¬ 17 ≤ 1 + ((phased 16 1).cluster 0).lead.toNat) :=
  ⟨by decide +kernel,
   by decide +kernel,
   fun n hn c hc => by
      have h : ∀ n ∈ neighbours 0, (cph (phased 15 1).serial n 0).all (fun c => decide (16 ≤ c + 15)) = true := by decide +kernel
      have := h n hn; rw [hc] at this; simpa using this,
   ⟨1, by decide +kernel, by decide +kernel⟩,
   by decide +kernel⟩

/-- R286: a cluster without a target that acts. -/
theorem witness_pulses :
    (∀ j, j < 32 → (vread ((counting 1).cluster 0).targets j).owner = none ∨ (vread ((counting 1).cluster 0).targets j).action = 0)
    ∧ (vread ((counting 1).cluster 0).counters 1 = { owner := some 0, cnt := 1, src := 2, thr := 3 }) := by
  and_intros <;> decide +kernel

/-- A thread whose x1 names a record of EVCFG. -/
def record : State := withWords [(2 ^ 60 + 16, 0x10000), (2 ^ 60 + 56, 0x705)] (withX [(1, 0x8000000000000000)])

/-- R285: a record that passes, and one with a reserved bit. -/
theorem witness_configures :
    let ws : List Word := [0, 0, 0x10000, 0, 0, 0, 0, 0x705, 0, 0, 0, 0, 0, 0, 0, 0]
    ((match readWords record.serial record.agent (record.x 1) 16 128 with
      | .ok (l, _) => l == ws
      | .error _ => false) = true)
    ∧ (cfgFails (record.cluster 0) 0 3 ws = none)
    ∧ ((cfgFails (record.cluster 0) 0 3 (0x80 :: ws.drop 1)).isSome = true) := by
  and_intros <;> decide +kernel

/-- R286: a counter of another ASID's, one that has reached its threshold, and one below it. -/
theorem witness_event_waits :
    (((counting 3).cluster 0).mayWait 0 1 = true)
    ∧ (((counting 3).cluster 0).mayWait 0 2 = false)
    ∧ ((vread ((counting 3).cluster 0).counters 1).thr.toNat ≤ (vread ((counting 3).cluster 0).counters 1).cnt.toNat)
    ∧ ((vread ((counting 2).cluster 0).counters 1).cnt.toNat < (vread ((counting 2).cluster 0).counters 1).thr.toNat)
    ∧ ((vread ((counting 3).cluster 0).counters 1).waiters = []) := by
  and_intros <;> decide +kernel

/-- A thread with a sequencer program of one pulse. -/
def program : State := withWords [(2 ^ 60, 1), (2 ^ 60 + 32, 0x21)] { counting 1 with th := (withX [(1, 0x8000000000000000)]).th }

/-- What MACRO of that thread asks for. -/
def asks : SeqRun := { byTarget := false, slot := 0, grp := none, asid := 0, priv := false, desc := 0x8000000000000000 }

/-- R288 to R291: a program that passes its checks and runs to its end, a descriptor that does not pass, and a sequencer that is taken. -/
theorem witness_sequences :
    (seqRunning program.serial 0 = none)
    ∧ (seqWaiting program.serial 0 = [])
    ∧ ((match loadMacro program.serial asks with
      | .ok (q, v) => (match runProgram 0 true (2 ^ 30) (seqBegin v 0 q []) q with
      | (u, q', none) => (match seqFinish (setSeq u 0 (some q') (u.cluster 0).seqQueue) 0 q' with
      | .ok _ => true
      | .error _ => false)
      | _ => false)
      | .error _ => false) = true)
    ∧ ((match loadMacro State.reset.serial { asks with desc := 0x8000000000000010 } with
      | .error (.trap _ _) => true
      | _ => false) = true)
    ∧ (seqRunning (setSeq State.reset 0 (some { asks with slot := 4, byTarget := true }) []).serial 0 = some { asks with slot := 4, byTarget := true }) := by
  and_intros <;> decide +kernel

/-- A thread of one s32 element at the line of Larder offset 128, whose state is FULL or EMPTY. -/
def lineState (full : Bool) : State :=
  let s := vec 0x003 1 [(4, [3])] (withWords [(2 ^ 60 + 128, 9)] (withX [(1, 0x8000000000000080)]))
  s.setCluster 0 { s.cluster 0 with full := if full then [1] else [] }

/-- R272, R273: a line that is FULL and one that is EMPTY, a base that is no line. -/
theorem witness_full_empty :
    ((lineState true).idle)
    ∧ ((lineState true).settled)
    ∧ ((lineState true).th.shaped)
    ∧ ((lineState true).th.active false 0 = true)
    ∧ (4 % vtG (lineState true).th.vtype = 0)
    ∧ (lineBase 0x8000000000000080 = true)
    ∧ (lineBase 0x8000000000000040 = false)
    ∧ (((lineState true).cluster 0).lineWaits = [])
    ∧ (checkAccess (lineState true) (lineState true).agent true 4 4 0 0x8000000000000080 = .ok (.mem (2 ^ 60 + 128)))
    ∧ (1 ∈ ((lineState true).cluster 0).full)
    ∧ (1 ∉ ((lineState false).cluster 0).full) := by
  unfold State.idle State.settled Thread.shaped
  and_intros <;> decide +kernel

/-- R272: a range up to the end of the Larder, and one beyond it. -/
theorem witness_line_clears :
    (lineRangeFails 0x8000000000000080 0x7FFF80 = none)
    ∧ (lineRangeFails 0x8000000000000080 0x7FFF81 = some (0x39, 0x8000000000000080)) := by
  and_intros <;> decide +kernel

/-- A thread that copies 16 bytes inside the Larder. -/
def copier : State := larder [(3, 16), (4, 0x8000000000000100)]

/-- R276 to R278: a copy of 16 bytes that passes, one of none, and a size word with a reserved bit. -/
theorem witness_copies :
    (copier.idle)
    ∧ ((copier.die copier.dieKey).copies = [])
    ∧ (copyFails (copier.cluster 0) false (copier.x 3) (copier.x 4) (copier.x 1) = none)
    ∧ (copySize (copier.x 3) ≤ 16)
    ∧ (0 < copySize (copier.x 3))
    ∧ (copyFails (copier.cluster 0) false 0 (copier.x 4) (copier.x 1) = none)
    ∧ (copySize 0 = 0)
    ∧ (copyEv 0 = false)
    ∧ (copyFill (copier.x 3) = false)
    ∧ (copyFails (copier.cluster 0) false 0x800000000000 (copier.x 4) (copier.x 1) = some (0x3A, 0x800000000000))
    ∧ ((copier.x 1).toNat % 65536 + 16 ≤ 65536)
    ∧ (enginePlace copier copier.agent false 16 (copier.x 1) = .ok (2 ^ 60))
    ∧ (enginePlace copier copier.agent true 16 (copier.x 4) = .ok (2 ^ 60 + 0x100))
    ∧ (tagOf (copier.x 4) = 8)
    ∧ (ownedByView copier (2 ^ 60 + 0x100) = false)
    ∧ (ownedByRelay copier (2 ^ 60 + 0x100) = false) := by
  unfold State.idle
  and_intros <;> decide +kernel

/-- A thread with a collective of one contributor at x1 and its element at x2. -/
def gathering : State :=
  withWords [(2 ^ 60, 0x0000013000420000), (2 ^ 60 + 8, 0x0001000000140001), (2 ^ 60 + 64, 0x3F800000)]
    (withX [(1, 0x8000000000000000), (2, 0x8000000000000040)])

/-- R418 to R424: a descriptor and a source that pass, at a home that is the thread's die; a descriptor and a status address that fail. -/
theorem witness_collectives :
    let ws : List Word := [0x0000013000420000, 0x0001000000140001, 0, 0]
    (gathering.idle)
    ∧ (collDescriptor gathering (gathering.x 1) 4 = .ok (ws, gathering))
    ∧ (collDescriptor gathering (gathering.x 1) 2 = .ok (ws.take 2, gathering))
    ∧ (collSource gathering (gathering.x 1) (gathering.x 2) 32 1 0 = .ok ([0x3F800000], gathering))
    ∧ (cwHome gathering gathering.nodeKey (ws.getD 0 0) = gathering.dieKey)
    ∧ (cwNcont (ws.getD 1 0) = 1)
    ∧ (combinerOf (gathering.die 0) 0 (cwKey (ws.getD 0 0)) = none)
    ∧ ((match collDescriptor gathering 0x8000000000000020 4 with
      | .error (.trap _ _) => true
      | _ => false) = true)
    ∧ ((match collSource gathering (gathering.x 1) 0x1000000000000000 32 1 0 with
      | .error (.trap _ _) => true
      | _ => false) = true)
    ∧ (¬ ((4 : Word) = 0 ∨ ((tagOf 4 = 0 ∨ tagOf 4 = 8) ∧ (4 : Word).toNat % 8 = 0))) := by
  unfold State.idle
  and_intros <;> decide +kernel

/-- R425: an inbox and an address that can be none, a row with used slots and one without, a group that is not aligned. -/
theorem witness_token_rows :
    let s := vec 0x013 8 [(8, List.replicate 8 0xFFFF)]
    (s.idle)
    ∧ (s.th.shaped)
    ∧ (usedSlots s.th 8 false = [])
    ∧ (usedSlots State.reset.th 8 false ≠ [])
    ∧ (tagOf 0x40 = 0 ∧ nodeOf 0x40 ≤ 127 ∧ (0x40 : Word).toNat % 64 = 0)
    ∧ ((0x20 : Word).toNat % 64 ≠ 0)
    ∧ (s.th.vl ≠ 0)
    ∧ (4 % vtG s.th.vtype = 0)
    ∧ (3 % vtG wide.th.vtype ≠ 0) := by
  unfold State.idle Thread.shaped
  and_intros <;> decide +kernel

/-- A thread of the pod at system privilege with a frame. -/
def handler : State := framed { State.reset with th := { State.reset.th with priv := true } }

/-- R262: the head of a thread with a frame, registers outside the table and those that may not be written; both sides of the limits. -/
theorem witness_special_registers :
    (handler.idle)
    ∧ (framePlace handler.serial handler.cur false (handler.th.framep + BitVec.ofNat 64 24) 8 = .ok 0x201018)
    ∧ (framePlace handler.serial handler.cur true (handler.th.framep + BitVec.ofNat 64 0) 8 = .ok 0x201000)
    ∧ (framePlace handler.serial handler.cur true (handler.th.framep + 24) 8 = .ok 0x201018)
    ∧ (State.reset.th.framep = 0 ∧ State.reset.th.frame = none)
    ∧ (sprNamed 0x0D = false)
    ∧ (sprWritable 5 true = false)
    ∧ (sprWritable 8 false = false ∧ sprSystem 8 = false)
    ∧ (vtypeLegal 0x23 = true)
    ∧ (vtypeLegal 0x30 = false)
    ∧ ((16384 : Word).toNat % 2 ^ 15 ≤ 16384)
    ∧ (16384 < (16385 : Word).toNat % 2 ^ 15)
    ∧ ((0 : Word).getLsbD 1 = false) := by
  unfold State.idle
  and_intros <;> decide +kernel

/-- R261 to R264: nothing to wait for, nobody behind the slot, and a thread that is asked to yield. -/
theorem witness_commit_and_trap :
    (headWait State.reset.serial = none)
    ∧ (yieldWanted State.reset.serial = false)
    ∧ (State.reset.th.inh = false)
    ∧ (4 < (5 : BitVec 4).toNat) := by
  and_intros <;> decide +kernel

/-- A thread of group 0 of a run of three groups in entry 0. -/
def grouped : State :=
  match readRun launch ⟨0, false, 0, []⟩ false 0 0x3000 3 with
  | .ok (some u, _) => { launch.setRun 0 0 u with th := { launch.th with grp := some ⟨0, 0, 0, 0⟩, slot := .running } }
  | _ => launch

/-- R375, R376: a free table, a descriptor that is read and one that is refused, and a group of a run. -/
theorem witness_groups :
    ((launch.pkg 0).runs.length < 256)
    ∧ ((match readRun launch.serial launch.agent false 0 (launch.x 1) 3 with
      | .ok (some _, u) => !runTableFull u 0
      | _ => false) = true)
    ∧ ((match readRun launch.serial launch.agent false 0 0x5000 3 with
      | .ok (none, _) => true
      | _ => false) = true)
    ∧ ((grouped.serial.runOf grouped.cur).isSome = true)
    ∧ (grouped.th.grp = some ⟨0, 0, 0, 0⟩)
    ∧ (growLimit grouped.serial = (3, 3))
    ∧ (State.reset.th.grp = none)
    ∧ ((growLimit State.reset.serial).2 < (growLimit State.reset.serial).1 + 1) := by
  and_intros <;> decide +kernel

/-- R60: a thread at user privilege, a lead that is not 0, a system register. -/
theorem witness_privileged :
    (State.reset.th.priv = false)
    ∧ ((3 : BitVec 4) ≠ 0)
    ∧ ((0x10 : BitVec 12) ∈ [(0x00B : BitVec 12), 0x010, 0x011, 0x012, 0x013]) := by
  and_intros <;> decide +kernel

/-- R253: a head that can be written, a cause that the thread handles and one that is routed external, INH 0 and 1, no frame at all. -/
theorem witness_trap_entry :
    let s := framed State.reset
    (s.idle)
    ∧ (s.settled)
    ∧ (s.th.inh = false)
    ∧ (s.cluster s.clusterKey = {})
    ∧ ((0x05 : BitVec 7) ≠ 0x2C)
    ∧ (framePlace s s.cur true s.th.framep 4096 = .ok 0x201000)
    ∧ (s.th.external 0x05 = false)
    ∧ (s.th.external 0x00 = true)
    ∧ ({ s.th with inh := true }.inh = true)
    ∧ (framePlace State.reset State.reset.cur true State.reset.th.framep 4096 = .error (.trap 0x21 0)) := by
  unfold State.idle State.settled
  and_intros <;> decide +kernel

/-- A thread at system privilege whose head at FRAMEP can be restored. -/
def returning : State := withWords [(0x201000, 0x40), (0x201118, 8), (0x201120, 1)] handler

/-- R256: a head that passes, one with a reserved bit of EPC, and one whose VTYPE is not legal. -/
theorem witness_returns :
    (returning.idle)
    ∧ (returning.th.priv = true)
    ∧ (framePlace returning returning.cur false returning.th.framep 4096 = .ok 0x201000)
    ∧ (headFails returning returning.th 0x201000 (regionHeld returning returning.cur returning.th) = [])
    ∧ (vtypeLegal (memWord returning.mem (0x201000 + 0x120)) = true)
    ∧ ((memWord returning.mem (0x201000 + 0x128)).toNat % 2 ^ 15 ≤ 16384)
    ∧ ((memWord returning.mem (0x201000 + 0x18)).getLsbD 1 = false)
    ∧ ((memWord returning.mem (0x201000 + 0x18)).getLsbD 2 = false)
    ∧ (returning.th.ppend = false ∧ returning.th.overrun = false ∧ returning.th.reports = [])
    ∧ ((match applyHead returning.serial returning.cur with
      | .ok _ => true
      | .error _ => false) = true)
    ∧ (headFails (withWords [(0x201000, 2 ^ 63)] returning) returning.th 0x201000 (regionHeld returning returning.cur returning.th) = [0])
    ∧ (headFails (withWords [(0x201120, 0x30)] returning) returning.th 0x201000 (regionHeld returning returning.cur returning.th) = [])
    ∧ (vtypeLegal (memWord (withWords [(0x201120, 0x30)] returning).mem (0x201000 + 0x120)) = false) := by
  unfold State.idle
  and_intros <;> decide +kernel

/-- The state that an instruction or event leaves. -/
def next (i : Instr) (s : State) : State :=
  match exec i s with
  | .next t => t
  | _ => s

/-- The thread of slot 0, running. -/
def running (s : State := State.reset) : State := { s with th := { s.th with slot := .running } }

/-- A running thread whose scalar part runs ahead, with one vector instruction queued. -/
def queued (i : Instr) (s : State := State.reset) : State := next i { running s with ahead := [0] }

/-- The head of slot 0's queue has been dispatched, and how many granules have landed. -/
def headAt (s : State) : Option (Bool × Nat × Nat) := (headOf s 0).map (fun q => (q.dispatched, q.granule, (planOf q.op).steps))

/-- Whether the next granule of slot 0's head would land. -/
def lands (s : State) : Option Bool := (headOf s 0).map (fun q => match withSoft ((planOf q.op).gran q.granule) (s.focus 0) with
  | .ok _ => true
  | .error _ => false)

/-- R24 to R28: a queue with its head before and after dispatch, at its last granule, landed, with a granule that traps, and with a value
on its way to its destination; no queue. -/
theorem witness_queue_events :
    let q := queued (.vadd 3 1 2 false 0 false false)
    let d := next (.vectorDispatch 0) q
    let g := next (.granuleLanding 0) (next (.granuleLanding 0) d)
    let bad := next (.vectorDispatch 0) (queued (.vld 4 1 0 7 false false) (withX [(1, 0x1000000000000000)]))
    let late := { q with th := { q.th with pend := [{ kind := .load, op := 0, sn := 0, asid := 0, addr := 0x0050000000000000, key := podKey 40 0, sew := 32, dst := 3 }] } }
    let waits (s : State) := (headOf s 0).map (fun q => (planOf q.op).awaits (dispatchVec (s.focus 0) (planOf q.op)).th)
    (headOf State.reset 0 = none)
    ∧ (headAt q = some (false, 0, 2))
    ∧ (headAt d = some (true, 0, 2))
    ∧ (lands d = some true)
    ∧ (headAt g = some (true, 2, 2))
    ∧ (lands bad = some false)
    ∧ (waits q = some false ∧ waits late = some true)
    ∧ ((headOf g 0).map (fun q => (q.op.kind != .copy) && (q.op.kind != .tsend)) = some true) := by
  and_intros <;> decide +kernel

/-- A thread in slot 0 that waits at an instruction, its word at 0x100. -/
def waitsAt (i : Instr) (w : Wait) (s : State := State.reset) : State :=
  let t := { s with th := { s.th with pc := 0x100 } }.withFetchWord 32 (wordOf i).toNat
  { t with th := { t.th with wait := some w } }

/-- One thread for each wait: WAITC, EVWAIT, PHASE, RELAYOUT, UNSEAL, COLL, RUN, LDW and CLD. -/
def waiters : List (State × Instr) :=
  [(waitsAt (.waitc 2 1) (.stream 1), .waitc 2 1),
   (waitsAt (.evwait 5 1) (.event 1) (counting 3), .evwait 5 1),
   (waitsAt .phase (.phase 16) (phased 15 1), .phase),
   (waitsAt (.relayout 1 1) (.settle 0 5) (relaid 2), .relayout 1 1),
   (waitsAt (.unsealOp 1 2) .unseal oneSeal, .unsealOp 1 2),
   (waitsAt (.coll 1 2 0 3 7 false) (.operation 0) gathering, .coll 1 2 0 3 7 false),
   (waitsAt (.run 5 1) .runEntry launch, .run 5 1),
   (waitsAt (.ldw 4 1 0 7 false false) (.line 0x8000000000000080) (lineState true), .ldw 4 1 0 7 false false),
   (waitsAt (.cld 0 3 4 0 0 false false) (.stall 0 3 0 0) tiled, .cld 0 3 4 0 0 false false)]

/-- R257: each of them waits at its instruction, and has nothing else on its way. -/
theorem witness_retries :
    (∀ w ∈ waiters, (w.1.focus 0).th.slot = .running ∧ (w.1.focus 0).th.wait ≠ none ∧ fetch (w.1.focus 0) = .ok w.2)
    ∧ (∀ w ∈ waiters, w.1.idle ∧ w.1.settled)
    ∧ (∀ w ∈ waiters, headOf w.1 0 = none) := by
  unfold State.idle State.settled
  and_intros <;> decide +kernel

/-- R189, R286, R294, R347, R318, R421, R375: what ends each wait. -/
theorem witness_retry_completes :
    let s := waitsAt (.unsealOp 1 2) .unseal oneSeal
    let e := waitsAt (.evwait 5 1) (.event 1) ((counting 3).setCluster 0 (((counting 3).cluster 0).setCounter 1 { owner := some 0, cnt := 3, src := 2, thr := 3, waiters := [0] }))
    let r := waitsAt (.run 5 1) .runEntry launch
    let w := waitsAt (.waitc 2 1) (.stream 1)
    (¬ 0 < (w.x 2 - vread w.th.ic 1).toInt ∧ 0 ≤ (vread w.th.cc 1 - w.x 2).toInt)
    ∧ (((e.cluster 0).counter 1).waiters = [0] ∧ ((e.cluster 0).counter 1).thr.toNat ≤ ((e.cluster 0).counter 1).cnt.toNat)
    ∧ ((s.die 0).seals.find? (fun q => q.asid == 0 && q.chan == 0 && q.off == 0x10000 && q.len == 0x10000) = some ⟨0, 0, 0x10000, 0x10000, false⟩)
    ∧ ((r.pkg 0).runs.length < 256 ∧ r.th.grp = none)
    ∧ ((match readRun r.serial r.agent false 0 (r.x 1) 3 with
      | .ok (some _, u) => !runTableFull u 0
      | _ => false) = true) := by
  and_intros <;> decide +kernel

/-- A full line and a master's tile, each waited for at the first granule of one element. -/
def atLine : State :=
  let s := waitsAt (.ldw 4 1 0 7 false false) (.line 0x8000000000000080) (lineState true)
  { s with th := { s.th with gv := true } }

/-- The CLD of `tiled`, one element, resumed at its first granule. -/
def atView : State :=
  let s := waitsAt (.cld 0 3 4 0 0 false false) (.stall 0 3 0 0) tiled
  { s with th := { s.th with gv := true, vl := 1 } }

/-- R273, R335: a granule that waits at its first element, whose line is FULL, or whose handle names no view. -/
theorem witness_retry_granules :
    let op : VOp := { atView.mop (.load .handle) 0 0 4 0 0 false false (wordOf (.cld 0 3 4 0 0 false false)) with hand := vread atView.th.h 3 }
    (atLine.atFirst)
    ∧ (atView.atFirst)
    ∧ (1 ∈ (atLine.cluster 0).full)
    ∧ ((atLine.cluster 0).lineWaits = [])
    ∧ (memChecks atView.th op true = .ok ())
    ∧ (handleFails (vread atView.th.h 3) atView.th.vtype false = none)
    ∧ ((match resolve atView op ((List.range op.n_).filter (atView.th.active op.k)) 0 with
      | .ok (some h, t) => h.place == .mem 0x307088 && h.i == 0 && t == atView
      | _ => false) = true) := by
  unfold State.atFirst State.idle
  and_intros <;> decide +kernel

/-- A pending element of stream 2. -/
def aPend (k : PendKind) : Pend := { kind := k, op := 0, sn := 2, asid := 0, addr := 0x8000000000000000, key := 2 ^ 60, sew := 64, data := 7 }

/-- A copy of 16 bytes on an engine of die 0, for slot 0. -/
def job : CopyJob := 
  { slot := some 0, op := 4, sn := 0, grp := none, asid := 0, priv := false, edge := 0xFF, dst := 0x8000000000000100, src := 0x8000000000000000, size := 16, pc := 0 }

/-- R152 to R155, R306, R282: a pending element of each kind, a page that is there and one that is asked for, and a copy. -/
theorem witness_element_events :
    let s (p : Pend) := { State.reset with th := { State.reset.th with pend := [p] } }
    let f := withWords [(0, 0x203)] (pod State.reset)
    let c := copier.setDie 0 { copier.die 0 with copies := [job] }
    (∀ k ∈ [PendKind.load, .store, .atom .add, .lclr], (s (aPend k)).settled ∧ ((s (aPend k)).thread 0).pend[0]? = some (aPend k)
      ∧ ((s (aPend k)).thread 0).pend[1]? = none ∧ (aPend k).got = none ∧ (s (aPend k)).lineFree (2 ^ 60) = true
      ∧ keyUnreachable (s (aPend k)) 0 (2 ^ 60) = false ∧ 8 ≤ (aPend k).sew)
    ∧ (remoteKey 0 (2 ^ 60) = false ∧ remoteKey 0 (podKey 1 0) = true ∧ keyUnreachable State.reset 0 (podKey 1 0) = false)
    ∧ (checkAccess f (f.agentOf 0) false 8 8 0 0x200000 = .ok (.mem 0x400000))
    ∧ ((match checkAccess f (f.agentOf 0) false 8 8 0 0x220000 with
      | .error (.wait (.service die img)) => die == 0 && img == fsImage 0 0x220000 false true
      | _ => false) = true)
    ∧ ((c.die (slotDie 0)).copies = [job])
    ∧ (enginePlace c (job.agent (slotDie 0)) false 16 job.src = .ok (2 ^ 60) ∧ enginePlace c (job.agent (slotDie 0)) true 16 job.dst = .ok (2 ^ 60 + 0x100))
    ∧ (copyFill job.size = false ∧ copyEv job.size = false ∧ copySize job.size = 16)
    ∧ (remoteCopy c (slotDie 0) job = false ∧ ownedByView c (2 ^ 60 + 0x100) = false ∧ ownedByRelay c (2 ^ 60 + 0x100) = false)
    ∧ (({ State.reset.th with wait := some (.exhausted 1) }.oc 1) < 256) := by
  unfold State.settled
  and_intros
  all_goals decide +kernel

/-- R274, R294, R414: a thread at a line with the limit of reset, one at a phase with a limit, and one at a node that no route reaches. -/
theorem witness_limits :
    let l := waitsAt (.ldw 4 1 0 7 false false) (.line 0x8000000000000080) (lineState false)
    let p := waitsAt .phase (.phase 16) ((phased 15 1).setCluster 0 { (phased 15 1).cluster 0 with phto := 1 })
    let u := waitsAt (.ld64 3 1 0 0 7) (.unreachable 0x0050000000000000 5)
    ((l.cluster 0).feto ≠ 0)
    ∧ ({ l.cluster 0 with feto := 0 }.feto = 0)
    ∧ (holdsAt l 0 = some (.line 0x8000000000000080))
    ∧ ((match exec (.larderGranuleAction 0) l with
      | .next t => holdsAt t 0 == some (.line 0x8000000000000080)
      | _ => false) = true)
    ∧ ((p.cluster (slotCluster 0)).phto ≠ 0 ∧ (p.thread 0).wait = some (.phase 16))
    ∧ (holdsAt u 0 = some (.unreachable 0x0050000000000000 5))
    ∧ (u.reachable (slotDie 0) 5 = false)
    ∧ (u.reachable (slotDie 0) 0 = true) := by
  and_intros <;> decide +kernel

/-- R253 to R257: a thread at a landing point, with a report and a pre-emption pending, one that cannot land, and a full queue of reports. -/
theorem witness_landings :
    let s := running ((framed State.reset).withFetchWord 32 0x04611000)
    let r := { s with th := { s.th with reports := [⟨0x62, 0, 0, 0, 0⟩], ppend := true } }
    ((s.focus 0).th.slot = .running ∧ canLand (s.focus 0) = true ∧ (s.focus 0).th.inh = false)
    ∧ (causeAssigned 0x05 = true ∧ causeAssigned 0x0F = false)
    ∧ (faultsAt (s.focus 0) = false ∧ faultsAt (r.focus 0) = false ∧ faultsAt ((running (framed State.reset)).focus 0) = true)
    ∧ (State.reset.th.slot ≠ .running ∧ State.reset.th.slot = .free)
    ∧ (canLand (waitsAt (.viewsync 1 false) .drain) = false)
    ∧ ((r.focus 0).th.reports = ⟨0x62, 0, 0, 0, 0⟩ :: [] ∧ (r.focus 0).th.ppend = true)
    ∧ ((s.thread 0).framep ≠ 0)
    ∧ (r.runOf 0 = none) := by
  and_intros <;> decide +kernel

/-- R371, R377, R258: a group whose energy exceeds its prediction; slots that drain for EXIT, without a group and with one. -/
theorem witness_departures :
    let g := next .exit grouped
    let f := next .exit (running State.reset)
    let o := (match grouped.run? 0 0 with
      | some u => grouped.setRun 0 0 { u with ovr := 2 }
      | none => grouped).withFetchWord 32 0x04611000
    let a := addEnergy o 0 5
    (o.settled ∧ (o.thread 0).slot = .running ∧ (o.thread 0).energy = 0)
    ∧ (((a.focus 0).runOf 0).map (fun r => (r.ovr != 0) && decide (r.ovr.toNat * (a.focus 0).th.charged.toNat < 5)) = some true)
    ∧ ((a.focus 0).th.inh = false ∧ canLand (a.focus 0) = true)
    ∧ (({ a with th := { a.th with inh := true } }.focus 0).th.inh = true)
    ∧ ((((addEnergy grouped 0 5).focus 0).runOf 0).map (·.ovr) = some 0 ∧ grouped.settled)
    ∧ ((f.thread 0).slot = .draining ∧ (f.thread 0).drain = some .exit ∧ (f.thread 0).ops = [] ∧ (f.thread 0).grp = none)
    ∧ ((g.thread 0).slot = .draining ∧ (g.thread 0).drain = some .exit ∧ (g.thread 0).grp = some ⟨0, 0, 0, 0⟩)
    ∧ ((g.run? 0 0).map (·.gen) = some 0) := by
  unfold State.settled
  and_intros <;> decide +kernel

/-- A group that a trap has left draining for its context save. -/
def leaving : State :=
  let s := framed grouped
  { s with th := { s.th with slot := .draining, drain := some (.save 0 0) } }

/-- R258: such a group has nothing outstanding, and its frame can be written. -/
theorem witness_context_save :
    ((leaving.thread 0).drain = some (.save 0 0))
    ∧ ((leaving.thread 0).pend = [] ∧ (leaving.thread 0).ops = [])
    ∧ ((leaving.runOf 0).map (·.ending) = some false)
    ∧ ((match writeFrame leaving 0 0 0 with
      | .ok _ => true
      | .error _ => false) = true) := by
  and_intros <;> decide +kernel

/-- `grouped` with its cluster in partition 1 and cluster 0's slot 1 free. -/
def parted : State := grouped.setPkg 0 { grouped.pkg 0 with clpart := [(0, 0x21)] }

/-- `parted` with its first group still loading. -/
def loading : State := { parted with th := { parted.th with slot := .loading } }

/-- `parted` with a saved context of its second group, whose head is at 0x1000. -/
def savedState : State :=
  let c : SavedCtx := ⟨⟨0, 0, 0, 1⟩, none, 0x1000, 0, false, false, 0, none, 0, false, false, 0, 0⟩
  withWords [(0x201118, 8), (0x201120, 1)] (parted.setPkg 0 { parted.pkg 0 with saved := [c] })

/-- `savedState` with its context's slot loading, before its head is read. -/
def restoring : State :=
  (takeWindows (enterCluster savedState 0 0) 0 false 0 0 0).setThread 1 { slot := .loading, grp := some ⟨0, 0, 0, 1⟩, framep := 0x1000 }

/-- R360, R365, R369, R258: a group that loads on a core with room; candidates and a place for the first of them; a saved context whose slot is
free. -/
theorem witness_arrivals :
    ((loading.thread 0).slot = .loading ∧ (loading.thread 0).gangHigh = false ∧ (loading.thread 0).toLoad = 0)
    ∧ ((loading.runOf 0).isSome = true)
    ∧ (∀ c ∈ loading.coresOf 0, runningOn loading c < ((loading.pkg 0).part 1).rmax.toNat)
    ∧ (∀ c ∈ loading.coresOf 0, stayingOn loading (loading.thread 0) c < ((loading.pkg 0).part 1).rmax.toNat)
    ∧ loading.settled
    ∧ ((match framePlace (pod loading) 0 true 0x1000 32, framePlace { pod loading with th := { loading.th with framep := 0x1000 } } 0 true 0x1000 32 with
      | .error _, .ok key => key == 0x201000
      | _, _ => false) = true)
    ∧ ((List.range 4).find? (fun j => (loading.thread (0 * 4 + j)).slot == .loading) = some 0)
    ∧ (∀ i, i < 4 → (State.reset.thread (0 * 4 + i)).slot ≠ .loading)
    ∧ ((cands parted 0).map (fun c => (c.run, c.stage, c.index)) = [(0, 0, 0), (0, 0, 1), (0, 0, 2)])
    ∧ ((chosen parted 0 ((cands parted 0).filter (fun c => (placeFor parted 0 c).isSome))).isSome = true)
    ∧ (chosen State.reset 0 ((cands State.reset 0).filter (fun c => (placeFor State.reset 0 c).isSome)) = none)
    ∧ (((((parted.run? 0 0).map (fun r => ((r.stage 0).at 0x1C8).extractLsb' 23 13)) = some 0)))
    ∧ (((cands savedState 0).find? (fun c => c.ctx == some 0)).isSome = true)
    ∧ (slotCore 1 ∈ partCores (savedState.pkg 0) 0 1)
    ∧ (coreTakes savedState ((savedState.pkg 0).part 1) false 0 = true)
    ∧ ((savedState.thread 1).slot = .free)
    ∧ (freeWindow savedState [0] 1 0 = some 0)
    ∧ ((match framePages restoring 1 false [0], applyHead restoring 1 with
      | .ok _, .ok _ => true
      | _, _ => false) = true) := by
  unfold State.settled
  and_intros <;> decide +kernel

/-- A line write of one byte. -/
def aLine : LineWr := 
  { slot := 0, sn := 0, asid := 0, line := 0, key := 2 ^ 37, elems := [{ op := 0, idx := 0, pc := 0, off := 3, data := [7], nib := none }] }

/-- A combining-buffer entry of one n32 word. -/
def aComb : Comb := 
  { slot := 0, sn := 0, asid := 0, line := 0x40000, key := 0x240000, op := .add, sew := 32, signed := false, vals := [{ off := 4, val := 5, parts := [] }] }

/-- R412, R413, R192: an entry of a write buffer, a line write that has arrived, and an entry of a combining buffer; none of them. -/
theorem witness_buffers :
    let b := State.reset.setCore 0 { State.reset.core 0 with wbuf := [aLine] }
    let l := State.reset.setDie 1 { State.reset.die 1 with lineWrites := [aLine] }
    let c := State.reset.setCore 0 { State.reset.core 0 with comb := [aComb] }
    ((b.core 0).wbuf[0]? = some aLine ∧ (b.core 0).wbuf[1]? = none)
    ∧ ((l.die 1).lineWrites[0]? = some aLine ∧ (l.die 1).lineWrites[1]? = none)
    ∧ (keyUnreachable l aLine.slot aLine.key = false)
    ∧ (∀ p ∈ l.cores, p.2.comb = [])
    ∧ (∀ e ∈ aLine.elems, e.nib = none)
    ∧ (l.lineFree aLine.key = true ∧ c.lineFree aComb.key = true)
    ∧ ((b.core 0).wbuf = [aLine])
    ∧ ((c.core 0).comb[0]? = some aComb ∧ (c.core 0).comb[1]? = none)
    ∧ ((c.core 0).dead = false ∧ (c.die (keyDie 0x240004)).seals = []) := by
  and_intros <;> decide +kernel

/-- A program of two pulses that a target has started, waiting for the sequencer. -/
def fired : State :=
  let s := withWords [(2 ^ 60, 2), (2 ^ 60 + 32, 0x21), (2 ^ 60 + 64, 0x31)] (counting 1)
  setSeq s 0 none [{ asks with byTarget := true }]

/-- R288 to R292, R214: a program that waits and one that runs, between its steps and at its end; a record's tile that steers. -/
theorem witness_cluster_events :
    let r := next (.macroStart 0) fired
    let m := next (.macroStep 0) r
    (seqRunning fired 0 = none ∧ (seqWaiting fired 0).length = 1)
    ∧ ((match loadMacro fired { asks with byTarget := true } with
      | .ok _ => true
      | .error _ => false) = true)
    ∧ ((seqRunning r 0).isSome = true)
    ∧ (seqWaiting r 0 = [])
    ∧ ((match seqRunning r 0 with
      | some q => (match runProgram 0 false 64 r q with
      | (_, p, none) => decide (p.step < p.count)
      | _ => false)
      | none => false) = true)
    ∧ ((match seqRunning m 0 with
      | some q => (match runProgram 0 false 64 m q with
      | (u, p, none) => decide (p.count ≤ p.step) && (match seqFinish (setSeq u 0 (some p) (u.cluster 0).seqQueue) 0 p with
      | .ok _ => true
      | .error _ => false)
      | _ => false)
      | none => false) = true)
    ∧ (((relaid 1).die 0).relays.entry 5 = some (aRecord 1))
    ∧ ((aRecord 1).steers = true ∧ (aRecord 1).phase 0 ≠ .converting)
    ∧ (((relaid 1).core 0).tileStates = []) := by
  and_intros <;> decide +kernel

/-- R219, R221: a Pantry without an uncorrectable word and one with it; a core without groups and one with a thread. -/
theorem witness_core_events :
    let p := { State.reset with poison := [2 ^ 58] }
    let h := { running p with th := { (running p).th with psize := 1 } }
    let w := { State.reset with soft := [(2 ^ 58, 5)] }
    (∀ w ∈ State.reset.poison, ¬ (pantryKey 0 0 0 ≤ w * 8 ∧ w * 8 < pantryKey 0 0 0 + 2 ^ 20))
    ∧ (p.poison = [2 ^ 58] ∧ pantryKey 0 0 0 ≤ 2 ^ 58 * 8 ∧ 2 ^ 58 * 8 < pantryKey 0 0 0 + 2 ^ 20)
    ∧ ((p.core 0).scrubEn = true ∧ (p.core 0).dead = false)
    ∧ ((h.thread 0).slot ≠ .free ∧ (h.thread 0).pbase.toNat * 1024 ≤ 0 ∧ 0 < ((h.thread 0).pbase.toNat + (h.thread 0).psize.toNat) * 1024)
    ∧ (w.poison = [] ∧ w.soft = [(2 ^ 58, 5)] ∧ ∀ i, i < 4 → (p.thread (0 * 4 + i)).slot = .free)
    ∧ (∀ i, i < 4 → (State.reset.thread (0 * 4 + i)).slot = .free ∧ (State.reset.thread (0 * 4 + i)).gangHigh = false)
    ∧ ((running.thread 0).slot = .running ∧ (running.thread 0).gang = false ∧ (running.thread 0).grp = none)
    ∧ (∀ j, j < 4 → j ≠ 0 → (running.thread (0 * 4 + j)).slot = .free ∧ (running.thread (0 * 4 + j)).gangHigh = false) := by
  and_intros <;> decide +kernel

/-- A die with an unread request for page 2 of the pod. -/
def asked : State := (pod State.reset).setDie 0 { State.reset.die 0 with fsreqs := [⟨fsImage 0 0x220000 false true, false, false⟩] }

/-- R306, R325: a request that FSREQ gives, its answer, one that is not there, and a thread that is held for it. -/
theorem witness_service_events :
    let v := fsImage 0 0x220000 false true
    let w := waitsAt (.ld64 3 1 0 0 7) (.service 0 v) asked
    ((asked.die 0).fsreqs.find? (fun r => !r.read && !r.host) = some ⟨v, false, false⟩)
    ∧ ((State.reset.die 0).fsreqs.find? (fun r => !r.read && !r.host) = none)
    ∧ ((asked.die 0).fsreqs.any (fun r => pageName r.page == pageName v) = true)
    ∧ ((asked.die 0).fsreqs.any (fun r => pageName r.page == pageName 0) = false)
    ∧ ((asked.die 0).fsreqs[0]? = some ⟨v, false, false⟩ ∧ (asked.die 0).fsreqs[1]? = none)
    ∧ ((w.thread 0).wait = some (.service 0 v)) := by
  and_intros <;> decide +kernel

/-- A die that is to move page 1 of the pod to 0x800000. -/
def moving : State := (pod State.reset).setDie 0 { State.reset.die 0 with migaddr := 0x200000, migdst := 0x800000 }

/-- The same die while the page moves. -/
def moved : State := moving.setDie 0 { moving.die 0 with mig := some ⟨0x200000, 0x800000, false⟩ }

/-- R308, R309: invalidations up to nine, a migration that may start and one that may not, and one that runs. -/
theorem witness_page_events :
    let i : Inval := ⟨0, 0, false⟩
    (moving.settled ∧ moving.th.pend = [])
    ∧ (moving.parked = [] ∧ moving.poison = [] ∧ (∀ p ∈ moving.dies, p.2.copies = []) ∧ ∀ p ∈ moving.clusters, p.2.seqNow = none)
    ∧ ((List.replicate 8 i).length < 9)
    ∧ (9 ≤ (List.replicate 9 i).length)
    ∧ ((moving.die 0).invals = [] ∧ (moving.die 0).mig = none)
    ∧ (leafEntry moving 0 (bits (moving.die 0).migaddr 49 12) (moving.die 0).migaddr = some (0x400, false))
    ∧ ((moving.die 0).migbig = false)
    ∧ (migFrameOk 0x200000 0x800000 false = true)
    ∧ (migFrameOk 0x200000 0x808000 false = false)
    ∧ (leafEntry State.reset 0 0 0x200000 = none)
    ∧ ((moved.die 0).mig = some ⟨0x200000, 0x800000, false⟩)
    ∧ (leafEntry moved 0 (bits (0x200000 : Word) 49 12) 0x200000 = some (0x400, false))
    ∧ (let x : Xlat := ⟨0, 0, 0x20, 0x900000, true, false, 0x10000⟩
      (Inval.start ⟨0x210000, 1, false⟩ { moving.die 0 with xlats := [x] }).xlats = [x]
        ∧ (Inval.start ⟨0x200000, 1, false⟩ { moving.die 0 with xlats := [x] }).xlats = []) := by
  unfold State.settled
  and_intros <;> decide +kernel

/-- A master of 2 by 2 FP32 elements at 0x200000. -/
def small : BitVec 256 := (0x200000 : BitVec 256) ||| (0x00010001 <<< 64) ||| (0x1000032 <<< 128)

/-- `viewed` with a small master, its block due. -/
def due_ : State := viewed.setDie 0 { viewed.die 0 with views := [(3, { staleView with master := small, fmt := 2, sew := 3 })] }

/-- R328, R333: a view with a block that is due and one without, a capture that runs, and no view. -/
theorem witness_captures :
    let capturing := next (.viewCapture 0 3) due_
    let written := next (.viewCaptureEnd 0 3) capturing
    let held := { due_ with th := { due_.th with wait := some (.drop 0 3) } }
    ((viewed.die 0).views.entry 3 = some aView ∧ (viewed.die 0).views.entry 4 = none)
    ∧ (aView.due = none)
    ∧ (staleView.due = some 0)
    ∧ (dropWaits due_ 0 3 = false ∧ dropWaits held 0 3 = true)
    ∧ ((due_.pkg 0).split.getLsbD 2 = false)
    ∧ (((written.die 0).views.entry 3).map (fun v => (v.block 0).written.isSome) = some true)
    ∧ (aView.blocks.findIdx? (fun k => k.capturing && k.host.isNone) = none)
    ∧ (((capturing.die 0).views.entry 3).map (fun v => v.blocks.findIdx? (fun k => k.capturing && k.host.isNone)) = some (some 0))
    ∧ ((match (capturing.die 0).views.entry 3 with
      | some v => (v.block 0).written.isNone && (match readMaster 0 v (engineAgent 0 0 false [2, 3, 0]) (v.coords 0) capturing with
      | .ok (es, s) => (match writeCaptured (engineAgent 0 0 false [2, 3, 0]) (capturePlain v es).1 s with
      | .ok (bad, t) => !bad && ((t.die 0).views.entry 3).isSome
      | .error _ => false)
      | .error _ => false)
      | none => false) = true) := by
  and_intros <;> decide +kernel

/-- R343, R347, R348: a record whose next tile may start, one without, a tile that is being converted, and a record that is halted. -/
theorem witness_conversions :
    let c := next (.tileConversionStart 0 5) (relaid 1)
    let h := relaid 3
    ((relaid 1).settled)
    ∧ (((relaid 1).die 0).relays.entry 6 = none)
    ∧ ((aRecord 1).order = 0 :: [] ∧ (aRecord 1).state = 1)
    ∧ (((aRecord 1).tiles.filter (· == .converting)).length < 4)
    ∧ (((relaid 1).pkg 0).split.getLsbD 3 = false)
    ∧ ((((c.die 0).relays.entry 5).map (fun r => (r.phase 0, r.order, r.steers))) = some (.converting, [], true))
    ∧ ((h.die 0).relays.entry 5 = some (aRecord 3) ∧ (aRecord 3).state = 3)
    ∧ ((match (c.die 0).relays.entry 5 with
      | some r => (match carryAll (engineAgent 0 0 false [1, 5, 0]) r ((tileCoords (hLayout r.hand) (hShape r.hand) 0).take 1) c with
      | (_, some (.trap _ _)) => true
      | _ => false)
      | none => false) = true) := by
  unfold State.settled
  and_intros <;> decide +kernel

/-- A record whose tile is carried from page 1 to page 0. -/
def carried : Relay := ⟨0, false, 0, none, relaidHandle small 2 0x80000 5, 0, 0x200000, [.converting], [], 1, 0, 0, 0, []⟩

/-- R343: its elements are all read and written. -/
theorem witness_conversion_carries :
    let s := (relaid 1).setDie 0 { (relaid 1).die 0 with relays := [(5, carried)] }
    ((carryAll (engineAgent 0 0 false [1, 5, 0]) carried (tileCoords (hLayout carried.hand) (hShape carried.hand) 0) s).2 = none) :=
  by decide +kernel

/-- 07_streams.md R191, 14_views_layouts.md R343, R345: the engines own the new lines of a tile that is being converted, the old lines of its
elements, and the lines of a block that is being captured, and no other line; a plain store to such a line waits. -/
theorem test_recall :
    (let s := (relaid 1).setDie 0 { (relaid 1).die 0 with relays := [(5, carried)] }
     let c := next (.viewCapture 0 3) due_
     [0x280000, 0x280080, 0x280100, 0x400000, 0x400080].map (fun a => engineOwned s (podKey 0 a)) = [true, true, false, true, false]
     ∧ [0x301000, 0x301080].map (fun a => engineOwned c (podKey 0 a)) = [true, false]
     ∧ after (.st64 5 1 0 3 7 false) (withX [(1, 0x200000), (5, 9)] s) (fun t => (t.th.wait, memWord t.mem 0x400000 == 9))
         = some (some (.recall 0x400000), false)) := by
  decide +kernel

/-- R415: a Dormer and a registration, each of a node that no route reaches; none of them. -/
theorem witness_lost_nodes :
    let d : Dormer := ⟨0, 0, 0x0050000000010000, 0x1000, none, false⟩
    let r : Registration := ⟨0, 0, 0x10000, 0x1000, 40, 0⟩
    let s := State.reset.setDie 0 { State.reset.die 0 with dormers := [d], registry := [r] }
    ((s.die 0).dormers.find? (fun e => e.didx == 0) = some d ∧ (s.die 0).dormers.find? (fun e => e.didx == 1) = none)
    ∧ (s.reachable 0 (nodeOf d.base) = false)
    ∧ ((s.die 0).registry[0]? = some r ∧ (s.die 0).registry[1]? = none)
    ∧ (¬ r.reader / 8 = 0) := by
  and_intros <;> decide +kernel

/-! ## Witnesses: combiners, token rows, the fabric and the Ethernet engine -/

/-- A die with one contribution on its way, the collective of index `i`, and the combiner slots `l`. -/
def contributed (i : Nat) (l : SMap Combiner) : State :=
  State.reset.setDie 0 { State.reset.die 0 with contribs := [contrib i 0], combiners := l }

/-- A slot of three contributors that holds index 0. -/
def slotOf (st : BitVec 2) : Combiner := { asid := 0, w0 := 0x0000013000420000, w1 := 0x0003000000140001, state := st, arrived := [contrib 0 0] }

/-- R421, R422: a first contribution, one that a full combiner refuses, one of a slot that has ended, a second one, a further one, and none. -/
theorem witness_combiner_events :
    ((State.reset.die 0).contribs[0]? = none)
    ∧ (((contributed 0 []).die 0).contribs[0]? = some (contrib 0 0) ∧ combinerOf ((contributed 0 []).die 0) 0 (cwKey (contrib 0 0).w0) = none)
    ∧ (freeBelow (((contributed 0 []).die 0).combiners.map (·.1)) 64 ≠ [] ∧ cwNcont (contrib 0 0).w1 ≠ 1)
    ∧ (freeBelow (List.range 64) 64 = [] ∧ (contrib 0 0).status = 0)
    ∧ (combinerOf ((contributed 1 [(5, slotOf 1)]).die 0) 0 (cwKey (contrib 1 0).w0) = some (5, slotOf 1))
    ∧ ((slotOf 1).w0 = (contrib 1 0).w0 ∧ cwCommon (slotOf 1).w1 = cwCommon (contrib 1 0).w1)
    ∧ ((slotOf 3).state ≠ 1 ∧ (slotOf 1).state = 1)
    ∧ (∃ q ∈ (slotOf 1).arrived, cwCidx q.w1 = cwCidx (contrib 0 0).w1)
    ∧ ((∀ q ∈ (slotOf 1).arrived, cwCidx q.w1 ≠ cwCidx (contrib 1 0).w1) ∧ (slotOf 1).arrived.length + 1 ≠ cwNcont (slotOf 1).w1) := by
  and_intros <;> decide +kernel

/-- R422: an open slot, one that has asked, one that is PARTIAL, none; a host's answer that matches and one that does not. -/
theorem witness_combiner_ends :
    let c := { slotOf 1 with asked := true }
    let a : Asked := ⟨4, 9, 0x500, 0⟩
    let s := (contributed 1 [(5, c)]).setPkg 0 { State.reset.pkg 0 with split := 0x10, asked := [a] }
    let mine (t : BitVec 16) (a : Asked) : Bool := a.func == 4 && a.tag == t && (bits a.w1 0 3).toNat == 0 % 8 && (bits a.w1 8 6).toNat == 5
    (((contributed 1 [(5, slotOf 1)]).die 0).combiners.entry 5 = some (slotOf 1))
    ∧ (((contributed 1 [(5, slotOf 1)]).die 0).combiners.entry 6 = none)
    ∧ ((slotOf 1).asked = false ∧ c.asked = true ∧ (slotOf 3).state = 3)
    ∧ ((slotOf 1).dups = [] ∧ ∀ p ∈ (slotOf 1).arrived, p.dest = 0 ∧ p.miss = 0 ∧ p.status = 0)
    ∧ ((s.pkg 0).split.getLsbD 4 = true ∧ (State.reset.pkg 0).split.getLsbD 4 = false)
    ∧ ((c.asked && (s.pkg 0).asked.any (mine 9)) = true ∧ (c.asked && (s.pkg 0).asked.any (mine 8)) = false) := by
  and_intros <;> decide +kernel

/-- A row of a thread of the pod with the inbox at `xb` and the used slots `ids`. -/
def aRow (xb : Word) (ids : List (Nat × BitVec 16)) : TokenRow := ⟨0, 4, 3, none, 0, false, xb, ids, [1, 2, 3, 4], 0⟩

/-- A die with a row on its way; the inbox at 0x48000 has 2 experts, rows of 64 bytes, and its ring at 0x50000. -/
def rowed (r : TokenRow) : State :=
  let s := withWords [(0x248000, 0x10002), (0x248008, 0x50000)] (pod State.reset)
  s.setDie 0 { s.die 0 with rows := [r] }

/-- R426, R427: a row without a used slot, one behind another, one whose inbox descriptor cannot be read, one whose descriptor is malformed, one
of an expert beyond NEXP, and one that fans out. -/
theorem witness_fan_events :
    let t := (rowed (aRow 0x48000 [(0, 5)])).setDie 0 { (rowed (aRow 0x48000 [(0, 5)])).die 0 with rows := [] }
    let bad := withWords [(0x248018, 1)] t
    let two := State.reset.setDie 0 { State.reset.die 0 with rows := [aRow 0x48000 [(0, 1)], aRow 0x48000 []] }
    ((State.reset.die 0).rows[0]? = none)
    ∧ (((rowed (aRow 0x48000 [])).die 0).rows[0]? = some (aRow 0x48000 []) ∧ (aRow 0x48000 []).ids = [])
    ∧ (((rowed (aRow 0x48000 [(0, 5)])).die 0).rows = [aRow 0x48000 [(0, 5)]])
    ∧ (((two.die 0).rows.take 1).any (fun q => q.asid == 0 && q.inbox == 0x48000) = true ∧ (two.die 0).rows[1]? = some (aRow 0x48000 []))
    ∧ ((match readInbox bad ((aRow 0x48000 []).agent 0) 0x48000 with
      | .ok (some b, v) => !b.ok && (match inboxWrite v ((aRow 0x48000 []).agent 0) (0x48000 + 16) (leBytes 8 1) with
        | .ok (some _) => true
        | _ => false)
      | _ => false) = true)
    ∧ ((match readInbox { t with poison := [0x248000 / 8] } ((aRow 0x48000 []).agent 0) 0x48000 with
      | .ok (none, _) => true
      | _ => false) = true)
    ∧ ((match readInbox t ((aRow 0x48000 []).agent 0) 0x48000 with
      | .ok (some b, v) => b.ok && decide (b.nexp ≤ (5 : BitVec 16).toNat) && (match inboxWrite v ((aRow 0x48000 []).agent 0) (0x48000 + 16) (leBytes 8 1) with
        | .ok (some _) => true
        | _ => false)
      | _ => false) = true)
    ∧ ((match readInbox t ((aRow 0x48000 []).agent 0) 0x48000 with
      | .ok (some b, v) => b.ok && decide (1 < b.nexp) && decide (1 + 8 ≤ b.rowb) && (match inboxWords ((aRow 0x48000 []).agent 0) 2 v (0x48000 + 80) with
        | .ok ([some wr, some rd], v2) => decide ((wr - rd).toNat < b.cap)
            && decide ((b.rbase + BitVec.ofNat 64 ((1 * b.cap + wr.toNat % b.cap) * b.rowb)).toNat % 128 + (aRow 0x48000 []).row.length + 8 ≤ 128)
            && (let bs := leBytes 4 4 ++ leBytes 2 1 ++ leBytes 2 0 ++ [1, 2, 3, 4]
              let at_ := b.rbase + BitVec.ofNat 64 ((1 * b.cap + wr.toNat % b.cap) * b.rowb)
              match engineReach v2 ((aRow 0x48000 []).agent 0) 12 1 at_ (some bs) with
              | .ok (k, y) => (match engineReach (storeBytes y 0 at_ k bs) ((aRow 0x48000 []).agent 0) 8 1 (0x48000 + 80) (some (leBytes 8 (wr + 1).toNat)) with
                | .ok _ => true
                | _ => false)
              | _ => false)
        | _ => false)
      | _ => false) = true)
    ∧ ((match fanOut t 0 (aRow 0x48000 [(0, 1), (2, 0)]) with
      | .ok _ => true
      | .error _ => false) = true) := by
  and_intros <;> decide +kernel

/-- Package 0 with its link on port 3 in service, node 1 reachable through planes 0 and 1 of die 0, and plane 2 draining. -/
def routed : State :=
  let l : SMap Word := [(4, 0x83), (5, 0x83)]
  let p : Package := { State.reset.pkg 0 with rtnode := [(1, 0x100000001)], ports := [(3, { state := 2 })], planeDrain := 4 }
  let s := (State.reset.setPkg 0 p).setPkg 1 { State.reset.pkg 1 with phys := 1 }
  s.setDie 0 { s.die 0 with active := l, shadow := [(7, 0x83)] }

/-- A bulk flit of die 8 outstanding on port 2. -/
def outstanding : State :=
  routed.setDie 1 { routed.die 1 with links := [(16, { sent := [{ dphys := 0, src := 8, ctl := false, copy := false, kind := 1, seq := 0, plane := 2, port := some 2 }] })] }

/-- R404, R405: tables that pass their check and tables that do not; a change of the planes that is refused and one that is not; a plane that is
idle or busy or neither; a port. -/
theorem witness_route_events :
    let sound (s : State) : Bool := (nodeDies 0).all (fun k => (s.die k).shadow.all (fun e => routeOk (k % 8) (e.1 % 4) e.2))
    let busy (s : State) : Bool := (nodeDies 0).any (fun k => (s.die k).links.any (fun l => l.2.sent.any (fun f => f.port.isSome && f.plane.toNat == (2 : BitVec 2).toNat)))
    (sound routed = true)
    ∧ (sound (routed.setDie 0 { routed.die 0 with shadow := [(4, 0x83)] }) = false)
    ∧ (planesRefused routed 0 0xF 1 (fun k => (routed.die k).active) = true ∧ planesRefused routed 0 0xF 4 (fun k => (routed.die k).active) = false)
    ∧ (planesRefused routed 0 0xE 4 (fun k => (routed.die k).active) = true)
    ∧ ((routed.pkg 0).planeDrain.getLsbD 2 = true ∧ (routed.pkg 0).planeIdle.getLsbD 2 = false ∧ busy routed = false)
    ∧ (busy outstanding = true ∧ (routed.pkg 0).planeDrain.getLsbD 1 = false)
    ∧ (((routed.pkg 0).ports.look {} 3).state = 2 ∧ (routed.pkg 0).split.getLsbD 1 = false ∧ (routed.pkg 0).rterr = false)
    ∧ (entriesOf routed 0 3 = [(0, 7)]) := by
  and_intros <;> decide +kernel

/-- A bulk or control flit of kind `k` and number `n` from die 8 to die 0. -/
def aFlit (ctl : Bool) (k : BitVec 8) (n : BitVec 32) : Flit := 
  { dphys := 0, src := 8, ctl := ctl, copy := false, kind := k, seq := n, plane := 2, port := some 2 }

/-- R406 to R408, R410: flits for this package and for another one, of a kind that is reserved and one that is not, in order, old and in the
window; a gap; a notice whose flits are there, and one that waits for them. -/
theorem witness_flit_events :
    let l : Link := { nextRx := 5, window := [9] }
    let d := { State.reset.die 0 with links := [(16, l), (17, { l with nextRx := 4 })], notices := [⟨8, 4, 3, .chunk job 0 1⟩, ⟨8, 6, 3, .chunk job 0 1⟩, ⟨8, 4, 7, .line aLine⟩, ⟨8, 4, 3, .line aLine⟩, ⟨8, 4, 3, .contribution (contrib 0 0)⟩,
      ⟨8, 4, 3, .row (aRow 0 [])⟩, ⟨8, 4, 3, .data 0 0 0⟩] }
    let s := State.reset.setDie 0 d
    let e := State.reset.setDie 0 { d with links := [(16, { l with early := [aFlit false 1 7] })] }
    let o := s.setDie 8 { s.die 8 with links := [(0, { nextTx := 8, sent := [aFlit false 1 6, aFlit false 1 7] })] }
    let g := { s with th := { s.th with pend := [{ kind := .load, op := 0, sn := 0, asid := 0, addr := 0, key := podKey 8 0, sew := 64, got := some (7, false) }] } }
    ((aFlit false 1 5).dphys = (s.pkg 0).phys)
    ∧ ({ aFlit false 1 5 with dphys := 1 }.dphys ≠ (s.pkg 0).phys)
    ∧ (flitKindOk 4 = false ∧ flitKindOk 1 = true ∧ flitKindOk 0x15 = true ∧ flitKindOk 0x16 = false ∧ (0 : BitVec 8) = 0)
    ∧ ((s.link 0 (linkKey 8 false)).nextRx = 5 ∧ (s.link 0 (linkKey 8 false)).early = [])
    ∧ (seqBefore 4 5 = true ∧ seqBefore 5 5 = false ∧ 9 ∈ (s.link 0 (linkKey 8 true)).window)
    ∧ ((e.link 0 (linkKey 8 false)).early = [aFlit false 1 7])
    ∧ ((o.link 8 (linkKey 0 false)).sent.filter (fun f => !seqBefore f.seq 8) = [])
    ∧ ((o.link 8 (linkKey 0 false)).sent.filter (fun f => !seqBefore f.seq 7) = [aFlit false 1 7])
    ∧ ((s.die 0).notices.map (fun n => seqBefore n.ctl (s.link 0 (linkKey n.src true)).nextRx && seqBefore n.last (s.link 0 (linkKey n.src false)).nextRx)
        = [true, false, false, true, true, true, true])
    ∧ (job.slot = some 0 ∧ (g.thread 0).pend.findIdx? (fun p => p.got.isSome && p.op == 0 && p.idx == 0) = some 0)
    ∧ ((s.die 0).notices[7]? = none) := by
  and_intros <;> decide +kernel

/-- Queue pair 0 of package 0 with its ring of 16 slots at 0x40000, whose first entry is a WRITE of 16 bytes at 0x50000. -/
def pairOf (q : QPair) (w0 : Word := 1) : State :=
  let s := withWords [(0x240040, w0), (0x240048, 0x50000), (0x240050, 16)] (pod State.reset)
  s.setPkg 0 { s.pkg 0 with qpairs := [(0, q)], memregs := [(1, ⟨0x2, 0, 0x50000, 0x100, true, true⟩)] }

/-- A queue pair that is enabled. -/
def aPair : QPair := { base := 0x40000, logns := 4, en := true }

/-- R428, R429: a pair that is enabled, one that is not, and one of another tag; a ring with an entry, with a fenced one and with none; entries
that are open; accesses that the table admits, refuses and does not know. -/
theorem witness_ethernet_events :
    let f := { aPair with open_ := [⟨1, 0x50000, 16, 0⟩] }
    let ag := aPair.agent 0 0
    let r (s : State) (q : QPair) := entryAt s ag q.base (2 ^ q.logns.toNat)
    (((pairOf aPair).pkg 0).qpair 0 = aPair ∧ aPair.en = true ∧ tagOf aPair.base = 0)
    ∧ (({} : QPair).en = false ∧ tagOf 0x8000000000000000 ≠ 0)
    ∧ (∀ c ∈ (pairOf aPair).cores, c.2.comb = [])
    ∧ ((pairOf aPair).pkg 0).ethernetOff = false
    ∧ ((match r (pairOf aPair 0) aPair with
      | .ok (_, none) => true
      | _ => false) = true)
    ∧ ((match r (pairOf aPair) aPair with
      | .ok (s, some (_, _, ws)) => (match enginePieces s ag false (spanPieces 0x50000 16) with
        | .ok ps => ps.length == 1
        | .error _ => false) && !workReserved ws && !bit (ws.getD 0 0) 8 && bits (ws.getD 0 0) 0 8 != 3
      | _ => false) = true)
    ∧ ((match r (pairOf f 0x101) f with
      | .ok (_, some (_, _, ws)) => bit (ws.getD 0 0) 8
      | _ => false) = true)
    ∧ (aPair.open_ = [] ∧ f.open_ = ⟨1, 0x50000, 16, 0⟩ :: [])
    ∧ (((pairOf aPair).pkg 0).memregs.entry (bits (0x2001 : BitVec 32) 0 12).toNat = some ⟨0x2, 0, 0x50000, 0x100, true, true⟩)
    ∧ (((pairOf aPair).pkg 0).memregs.entry (bits (0x2002 : BitVec 32) 0 12).toNat = none)
    ∧ (regionAdmits ⟨0x2, 0, 0x50000, 0x100, true, true⟩ aPair 0x2001 0x50010 8 true = true)
    ∧ (regionAdmits ⟨0x2, 0, 0x50000, 0x100, true, true⟩ aPair 0x2001 0x50010 8 false = true)
    ∧ (regionAdmits ⟨0x2, 0, 0x50000, 0x100, true, true⟩ aPair 0x3001 0x50010 8 true = false)
    ∧ ((0x50010 : Word).toNat % 128 + 8 ≤ 128)
    ∧ ((match enginePlace (pairOf aPair) ag true 8 0x50010 with
      | .ok key => key == 0x250010 && (pairOf aPair).lineFree key
      | .error _ => false) = true)
    ∧ (((pairOf aPair).pkg 0).writes = [])
    ∧ ((match enginePieces (pairOf aPair) ag false (spanPieces 0x50010 8) with
      | .ok _ => true
      | .error _ => false) = true) := by
  and_intros <;> decide +kernel

/-! ## Witnesses: a package -/

/-- `launch` with its run accepted, three groups taken of which `l` are incomplete, policy `pol`, `n` reruns left, and nothing in a slot. -/
def unplaced (pol : BitVec 2) (n : BitVec 4) (l : List Nat) : State :=
  match readRun launch ⟨0, false, 0, []⟩ false 0 0x3000 3 with
  | .ok (some u, _) =>
    let f (st : Stage) : Stage := { st with next := 3, queue := l.map (fun i => ⟨i, false⟩) }
    launch.setRun 0 0 { u with fpol := pol, retry := n, stages := u.stages.map f }
  | _ => launch

/-- R372, R378: a run with each policy and a group that is in no slot; one that is in a slot; a run that is over, and one that is not. -/
theorem witness_run_events :
    let g : GroupRef := ⟨0, 0, 0, 1⟩
    (State.reset.run? 0 0 = none)
    ∧ ((((unplaced 0 0 [1]).run? 0 0).map (fun u => (u.fpol, u.gen, u.ending, u.stages.length)) = some (0, 0, false, 1)))
    ∧ ((((unplaced 1 2 [1]).run? 0 0).map (fun u => (u.fpol, u.retry))) = some (1, 2) ∧ (((unplaced 2 0 [1]).run? 0 0).map (fun u => u.fpol)) = some 2)
    ∧ (∀ k ∈ (unplaced 0 0 [1]).slots, slotNode k = 0 → ((unplaced 0 0 [1]).thread k).slot = .free ∨ ((unplaced 0 0 [1]).thread k).grp ≠ some g)
    ∧ ((((unplaced 1 2 [1]).run? 0 0).map (fun u => (decide (1 < (u.stage 0).next), (u.stage 0).back, (u.stage 0).isComplete 1))) = some (true, [], false))
    ∧ (0 ∈ grouped.slots ∧ slotNode 0 = 0 ∧ (grouped.thread 0).slot ≠ .free ∧ (grouped.thread 0).grp = some ⟨0, 0, 0, 0⟩)
    ∧ ((((unplaced 0 0 []).run? 0 0).map (fun u => runOver (unplaced 0 0 []) 0 0 u)) = some true)
    ∧ (((grouped.run? 0 0).map (fun u => runOver grouped 0 0 u)) = some false) := by
  and_intros <;> decide +kernel

/-- A queue of package 0 with its ring of 16 slots at 0x40000 and a packet of the words `ws`. -/
def packeted (ws : List Word) (q : LQueue := { base := 0x40000, ctl := 0x280000 }) : State :=
  let s := withWords (ws.zipIdx.map (fun p => (0x240040 + 8 * p.2, p.1))) launch
  s.setPkg 0 { s.pkg 0 with queues := [(2, q)] }

/-- Whether queue 2 of package 0 is at a packet with a property. -/
def isAt (s : State) (f : List Word → Bool) : Bool :=
  match packetAt s 0 2 ((s.pkg 0).queues.look {} 2) with
  | .ok (_, some (_, _, ws)) => f ws
  | _ => false

/-- A run that is held. -/
def heldRun : State :=
  match (unplaced 2 0 [1]).run? 0 0 with
  | some u => (unplaced 2 0 [1]).setRun 0 0 { u with holding := true }
  | none => State.reset

/-- R379 to R381: a packet of each kind, one that its BARRIER holds back, and none. -/
theorem witness_packet_events :
    let b : LQueue := { base := 0x40000, ctl := 0x280000, openCopies := 1 }
    let c : List Word := [2, 0x50000, 0x60000, 16]
    ((match packetAt (packeted []) 0 2 (((packeted []).pkg 0).queues.look {} 2) with
      | .ok (_, none) => true
      | _ => false) = true)
    ∧ (isAt (packeted [0x101, 0x3000] b) (fun ws => barred b ws) = true)
    ∧ (isAt (packeted [1, 0x3000] b) (fun ws => !barred b ws && packetOf 1 ws && !packetOf 2 ws && !packetOf 3 ws) = true)
    ∧ (runTableFull (packeted [1, 0x3000]) 0 = false)
    ∧ ((match readRun (packeted [1, 0x3000]) (launchAgent 0 2 { base := 0x40000, ctl := 0x280000 }) true 0 0x3000 3 with
      | .ok (some _, u) => !runTableFull u 0
      | _ => false) = true)
    ∧ (isAt (packeted c) (fun ws => packetOf 2 ws && ws.take 4 == c) = true)
    ∧ (tagOf 0x50000 = 0 ∧ tagOf 0x60000 = 0 ∧ copyFails {} false 16 0x50000 0x60000 = none ∧ copySize 16 ≠ 0)
    ∧ ((packeted c).homeOf 0 0x50000 / 8 = 0)
    ∧ (isAt (packeted [3, 0]) (fun ws => packetOf 3 ws) = true)
    ∧ (((heldRun.run? 0 (bits (0 : Word) 0 8).toNat).map (fun u => (u.gen == bits (0 : Word) 8 16, u.holding))) = some (true, true))
    ∧ (isAt (packeted [7]) (fun ws => !packetOf 1 ws && !packetOf 2 ws && !packetOf 3 ws && packetDone (packeted [7]) 0 2 b ws == 0) = true) := by
  and_intros <;> decide +kernel

/-- R371, R390 to R392, R395: a partition within its budget, near its share, beyond it and beyond the budget, and one without a limit; ports
that are deferred, that ask, and neither. -/
theorem witness_power_events :
    let a : Partition := { inBudget := 10, limit := 1000, tick := 9 }
    (a.inBudget ≠ 0 ∧ ({} : Partition).inBudget = 0 ∧ a.used.toNat ≤ a.limit)
    ∧ (min 50 (a.tick + 1) = 10)
    ∧ (1000 ≤ (a.used + 1000).toNat ∧ (a.used + 500).toNat < 1000 ∧ 1000 * 10 < (a.used + 500).toNat * 50)
    ∧ ((a.used + 100).toNat * 50 ≤ 1000 * 10 ∧ (a.used + 100).toNat * 500 < 9 * 1000 * 10)
    ∧ ((a.used + 190).toNat * 50 ≤ 1000 * 10 ∧ 9 * 1000 * 10 ≤ (a.used + 190).toNat * 500)
    ∧ ((State.reset.pkg 0).split.getLsbD 7 = false ∧ ({ State.reset.pkg 0 with split := 0x80 } : Package).split.getLsbD 7 = true)
    ∧ (({ deferred := true } : Port).deferred = true ∧ ({ request := true } : Port).deferred = false ∧ ({ request := true } : Port).request = true ∧ ({} : Port).request = false)
    ∧ (({ reclaimed := some true } : Port).reclaimed = some true ∧ ({ reclaimed := some false } : Port).reclaimed ≠ some true) := by
  and_intros <;> decide +kernel

/-- R387, R390: a cluster with a thread and one without, an ASID in use and one that is not, and a budget that fits and one that does not. -/
theorem witness_map_writes :
    let live (p : Package) (idx : Nat) : Bool := p.runs.any (fun r => r.2.asid.toNat == idx) || p.saved.any (fun c => c.asid.toNat == idx)
    (clusterBusy running 0 0 = true ∧ clusterBusy State.reset 0 0 = false)
    ∧ (live (grouped.pkg 0) 0 = true ∧ live (State.reset.pkg 0) 0 = false)
    ∧ ((State.reset.pkg 0).pkgbud.toNat < 0 + (bits (0xFFFFFFFF : Word) 0 32).toNat)
    ∧ (¬ ((State.reset.pkg 0).pkgbud.toNat < 0 + (bits (0x1000 : Word) 0 32).toNat)) := by
  and_intros <;> decide +kernel

/-- R394: requests of each kind and the answers to them; an answer without a request; a package without posts. -/
theorem witness_host_events :
    let s (f : BitVec 3) := State.reset.setPkg 0 { State.reset.pkg 0 with asked := [⟨f, 7, 0, 0⟩] }
    let answer (f : BitVec 3) : Word := 0x70000 ||| f.setWidth 64
    (∀ f : BitVec 3, ((s f).pkg 0).asked.find? (fun a => a.func == bits (answer f) 0 3 && a.tag == bits (answer f) 16 16) = some ⟨f, 7, 0, 0⟩)
    ∧ (∀ f : BitVec 3, bits (answer f) 0 3 = f)
    ∧ ((State.reset.pkg 0).asked.find? (fun a => a.func == bits (answer 1) 0 3 && a.tag == bits (answer 1) 16 16) = none)
    ∧ ((State.reset.pkg 0).posts = []) := by
  and_intros <;> decide +kernel

/-- R396: boot at its start, at an optional step that failed, at a mandatory step for the fourth time, at step 24, with the host asked, in
RESCUE, and past its end. -/
theorem witness_boot_events :
    let opt : BootRec := { skipNext := true }
    let q (n : Nat) (r : BootRec) : Package := { State.reset.pkg 0 with bootStep := n, bootrec := vwrite (State.reset.pkg 0).bootrec n r }
    let skips (n : Nat) (p : Package) : Bool := !bootMandatory n && (vread p.bootrec n).skipNext && (vread p.bootrec n).tries == 0
    ((State.reset.pkg 0).bootStep < 32 ∧ (State.reset.pkg 0).rescue = false ∧ (State.reset.pkg 0).bootWait = false)
    ∧ (skips 8 (q 8 opt) = true ∧ skips 0 (State.reset.pkg 0) = false ∧ skips 24 (q 24 opt) = false)
    ∧ (3 < (satAdd (3 : BitVec 4) 1).toNat ∧ (satAdd (2 : BitVec 4) 1).toNat ≤ 3)
    ∧ (bootMandatory 0 = true ∧ bootMandatory 8 = false)
    ∧ (({ q 8 opt with bootWait := true, split := 0x20 } : Package).bootWait = true ∧ ({ q 8 opt with split := 0x20 } : Package).split.getLsbD 5 = true)
    ∧ ((8 : BitVec 5).toNat = 8 ∧ (9 : BitVec 5).toNat ≠ 8)
    ∧ (({ State.reset.pkg 0 with rescue := true } : Package).rescue = true ∧ 32 ≤ ({ State.reset.pkg 0 with bootStep := 32 } : Package).bootStep) := by
  and_intros <;> decide +kernel

/-- R398 to R400: no quote, one that is being formed and one that stands; the standby power on and off. -/
theorem witness_strongroom_events :
    ((State.reset.pkg 0).atGo = false ∧ ({ State.reset.pkg 0 with atGo := true } : Package).atDone = false)
    ∧ (({ State.reset.pkg 0 with atGo := true, atDone := true } : Package).atDone = true)
    ∧ ((State.reset.pkg 0).standby = true ∧ ({ State.reset.pkg 0 with standby := false } : Package).standby = false) := by
  and_intros <;> decide +kernel

/-- The pod with requester 1 enabled at user privilege and requester 2 at system privilege. -/
def companion : State :=
  let s := pod State.reset
  s.setPkg 0 { s.pkg 0 with fitiar := vwrite (vwrite (s.pkg 0).fitiar 1 0x2000) 2 0x3000 }

/-- R385, R216, R325, R295: a write to each of the registers named; requesters that are off, at user and at system privilege; a place of memory
that a request may reach. -/
theorem witness_outside_accesses :
    let w : HeldAccess := ⟨0, false, some 1, 0x50000, 8, none, none, none⟩
    ((bits (0xF000000001000010 : Word) 0 49).toNat = 0x1000010 + 0x1000 * 0)
    ∧ ((bits (0xF00000000103F010 : Word) 0 49).toNat = 0x1000010 + 0x1000 * 63)
    ∧ ((bits (0xF000000003000018 : Word) 0 49).toNat = 0x3000018)
    ∧ ((bits (0xF000000002000000 : Word) 0 49).toNat = 0x2000000 + 0x1000 * 0)
    ∧ ((bits (0xF00000000200F000 : Word) 0 49).toNat = 0x2000000 + 0x1000 * 15)
    ∧ ((bits (0xF000000002000000 : Word) 0 49).toNat / 2 ^ 24 ≠ 5)
    ∧ (bit (vread (companion.pkg 0).fitiar 3) 13 = false)
    ∧ (bit (vread (companion.pkg 0).fitiar 1) 13 = true ∧ bit (vread (companion.pkg 0).fitiar 1) 12 = false)
    ∧ (bit (vread (companion.pkg 0).fitiar 2) 13 = true ∧ bit (vread (companion.pkg 0).fitiar 2) 12 = true)
    ∧ (tagOf 0xF000000003000018 = 0xF ∧ (0xF000000003000018 : Word).toNat % 8 = 0 ∧ (0xF000000003000014 : Word).toNat % 8 ≠ 0)
    ∧ (tagOf 0x8000000000000000 ≠ 0xF ∧ tagOf 0x8000000000000000 ≠ 0 ∧ tagOf 0x50000 = 0)
    ∧ ((companion.pkg 0).rescue = false)
    ∧ ((match checkPlace companion (w.agent 0) true 8 8 0 0x50000 with
      | .ok (.mem key) => key == 0x250000 && companion.lineFree key && !hostOwned companion key
      | _ => false) = true)
    ∧ ((match checkPlace companion (w.agent 0) false 4 4 0 0x50004 with
      | .ok (.mem _) => true
      | _ => false) = true)
    ∧ ((companion.pkg 0).writes = [] ∧ ({ companion.pkg 0 with rescue := true } : Package).rescue = true)
    ∧ (companion.poison = [] ∧ ∀ p ∈ companion.cores, p.2.comb = []) := by
  and_intros <;> decide +kernel

/-! ## Witnesses: results, places of another die, and the ends of what is under way -/

/-- R126: formats of integers and of floats, a NaN and two numbers. -/
theorem witness_compare_results :
    ((0 : Nat) ≠ 2 ∧ (0 : Nat) ≠ 3)
    ∧ (floatFmt 2 3 = some fp32)
    ∧ ((fp32.decode 0x7FC00000).isNan = true)
    ∧ ((fp32.decode 0x3F800000).isNan = false ∧ (fp32.decode 0x80000000).isNan = false)
    ∧ (0 < 1) := by
  and_intros <;> decide +kernel

/-- An FP32 thread of four elements, x4 with v8 and v12. -/
def floats : State := vec 0x023 4 [(4, [0x3F800000, 0, 0, 0]), (8, [0x40000000, 0, 0, 0]), (12, [0x3F800000, 0, 0, 0])]

/-- R127, R132: a float instruction and a permute whose sources are apart from their destination. -/
theorem witness_vector_elements :
    let f := fltOp floats .add 4 8 12 false 0 false
    let p := permOp floats .slideUp 4 8 2 false
    (floats.idle ∧ floats.th.shaped)
    ∧ (fltChecks floats .add f = .ok () ∧ permChecks floats .slideUp p = .ok ())
    ∧ (floatFmt f.fmt (vtSew f.vtype) = some fp32 ∧ secondFmt f.fmt (vtSew f.vtype) f.w2.toNat = some fp32)
    ∧ (∀ g ∈ fltSources .add f, g = f.groupD ∨ f.groupD.overlaps g = false)
    ∧ (∀ g ∈ permSources .slideUp p, g = p.groupD ∨ p.groupD.overlaps g = false)
    ∧ (permSrc .slideUp p floats.th 0 = .keep ∨ permSrc .slideUp p floats.th 3 = .elem 3) := by
  unfold State.idle Thread.shaped
  and_intros <;> decide +kernel

/-- R132: VCOMPRESS of elements 1 and 3 of four. -/
theorem test_compress :
    elems (.vcompress 4 8 2 false) (withM [(2, 10)] (vec 0x023 4 [(4, [5, 6, 7, 8]), (8, [1, 2, 3, 4])])) 4 4 = some [2, 4, 7, 8] := by
  decide +kernel

/-- A thread with x1 in page 0 of die 1, which that die maps to its 0x200000. -/
def far : State :=
  let s := withX [(1, 0x2000000000040), (2, 0xABCDEF0123456789)]
  withWords [(podKey 1 0, 0x201), (podKey 1 0x200, 0x8001), (podKey 1 0x8000, 0x10001), (podKey 1 0x10000, 0x20000F)] s

/-- The same thread with one n32 element. -/
def farOne : State := vec 0x013 1 [(4, [7])] far

/-- The unit store among the forms of majors 0x22 to 0x2A. -/
def unitStore : MemForm := ⟨.store .unit, fun t b _ sn e k n => .vst t b sn e k n⟩

/-- R412: a place of another die, for a store, a handle and one vector element. -/
theorem witness_far_stores :
    let op := memOp farOne unitStore 4 1 0 3 7 false false
    (far.idle ∧ far.settled ∧ far.poison = [])
    ∧ (checkAccess far far.agent true 8 8 0 (far.x 1) = .ok (.mem (podKey 1 0x200040)))
    ∧ (checkAccess far far.agent true 32 32 0 (far.x 1) = .ok (.mem (podKey 1 0x200040)))
    ∧ (remoteKey far.cur (podKey 1 0x200040) = true)
    ∧ (farOne.th.shaped ∧ farOne.th.vl = 1 ∧ farOne.th.active false 0 = true)
    ∧ (memChecks farOne.th op (memTypeOk farOne unitStore) = .ok () ∧ memBad farOne unitStore 1 0 = none)
    ∧ ((match resolve farOne op ((List.range op.n_).filter (farOne.th.active op.k)) 0 with
      | .ok (some h, t) => h.place == .mem (podKey 1 0x200040) && h.i == 0 && t == farOne
      | _ => false) = true) := by
  unfold State.idle State.settled Thread.shaped
  and_intros <;> decide +kernel

/-- R410, R412: a blocking store to another die has its effect there in its step, and a non-blocking one later. -/
theorem test_far_store :
    after (.st32 2 1 0 3 7 false) far (fun t => (memWord t.mem (podKey 1 0x200040), vread t.th.cc 3, (t.core 0).wbuf.length)) = some (0x23456789, 1, 0)
    ∧ after (.st32 2 1 0 3 7 true) far (fun t => (memWord t.mem (podKey 1 0x200040), vread t.th.cc 3, (t.core 0).wbuf.length)) = some (0, 0, 1) := by
  decide +kernel

/-- R157, R163: operands of 32 bits. -/
theorem witness_atomic_results : (32 ∈ [32, 64] ∧ 5 < 2 ^ 32) := by
  decide

/-- R228, R229: descriptors of a signed 8-bit tile and of an NQ4 tile, and a source without an uncorrectable word. -/
theorem witness_tile_images :
    let d : Word := 0x3100104
    let q : Word := 0x6013F
    (dFmt d = 0 ∧ dSew d = 1 ∧ 0 < dN d ∧ 0 < dKb d ∧ 0 < dK d)
    ∧ (dNq4 q = true ∧ dK q ∈ [64, 128, 256] ∧ 0 < dN q)
    ∧ ((Source.mk [(0, 5)] []).bad = []) := by
  and_intros <;> decide +kernel

/-- R232, R237, R240: a load, an ACCWR and a row of the worked example that wait in the matrix pipe. -/
theorem witness_pipe_steps :
    let s (r : MRow) : State := { fp8Tile with th := { fp8Tile.th with rows := [r] } }
    let l : MRow := { op := { kind := .tileLoad true, xb := 0x8000 }, step := 0, image := [1, 2] }
    let w : MRow := { op := { kind := .accWrite, sel := 3 }, step := 0, a := [5, 6] }
    let m : MRow := { op := { kind := .mrow true, sel := 1, xb := (vread fp8Tile.th.tiles 0).desc }, step := 0, a := [0x3F800000] }
    (w.op.acc < 8 ∧ m.op.acc < 8)
    ∧ ((s m).poison = [] ∧ (s m).th.badRegs = [])
    ∧ (0 < l.image.length ∧ 0 < w.a.length) := by
  and_intros <;> decide +kernel

/-- R192: a contribution that WAITC waits for, since an engine owns its line, and the stream without it. -/
theorem witness_held_contributions :
    let c := next (.viewCapture 0 3) due_
    let q : Comb := { aComb with line := 0x101000, key := podKey 0 0x301000, sn := 1 }
    let s := c.setCore 0 { c.core 0 with comb := [q] }
    let f := forceStreams s s.cur (fun k => k == 1)
    (s.lineFree q.key = false)
    ∧ ((f.core 0).comb = [q] ∧ (f.core 0).dead = false ∧ 0 ∈ f.coresOf f.cur)
    ∧ (after (.waitc 2 1) s (fun t => t.th.wait) = some (some (.stream 1))) := by
  and_intros <;> decide +kernel

/-- R414: a collective and an inbox at a node that no route reaches, and one at the thread's own. -/
theorem witness_unsent :
    let s := withWords [(2 ^ 60, 0x0000013000420005)] gathering
    let r := vec 0x013 8 [(8, 0 :: List.replicate 7 0xFFFF)] (withX [(1, 0x50000000000040)])
    (gathering.reachable gathering.dieKey 0 = true)
    ∧ ((0x0000013000420005 : Word).toNat % 256 = 5 ∧ s.reachable s.dieKey 5 = false)
    ∧ (nodeOf (r.x 1) = 5 ∧ r.reachable r.dieKey 5 = false)
    ∧ (∀ p ∈ gathering.dies, p.2.contribs = [] ∧ p.2.rows = [] ∧ p.2.unsent = [])
    ∧ (after (.coll 1 2 0 3 7 true) s (fun t => ((t.die 0).unsent.length, (t.die 0).contribs.length)) = some (1, 0))
    ∧ (after (.tsend 4 1 8 3 7 false true) r (fun t => ((t.die 0).unsent.length, (t.die 0).rows.length)) = some (1, 0)) := by
  and_intros <;> decide +kernel

/-- R42, R371: a thread at system privilege without a frame, and one of a group whose run has OVR. -/
theorem witness_frameless :
    let s := { State.reset with th := { State.reset.th with priv := true } }
    let g := running (match grouped.run? 0 0 with
      | some u => grouped.setRun 0 0 { u with ovr := 2 }
      | none => grouped)
    (s.idle ∧ s.th.priv = true ∧ s.th.framep = 0 ∧ s.th.frame = none)
    ∧ ((g.serial.runOf g.cur).map (fun r => (r.ovr != 0, (r.stages[0]?).isSome)) = some (true, true))
    ∧ (g.th.slot = .running ∧ g.th.grp = some ⟨0, 0, 0, 0⟩) := by
  unfold State.idle
  and_intros <;> decide +kernel

/-- R256: a head whose COLS is beyond 16,384, with a legal VTYPE. -/
theorem witness_return_columns :
    let s := withWords [(0x201128, 16385)] returning
    (headFails s s.th 0x201000 (regionHeld s s.cur s.th) = [])
    ∧ (vtypeLegal (memWord s.mem (0x201000 + 0x120)) = true)
    ∧ (16384 < (memWord s.mem (0x201000 + 0x128)).toNat % 2 ^ 15)
    ∧ ((memWord returning.mem 0x201000).getLsbD 53 = false) := by
  and_intros <;> decide +kernel

/-- R233: a queued load at dispatch, free, over a live region of another, and behind a MACRO's line. -/
theorem witness_tile_dispatch :
    let q := queued (.tldl 0 10 11 8) fp8Source
    let other : Region := { off := 0x8000, size := 192, slot := some 2, grp := none, asid := 0, tile := 1, desc := 0, ph := 8, op := 9 }
    let held := q.setCluster 0 { q.cluster 0 with regions := [other] }
    let d (s : State) := (headOf s 0).map (fun h => match dispatchTile (dispatchVec (s.focus 0) (planOf h.op)) h.op with
      | .ok _ => 0
      | .error (.trap c _) => c.toNat
      | .error _ => 1)
    (d q = some 0)
    ∧ (d held = some 0x31) := by
  and_intros <;> decide +kernel

/-- R153, R185, R190: a contribution that is on its way, into the Larder and into a pod, and a returning atomic. -/
theorem witness_contribution_elements :
    let p : Pend := aPend (.comb .add)
    let q : Pend := { p with addr := 0x40000, key := 0x240000 }
    let s (p : Pend) : State := { State.reset with th := { State.reset.th with pend := [p] } }
    (∀ r ∈ [p, q], (s r).settled ∧ (s r).poison = [] ∧ ((s r).thread 0).pend[0]? = some r ∧ r.got = none ∧ (s r).lineFree r.key = true
      ∧ keyUnreachable (s r) 0 r.key = false ∧ 8 ≤ r.sew)
    ∧ (2 ^ 60 ≤ p.key ∧ q.key < 2 ^ 60)
    ∧ ((aPend .load).returns = true ∧ (aPend (.atom .add)).returns = true ∧ p.returns = false)
    ∧ ((match exec (.elementComplete 0 0) (s q) with
      | .next t => decide ((t.core 0).comb.length = 1 ∧ (t.thread 0).pend.length = 0)
      | _ => false) = true) := by
  unfold State.settled
  and_intros
  all_goals decide +kernel

/-- R274: LDW at a line that is EMPTY and STFL at one that is FULL, each behind its wait, with the limit of reset; and what the event gives. -/
theorem witness_line_limits :
    let l (full : Bool) : State :=
      let s := waitsAt (if full then .stfl 4 1 0 7 false false else .ldw 4 1 0 7 false false) (.line 0x8000000000000080) (lineState full)
      framed { s with th := { s.th with gv := true } }
    (∀ full ∈ [true, false], ((l full).cluster 0).feto ≠ 0 ∧ headOf (l full) 0 = none ∧ ((l full).focus 0).atFirst ∧ ((l full).focus 0).settled
      ∧ (l full).poison = [] ∧ ((l full).thread 0).shaped ∧ ((l full).thread 0).vl = 1 ∧ 8 ≤ vtBits ((l full).thread 0).vtype
      ∧ 4 % vtG ((l full).thread 0).vtype = 0 ∧ ((l full).thread 0).active false 0 = true ∧ lineBase (((l full).focus 0).x 1) = true
      ∧ checkAccess ((l full).focus 0) ((l full).focus 0).agent full 4 4 0 (((l full).focus 0).x 1) = .ok (.mem (2 ^ 60 + 128))
      ∧ (((((l full).focus 0).x 1).toNat % 2 ^ 23 / 128 ∈ ((l full).cluster 0).full) ↔ full = true))
    ∧ ((l true).waiting 0 (.stfl 4 1 0 7 false false) ∧ (l false).waiting 0 (.ldw 4 1 0 7 false false))
    ∧ (∀ full ∈ [true, false], (match exec (.fullEmptyTimeout 0) (l full) with
      | .next t => memWord t.mem 0x201008 == 0x39 && memWord t.mem 0x201010 == 0x8000000000000080
      | _ => false) = true) := by
  unfold State.atFirst State.idle State.settled State.waiting Thread.shaped
  and_intros
  all_goals decide +kernel

/-- R253, 17_package_system.md R389: a running thread without a frame, one with, and a slot without a thread. -/
theorem witness_preemption_requests :
    let s := running State.reset
    ((s.thread (s.lower 0)).slot = .running ∧ (s.thread (s.lower 0)).framep = 0 ∧ (s.thread (s.lower 0)).frame = none)
    ∧ ((State.reset.thread 0).slot ≠ .running)
    ∧ (((running (framed State.reset)).thread 0).framep ≠ 0) := by
  and_intros <;> decide +kernel

/-- R413, R414, R192: entries of a combining buffer whose core is dead, whose line an engine owns, and whose home no route reaches; an entry of
two elements at a place without Seals. -/
theorem witness_buffer_ends :
    let e := { aComb with vals := [{ off := 4, val := 5, parts := [] }, { off := 8, val := 6, parts := [] }] }
    let s (c : Comb) : State := State.reset.setCore 0 { State.reset.core 0 with comb := [c] }
    let dead := State.reset.setCore 0 { State.reset.core 0 with comb := [aComb], dead := true }
    let owned := next (.viewCapture 0 3) due_
    let lost : LineWr := { aLine with key := podKey 40 0 }
    let q : State := State.reset.setCore 0 { State.reset.core 0 with wbuf := [lost] }
    ((dead.core 0).dead = true ∧ (dead.core 0).comb[0]? = some aComb)
    ∧ (owned.lineFree (podKey 0 0x301000) = false)
    ∧ (keyUnreachable (s aComb) 0 (podKey 40 0) = true ∧ keyUnreachable (s aComb) 0 aComb.key = false)
    ∧ (((s e).core 0).comb[0]? = some e ∧ ((s e).core 0).dead = false ∧ (s e).lineFree e.key = true ∧ keyUnreachable (s e) e.slot e.key = false)
    ∧ (∀ p ∈ e.vals, ((s e).die (keyDie (e.key + p.off))).seals = [])
    ∧ ((q.core 0).wbuf[0]? = some lost ∧ keyUnreachable q lost.slot lost.key = true) := by
  and_intros
  all_goals decide +kernel

/-- R291, R292: programs at their end, one that a target has started and one of MACRO; word 1 of each descriptor can be written. A package in
RESCUE, and one that is not. -/
theorem witness_program_ends :
    let ends (s : State) : Bool := match seqRunning s 0 with
      | some q => match runProgram 0 false 64 s q with
        | (u, p, none) =>
          let v := setSeq u 0 (some p) (u.cluster 0).seqQueue
          decide (p.count ≤ p.step) && (match engineAt v p.agent true 8 1 (p.desc + 8) with
            | .ok key => (spanKeys key 8).all v.lineFree
            | _ => false)
        | _ => false
      | none => false
    let m := next (.macroStep 0) (next (.macroStart 0) fired)
    let own := setSeq { running program with th := { (running program).th with wait := some .sequencer } } 0 none [asks]
    let r := next (.macroStart 0) own
    (ends m = true ∧ ends r = true ∧ ends State.reset = false)
    ∧ ((seqRunning m 0).map (·.byTarget) = some true ∧ (seqRunning r 0).map (·.byTarget) = some false)
    ∧ ((State.reset.pkg 0).rescue = false) := by
  and_intros
  all_goals decide +kernel

/-- R221: cores that are withdrawn: with the standby power on, with a group of a run whose policy is to end, and without groups. -/
theorem witness_withdrawals :
    let g := running grouped
    ((State.reset.pkg 0).standby = true)
    ∧ ((g.thread 0).slot = .running ∧ (g.thread 0).gang = false ∧ (g.thread 0).gangHigh = false ∧ (g.thread 0).grp = some ⟨0, 0, 0, 0⟩)
    ∧ ((g.run? 0 0).map (fun r => (r.gen, r.ending, r.fpol)) = some (0, false, 0))
    ∧ (∀ j, j < 4 → j ≠ 0 → (g.thread (0 * 4 + j)).slot = .free ∧ (g.thread (0 * 4 + j)).gangHigh = false) := by
  and_intros
  all_goals decide +kernel

/-- R306 to R309, R317, R347, R386, R396: a die in RESCUE with a request, and one that is not. -/
theorem witness_rescue :
    let r (s : State) : State := s.setPkg 0 { s.pkg 0 with rescue := true }
    ((asked.pkg 0).rescue = false ∧ ((r asked).pkg 0).rescue = true)
    ∧ (((r asked).die 0).fsreqs[0]? = some ⟨fsImage 0 0x220000 false true, false, false⟩)
    ∧ ((moving.pkg 0).rescue = false ∧ ((relaid 3).pkg 0).rescue = false ∧ ((r (relaid 3)).pkg 0).rescue = true) := by
  and_intros <;> decide +kernel

/-- R347: a tile that is being converted, of which the host is asked. -/
theorem witness_conversion_abandons :
    let c := next (.tileConversionStart 0 5) ((relaid 1).setPkg 0 { (relaid 1).pkg 0 with split := 8, logn := 4, bootStep := 32 })
    ((match (c.die 0).relays.entry 5 with
      | some r => decide (r.phase 0 = .converting ∧ r.host.length = 1)
      | none => false) = true)
    ∧ ((c.pkg 0).posts.length + (c.pkg 0).asked.length = 1)
    ∧ ((match exec (.conversionAbandon 0 5 0) c with
      | .next t => decide ((t.pkg 0).posts.length + (t.pkg 0).asked.length = 0)
      | _ => false) = true) := by
  and_intros
  all_goals decide +kernel

/-- R415: a die that a route reaches and one that none does; a Dormer of each. -/
theorem witness_lost_dies :
    (State.reset.reachesDie 0 3 = true ∧ State.reset.reachesDie 0 40 = false)
    ∧ (State.reset.reachable 0 (nodeOf 0x0050000000010000) = false ∧ State.reset.reachable 0 0 = true) := by
  and_intros <;> decide +kernel

/-- R422: the last of three contributions, to no destination and to one, whose results can be written. -/
theorem witness_collective_completes :
    let b : Combiner := { slotOf 1 with arrived := [contrib 0 0, contrib 1 0] }
    let c : Contrib := contrib 2 1
    let x : Contrib := { c with dest := 0x8000000000000400 }
    let s (c : Contrib) : State := State.reset.setDie 0 { State.reset.die 0 with contribs := [c], combiners := [(5, b)] }
    ((∀ q ∈ b.arrived, cwCidx q.w1 ≠ cwCidx c.w1) ∧ b.arrived.length + 1 = cwNcont b.w1 ∧ b.state = 1)
    ∧ (combinerOf ((s c).die 0) c.asid (cwKey c.w0) = some (5, b) ∧ b.w0 = c.w0 ∧ cwCommon b.w1 = cwCommon c.w1 ∧ c.status = 0 ∧ c.miss = 0)
    ∧ (b.dups = [] ∧ ∀ p ∈ b.arrived, p.dest = 0 ∧ p.miss = 0 ∧ p.status = 0)
    ∧ (c.dest = 0 ∧ x.dest ≠ 0)
    ∧ ((match exec (.contribution 0 0) (s c), exec (.contribution 0 0) (s x) with
      | .next t, .next u => ((t.die 0).combiners.entry 5).isNone && ((u.die 0).combiners.entry 5).isNone
      | _, _ => false) = true)
    ∧ ((let b' := { b with arrived := b.arrived ++ [x] }
      let w := sewBits (cwSew b.w0) / 8
      let t := ((s x).setDie 0 { (s x).die 0 with contribs := [] }).setCombiner 0 5 b'
      match foldStop (fun s e => collWrite s 0 x (x.dest + BitVec.ofNat 64 (e.2 * w)) w e.1) (b'.result.zipIdx) t with
      | .ok v => decide (v.mem ≠ t.mem)
      | .error _ => false) = true) := by
  and_intros
  all_goals decide +kernel

/-- R406 to R408: a flit of no port; a gap in the control flits alone; a replay with an open plane and without. -/
theorem witness_flit_gaps :
    let d := { State.reset.die 0 with links := [(17, { nextRx := 5, early := [aFlit true 1 7] })] }
    let s := State.reset.setDie 0 d
    let o := routed.setDie 0 { routed.die 0 with links := [(16, { nextTx := 8, sent := [aFlit false 1 7] })] }
    ({ aFlit false 1 5 with port := none }.port = none)
    ∧ ((s.link 0 (linkKey 8 false)).early = [] ∧ (s.link 0 (linkKey 8 true)).early = [aFlit true 1 7])
    ∧ ((o.link 0 (linkKey 8 false)).sent.filter (fun f => !seqBefore f.seq 7) = [aFlit false 1 7])
    ∧ (openPlanes routed 0 8 ≠ [] ∧ openPlanes State.reset 0 40 = []) := by
  and_intros <;> decide +kernel

/-- R429: a message to a queue pair of which no write is held. -/
theorem test_delivered :
    (∀ w ∈ ((pairOf aPair).pkg 0).writes, w.qp ≠ some 0)
    ∧ after (.rdmaInbound 0 0 0 0 0 true [7]) (pairOf aPair) (fun t => ((t.pkg 0).qpair 0).delivered) = some [[7]] := by
  decide +kernel

/-- R249, R372, R378: causes that are assigned and one that is not; runs that are over, with DONE 0, with one whose checks fail, with one that
is placed, and with one that waits. -/
theorem witness_run_completes :
    let over_ (d : Word) (s : State) : State := match s.run? 0 0 with
      | some u => s.setRun 0 0 { u with done := d }
      | none => s
    let at_ (d : Word) (s : State) : Nat := match checkPlace s (writerAgent 0 0 d) true 8 1 0 d with
      | .ok (.mem key) => if (spanKeys key 8).all s.lineFree then 1 else 2
      | .error (.trap _ _) => 3
      | .error (.wait _) => 4
      | _ => 5
    let e := unplaced 0 0 []
    (causeAssigned 0x05 = true ∧ causeAssigned 0x0F = false)
    ∧ (((over_ 0x3100 e).run? 0 0).map (fun u => (u.done, u.asid, runOver (over_ 0x3100 e) 0 0 u)) = some (0x3100, 0, true))
    ∧ ((over_ 0 e).run? 0 0).map (·.done) = some 0
    ∧ (at_ 0x3100 (over_ 0x3100 e) = 1 ∧ at_ 0x400000 (over_ 0x400000 e) = 3)
    ∧ (at_ 0x0050000000000000 (over_ 0x0050000000000000 e) = 4)
    ∧ (∀ p ∈ e.cores, p.2.comb = []) := by
  and_intros
  all_goals decide +kernel

/-- R394: an answer to a copy of the rings, of which the first is offered, that does not fail and one that does; and what the first copies. -/
theorem witness_ring_copies :
    let o : SMap (List Event) := [(0, [])]
    let p : Package := { State.reset.pkg 0 with asked := [⟨6, 7, 1, 0⟩], offered := [o] }
    let s := State.reset.setPkg 0 p
    (p.asked.find? (fun a => a.func == bits (0x70006 : Word) 0 3 && a.tag == bits (0x70006 : Word) 16 16) = some ⟨6, 7, 1, 0⟩)
    ∧ (bits (0x70006 : Word) 0 3 = 6 ∧ bit (0x70006 : Word) 32 = false ∧ bit (0x100070006 : Word) 32 = true ∧ p.rescue = false)
    ∧ (after (.hans 0 0x70006) s (fun t => ((t.pkg 0).asked.length, (t.pkg 0).offered.length, ((t.pkg 0).bbox.entry 0).isSome)) = some (0, 0, true))
    ∧ (after (.hans 0 0x100070006) s (fun t => ((t.pkg 0).asked.length, (t.pkg 0).offered.length, ((t.pkg 0).bbox.entry 0).isSome)) = some (0, 0, false)) := by
  and_intros
  all_goals decide +kernel

/-- R397: the digests of "abc" that FIPS 180-4 gives as its examples. -/
theorem test_digests :
    beNat (sha256 [0x61, 0x62, 0x63]) = 0xba7816bf8f01cfea414140de5dae2223b00361a396177a9cb410ff61f20015ad
    ∧ beNat (sha384 [0x61, 0x62, 0x63])
      = 0xcb00753f45a35e8bb5a03d699ac65007272c32ab0eded1631a8b605a43ff5bed8086072ba1e7cc2358baeca134c825a7 := by
  decide +kernel

end Sys2Proof.Tests
end

/-! ## The largest vector length (01_thread.md R16) -/

section
namespace Sys2Proof.Machine

/-- R16, first case: a register outside a gang has 8,192 bits. -/
theorem vlmax_outside_gang (w : Word) : vlmax w false = min (vtG w * 8192 / vtBits w) 8192 := by
  simp [vlmax]

/-- R16, second case: a register of a gang has 16,384 bits. -/
theorem vlmax_in_gang (w : Word) : vlmax w true = min (vtG w * 16384 / vtBits w) 16384 := by
  simp [vlmax]

/-- Settles O18, by the two gang states of R16. The equation holds of an illegal VTYPE too, so legality is not used. -/
theorem largestVectorLength : Obligations.LargestVectorLength := by
  intro w g _
  cases g with
  | false => simpa using vlmax_outside_gang w
  | true => simpa using vlmax_in_gang w

end Sys2Proof.Machine
end

/-! ## Hardware loops (04_scalar_control.md R109, R110) -/

section
/-! SUPPORT. The loop-end check branch by branch, and LOOP as its checks followed by the skip of the body or the entry of a level. -/

namespace Sys2Proof.Machine

/-- R110, the loop's guard: with no level active the check finds nothing to do. -/
theorem loopEnd_zero (t : Thread) (a : Word) : loopEnd t a 0 = (a + 4, t) := rfl

/-- R110, the loop's guard: elsewhere than at the end of the innermost level the check finds nothing to do. -/
theorem loopEnd_off_end {t : Thread} {a : Word} {m : Nat} (h : a.toNat ≠ (vread t.le m).toNat) :
    loopEnd t a (m + 1) = (a + 4, t) := by
  simp [loopEnd, h]

/-- R110, another pass of the body: the count goes down. -/
theorem loopEnd_again {t : Thread} {a : Word} {m : Nat} (h : a.toNat = (vread t.le m).toNat) (hc : 1 < (vread t.lc m).toNat) :
    loopEnd t a (m + 1) = ((vread t.ls m).zeroExtend 64, { t with lc := vwrite t.lc m (vread t.lc m - 1) }) := by
  simp [loopEnd, h, hc]

/-- R110, the last pass: the level ends, and the level around it is checked at the same address. -/
theorem loopEnd_out {t : Thread} {a : Word} {m : Nat} (h : a.toNat = (vread t.le m).toNat) (hc : (vread t.lc m).toNat ≤ 1) :
    loopEnd t a (m + 1) = loopEnd { t with lc := vwrite t.lc m 0, ldepth := BitVec.ofNat 2 m } a m := by
  simp [loopEnd, h, Nat.not_lt.mpr hc]

/-- LDEPTH written as a number up to 3 reads back as that number. -/
theorem ldepth_toNat {t : Thread} {n : Nat} (hn : n ≤ 3) (h : t.ldepth = BitVec.ofNat 2 n) : t.ldepth.toNat = n := by
  rw [h, BitVec.toNat_ofNat]
  omega

/-- A commit without a taken transfer goes to the address that the loop-end check of all active levels gives. -/
theorem advance_eq (s : State) :
    s.advance = { s with
      th := Thread.settle { (loopEnd s.th s.th.pc s.th.ldepth.toNat).2 with pc := (loopEnd s.th s.th.pc s.th.ldepth.toNat).1 } } := rfl

/-- Settles O11, by the branches of the loop-end check. A commit runs the check from the depth that LDEPTH names; that the vector
queue is empty is not used, since the statement leaves the bookkeeping of the commit to `Thread.settle`. -/
theorem loopEndCheck : Obligations.LoopEndCheck := by
  intro t a n hn hd
  refine ⟨?outside, ?level, ?commit⟩
  case outside =>
    rintro rfl
    exact loopEnd_zero t a
  case level =>
    rintro m rfl
    exact ⟨loopEnd_off_end, loopEnd_again, loopEnd_out⟩
  case commit =>
    rintro s rfl -
    rw [advance_eq, ldepth_toNat hn hd]

/-- A trap taken with no vector instruction queued is taken at once, at the pc. -/
theorem trapAt_queue_empty {s : State} (h : s.th.vq = []) (c : BitVec 7) (v : Word) :
    trapAt s c v none = takeTrap s c v s.th.pc none false := by
  simp [trapAt, Thread.front, h]

/-- The checks of R109 in their order, of the machine's words as numbers. -/
theorem loopFails_eq (t : Thread) (count : Word) (len : Nat) :
    loopFails t count len =
      if 0 < t.ldepth.toNat ∧ t.pc.toNat = (vread t.le (t.ldepth.toNat - 1)).toNat then some t.pc
      else if 0xFFFFFFFF < count.toNat then some count
      else if 0xFFFFFFFFFFFC < t.pc.toNat + 4 * len then some t.pc
      else if count ≠ 0 ∧ t.ldepth.toNat = 3 then some count
      else none := by
  have hpos : t.ldepth ≠ 0 ↔ 0 < t.ldepth.toNat := by bv_omega
  have hfull : t.ldepth = 3 ↔ t.ldepth.toNat = 3 := by bv_omega
  simp only [loopFails, Bool.and_eq_true, bne_iff_ne, beq_iff_eq, hpos, hfull]

/-- A LOOP that fails one of its checks traps with that check's EVAL and has no effect. -/
theorem execLoop_fails {s : State} (hq : s.th.vq = []) {a : BitVec 5} {l : BitVec 8} {v : Word}
    (h : loopFails s.th (s.x a) (l.toNat + 1) = some v) :
    exec (.loop a l) s = .next (takeTrap s 0x0A v s.th.pc none false) := by
  simp only [exec, execLoop, h, trapAt_queue_empty hq]

/-- A LOOP of count 0 that passes its checks goes on behind the body. -/
theorem execLoop_skips {s : State} {a : BitVec 5} {l : BitVec 8} (h : loopFails s.th (s.x a) (l.toNat + 1) = none) (hx : s.x a = 0) :
    exec (.loop a l) s = .next { s with th := s.th.jump (BitVec.ofNat 64 (s.th.pc.toNat + 4 + 4 * (l.toNat + 1))) } := by
  have hpc : s.th.pc + 4 + BitVec.ofNat 64 (4 * (l.toNat + 1)) = BitVec.ofNat 64 (s.th.pc.toNat + 4 + 4 * (l.toNat + 1)) := by bv_omega
  simp only [exec, execLoop, h, if_pos hx, hpc]

/-- A LOOP of another count that passes its checks enters a level and goes to the start of the body. -/
theorem execLoop_enters {s : State} {a : BitVec 5} {l : BitVec 8} (h : loopFails s.th (s.x a) (l.toNat + 1) = none) (hx : s.x a ≠ 0) :
    exec (.loop a l) s = .next { s with th := (s.th.enterLoop (s.x a) (l.toNat + 1)).jump (s.th.pc + 4) } := by
  simp only [exec, execLoop, h, if_neg hx]

/-- The low bits of a word are its value cut to their number. -/
theorem bits_low {k : Nat} (w : BitVec k) (n : Nat) : bits w 0 n = BitVec.ofNat n w.toNat := by simp [BitVec.extractLsb']

/-- The level that R109 enters, its count, start and end as numbers cut to the width of their registers. -/
theorem enterLoop_eq (t : Thread) (count : Word) (len : Nat) :
    t.enterLoop count len = { t with
      lc := vwrite t.lc t.ldepth.toNat (BitVec.ofNat 32 count.toNat)
      ls := vwrite t.ls t.ldepth.toNat (BitVec.ofNat 48 (t.pc.toNat + 4))
      le := vwrite t.le t.ldepth.toNat (BitVec.ofNat 48 (t.pc.toNat + 4 * len))
      ldepth := BitVec.ofNat 2 (t.ldepth.toNat + 1) } := by
  have hls : bits (t.pc + 4) 0 48 = BitVec.ofNat 48 (t.pc.toNat + 4) := by rw [bits_low]; bv_omega
  have hle : bits (t.pc + BitVec.ofNat 64 (4 * len)) 0 48 = BitVec.ofNat 48 (t.pc.toNat + 4 * len) := by rw [bits_low]; bv_omega
  have hd : t.ldepth + 1 = BitVec.ofNat 2 (t.ldepth.toNat + 1) := by bv_omega
  rw [Thread.enterLoop, bits_low, hls, hle, hd]

/-- Settles O12: each case of R109 says which of the ordered checks fails first, or that none does. -/
theorem loopEnters : Obligations.LoopEnters := by
  intro s a l hq len n atEnd far
  have hfails := loopFails_eq s.th (s.x a) len
  refine ⟨?atEnd, ?bigCount, ?tooFar, ?zero, ?full, ?enter⟩
  case atEnd =>
    intro hend
    exact execLoop_fails hq (hfails.trans (if_pos hend))
  case bigCount =>
    intro hend hbig
    exact execLoop_fails hq (by rw [hfails, if_neg hend, if_pos hbig])
  case tooFar =>
    intro hend hcount hfar
    exact execLoop_fails hq (by rw [hfails, if_neg hend, if_neg (Nat.not_lt.mpr hcount), if_pos hfar])
  case zero =>
    intro hend hx hfar
    exact execLoop_skips (by rw [hfails, if_neg hend, if_neg (by simp [hx]), if_neg hfar, if_neg (by simp [hx])]) hx
  case full =>
    intro hend hx hcount hfar hn
    exact execLoop_fails hq (by rw [hfails, if_neg hend, if_neg (Nat.not_lt.mpr hcount), if_neg hfar, if_pos ⟨hx, hn⟩])
  case enter =>
    intro hend hx hcount hfar hn
    have hfree : ¬ (s.x a ≠ 0 ∧ s.th.ldepth.toNat = 3) := fun h => hn.ne h.2
    rw [execLoop_enters (by rw [hfails, if_neg hend, if_neg (Nat.not_lt.mpr hcount), if_neg hfar, if_neg hfree]) hx, enterLoop_eq]

end Sys2Proof.Machine
end
